-- ==== Sys2Proof/Word.lean ====
section
/-!
DEFINITION. Word.lean: the widths of 00_scope Table 00-3 and the bytes memory holds.
-/
namespace Sys2Proof

/-- A byte of memory. -/
abbrev Byte := BitVec 8

/-- A double: the width of every register (00_scope R10). -/
abbrev Word := BitVec 64

end Sys2Proof
end

