-- ==== Sys2Proof/Machine/TypesFab.lean ====
section
/-!
DEFINITION. TypesFab.lean: packets, links, queue pairs, collectives and the lease (12), replica groups (08).
-/
namespace Sys2Proof.Machine

/-- A transport packet: CTH, extension headers and payload of 12 Tables 12-3 to 12-5. `frame` is what the link layer found
of the frame: 0 good, else the row of Table 12-10 it falls under (1 to 4), 5 for row 1's uncorrectable FEC codeword; `fec`
counts its codewords that the FEC corrected. `resv` says that a reserved CTH or extension bit is set. -/
structure Pkt where
  frame   : Nat
  fec     : Nat
  op      : Nat
  first   : Bool
  last    : Bool
  ackreq  : Bool
  resv    : Bool
  dqpn    : Nat
  psn     : Nat
  ts      : Nat
  reth    : Option (Nat × Nat × Nat × Nat)      -- WIN, GEN, OFFSET, LEN
  ateth   : Option (Nat × Nat)                  -- OPERAND1, OPERAND2
  oeth    : Option (Nat × Nat)                  -- CHAN, CSN
  clth    : Option (Nat × Nat × Nat × Nat × Nat × Nat) -- CSEQ, SEG, a, b, FORM, OFFSET
  aeth    : Option (Nat × Nat × Nat)            -- SACK, CREDIT, REASON
  payload : List Byte
  deriving DecidableEq, Repr

def Pkt.mk0 (op dqpn psn ts : Nat) : Pkt :=
  { frame := 0, fec := 0, op := op, first := true, last := true, ackreq := false, resv := false, dqpn := dqpn, psn := psn, ts := ts
    reth := none, ateth := none, oeth := none, clth := none, aeth := none, payload := [] }

/-- A link of a port (12 R276 to R279): STATE of Table 12-14 (0 down, 1 training, 2 up, 3 holding), what link control
last carried, and the local time it went down. -/
structure Link where
  st       : Nat
  peerId   : Nat
  peerPort : Nat
  peerLink : Nat
  since    : Nat
  deriving DecidableEq, Repr

def Link.init : Link := ⟨0, 0, 0, 0, 0⟩

/-- A packet waiting for transmission, or sent and unacknowledged. `span` is how many PSNs it takes; a response takes none
of this side's and is not kept. -/
structure TxPkt where
  pkt   : Pkt
  span  : Nat
  resp  : Bool
  sentAt : Option Nat                 -- local time of its latest transmission
  sacked : Bool
  deriving DecidableEq, Repr

/-- A packet accepted out of order and not yet placed, or placed ahead of an earlier one. -/
structure RxPkt where
  pkt    : Pkt
  placed : Bool
  deriving DecidableEq, Repr

/-- A work request that has started: its ring index, its 64 bytes, its first PSN and the number of PSNs it takes. `got` are
the response packets delivered (by offset from the first PSN); `coll` marks a collective, which completes by its own
rule. -/
structure WorkReq where
  idx   : Nat
  wr    : List Byte
  psn   : Nat
  span  : Nat
  got   : List Nat
  coll  : Bool
  deriving DecidableEq, Repr

/-- Queue pair (12 R286 to R302). -/
structure Qp where
  st      : Nat                       -- 0 none, 1 ready, 2 closed
  attr    : List Byte                 -- Table 12-6
  alt     : Bool                      -- transmits on its alternate link
  nextPsn : Nat
  una     : Nat                       -- first unacknowledged PSN
  credit  : Nat
  out     : List TxPkt                -- sent and not acknowledged, oldest first
  txq     : List TxPkt                -- waiting for transmission
  wrs     : List WorkReq
  cwnd    : Nat
  rtt     : Nat                       -- latest sample
  round   : Option Nat                -- PSN whose acknowledgement ends the round
  rmin    : Option Nat
  timeouts : Nat
  rnrs    : Nat
  rnrAt   : Option Nat                -- local time of the rnr NAK being waited out
  adv     : Nat                       -- local time from which the retransmit timer runs
  paced   : Nat                       -- local time of its last transmission
  exp     : Nat                       -- receiver's next expected PSN
  limit   : Nat                       -- PSNs from `exp` on within the credit it has advertised
  rx      : List RxPkt
  msg     : Option (Nat × Pkt)        -- message being received in order: start PSN and FIRST packet
  rwr     : Option (List Byte)        -- receive work request of the SEND being received
  rgot    : Nat                       -- bytes of it received
  posted  : List (List Byte)          -- receive work requests fetched, oldest first
  accN    : Nat                       -- packets accepted and not acknowledged
  accTs   : Nat                       -- TS of the packet that will be acknowledged
  accAt   : Option Nat                -- local time of the first such packet
  oow     : List Nat                  -- local times of packets outside the acceptance window
  overN    : List Nat                  -- local times of packets beyond the credit
  bad     : Bool                      -- a word of the carter's buffers for it holds an uncorrectable error (18 R408)
  deriving DecidableEq, Repr

/-- A collective in progress at this rank (12 R299 to R302). `ops` holds the pairs of the nodes present here, keyed by
segment and node; `acks` the (QPN, PSN) of packets not yet acknowledged; `left` the output elements still to be
written; `todo` the chunk combinations still to run here; `got` the output elements that gather packets have delivered, as (first, count). -/
structure Coll where
  qpn   : Nat
  wr    : List Byte
  n     : Nat
  r     : Nat
  cseq  : Nat
  map   : List Nat
  ops   : SMap (SMap (Option Word))
  acks  : List (Nat × Nat)
  left  : Nat
  todo  : Nat
  seen  : SMap Bool
  got   : List (Nat × Nat)
  deriving DecidableEq, Repr

/-- The fabric side of the module. -/
structure Fab where
  links : SMap Link                   -- keyed 8 i + l
  qps   : SMap (Option Qp)            -- keyed by QPN
  colls : SMap (Option Coll)          -- keyed by group
  cseq  : SMap Nat                    -- COLL requests started, by group (R301)
  maps  : SMap (List Nat)             -- rank map of a group's latest collective (R299)
  sendCsn : SMap Nat                  -- next CSN this side sends, by channel
  recvCsn : SMap Nat                  -- next CSN to reach home, by channel
  lastFc : SMap Nat                   -- class last served, by carter
  recAt : List (Nat × Nat × Nat)      -- last record time by (partner, row)
  closes : List (Nat × Nat)           -- violation closes: (partner, bell ns)
  black : List (Nat × Nat)            -- blacklist: (partner, expiry in bell ns)
  leaseAt : Nat                       -- watchman time of the deadline, ns
  leaseSt : Nat                       -- Table 12-22 STATE
  epoch : Nat
  deriving DecidableEq, Repr

def Fab.init : Fab :=
  { links := [], qps := [], colls := [], cseq := [], maps := [], sendCsn := [], recvCsn := [], lastFc := [], recAt := [], closes := [],
    black := [], leaseAt := 0, leaseSt := 0, epoch := 0 }

/-- A digest being accumulated over gather bytes (08 R185, R302): its value so far and the 4-byte units counted. -/
structure Part where
  step : Nat                     -- of a send digest: the step whose bytes it counts
  acc  : Nat
  got  : List (Nat × Nat)        -- byte ranges counted: rising, disjoint, not adjoining
  deriving DecidableEq, Repr

def Part.init : Part := ⟨0, 0, []⟩

/-- A replica group (08 R179 to R200). Blocks are keyed 2^18 shard + block. -/
structure Group where
  st     : Nat                        -- 0 disabled, 1 idle, 2 open, 3 held
  late   : Bool
  reason : Nat
  step   : Nat
  ran    : Bool                       -- some exchange has opened since the enable
  ctx    : Nat
  win    : Nat
  rcd    : List Byte                  -- Table 08-2, as read at enable
  shards : List (List Byte)           -- Table 08-3, as read at enable
  elder  : Nat                        -- authority rank of a replicated group's exchange
  openAt : Nat                        -- local time the exchange opened
  verified : SMap Bool
  auth   : SMap (Option Nat)          -- authority digests of the exchange
  prevStep : Nat                      -- the step of the exchange before it, and the authority digests it held then (R192)
  prevAuth : SMap (Option Nat)
  loc    : SMap (Option Nat)          -- local digests of completely delivered blocks, of the step being checked
  sends  : SMap Part                  -- send digests, keyed 2 block + parity of the step
  recvs  : SMap Part                  -- receive digests, keyed 2 block + parity
  mism   : SMap Bool                  -- blocks counted as mismatched in this exchange
  tries  : SMap Nat                   -- refetches of a block in this exchange
  due    : SMap Bool                  -- refetches not yet requested
  flying : SMap Bool                  -- refetches requested
  sent   : SMap Bool                  -- shards whose digests were sent
  refuse : SMap Bool                  -- blocks it serves no refetch of (R194)
  deriving DecidableEq, Repr

def Group.init : Group :=
  { st := 0, late := false, reason := 0, step := 0, ran := false, ctx := 0, win := 0, rcd := [], shards := [], elder := 0,
    openAt := 0, verified := [], auth := [], prevStep := 0, prevAuth := [], loc := [], sends := [], recvs := [], mism := [], tries := [], due := [],
    flying := [], sent := [], refuse := [] }

end Sys2Proof.Machine
end

