-- ==== Sys2Proof/Machine/TypesMem.lean ====
section
/-!
DEFINITION. TypesMem.lean: memory, the cellar, the stacks (09), contexts and windows (16), error records (18), and what
leaves the module.
-/
namespace Sys2Proof.Machine

/-- Memory: bytes of HBM by die-local address, of DDR5 and of the granaries by window address, and the words or bursts
that hold an uncorrectable error (06 R144, 09 R223) or a correctable one not yet read (06 R144, 09 R222, R229), named by the
address of their first byte. -/
structure Mem where
  cells : List Host.Cell
  bad   : List Nat
  soft  : List Nat
  deriving DecidableEq, Repr

/-- A cellar line (09 R209): its class, whether it is dirty, its place in LRU order (larger is more recent). -/
structure CellarLine where
  keep  : Bool
  dirty : Bool
  stamp : Nat
  data  : List Byte
  bad   : Bool
  soft  : Bool                    -- holds a correctable error not yet read (18 R408)
  deriving DecidableEq, Repr

/-- A cellar slice: lines by line number within the stack, the LRU clock, and the lines a FLUSH still has to write back. -/
structure Slice where
  lines    : SMap (Option CellarLine)
  clock    : Nat
  flushing : List Nat
  deriving DecidableEq, Repr

def Slice.init : Slice := ⟨[], 0, []⟩

/-- One temperature sensor (09 R216), in 1/16 °C: its last three samples, validity, good samples in a row, and the local
time of its last sample. -/
structure Sensor where
  last  : List Int
  valid : Bool
  good  : Nat
  at_   : Nat
  deriving DecidableEq, Repr

def Sensor.init : Sensor := ⟨[], true, 0, 0⟩

/-- Line states of the reeve (10 R238). -/
inductive LineSt where
  | mod
  | exc
  | cri
  | shr
  deriving DecidableEq, Repr

/-- A roll entry (10 R247): the agents that may hold the line with their states, an M holder's data, its place in LRU order,
the harts whose reservation its M holder keeps (R246), and whether the entry holds an uncorrectable error (18 R409). An agent
listed in S may have dropped the line: its next request of the line shows that it had. A holder in E, C or S has the bytes its home
has; `own` keeps those of the holders whose home has lost them since (09 R215). -/
structure RollLine where
  hold  : List (Nat × LineSt)
  data  : Option (List Byte)
  own   : List (Nat × List Byte)
  stamp : Nat
  resv  : List Nat
  bad   : Bool
  deriving DecidableEq, Repr

def RollLine.init : RollLine := ⟨[], none, [], 0, [], false⟩

/-- Functions of an atomic memory operation of RV64A. -/
inductive Amo where
  | swap | add | xor | and | or | min | max | minu | maxu
  deriving DecidableEq, Repr

/-- What a hart or the clerk does with a line once it holds it (10 R246, R250): a plain store, an AMO of 4 or 8 bytes, or a
hart's load-reserved or store-conditional. -/
inductive CacheOp where
  | store (b : List Byte)
  | amo (f : Amo) (size : Nat) (opnd : List Byte)
  | lr (hart size : Nat)
  | sc (hart : Nat) (b : List Byte)
  deriving DecidableEq, Repr

/-- Bytes an operation covers. -/
def CacheOp.len : CacheOp → Nat
  | .store b => b.length
  | .amo _ n _ => n
  | .lr _ n => n
  | .sc _ b => b.length

/-- A transaction at a slice (10 R242), open or waiting. Kinds are those of 19 Table 19-7: 0 ReadShared, 1 ReadUnique,
2 Upgrade, 3 WriteBack, 4 EvictClean, 5 Transfer, 6 snoop-without-allocate read, 7 write-invalidate, 8 atomic, 9 roll
eviction. `agent` is an agent number, or for a non-caching agent 0x80 and its kind (0 cart, 1 update, 2 mill, 3 carter) and 4 times its
unit (4 tile + cart, tile, chute, QPN). `got` is the line data that holders have supplied, `src` who supplied dirty data, `lost` the
lines whose holder met an uncorrectable error, with its word, and `ways` the roll entries the transaction keeps until its release (R248). -/
structure Txn where
  kind   : Nat
  agent  : Nat
  key    : Nat
  len    : Nat
  data   : List Byte             -- bytes written at `key`; operands of a non-caching atomic
  op     : Nat                   -- non-caching atomic: 0 fetch-and-add, 1 compare-and-swap; a non-caching read's or write's hint
  cop    : CacheOp               -- what the caching requester does once it holds the line
  crier  : Bool                  -- CRIER_EN at its ordering (R261)
  snoops : List (Nat × Nat)      -- (agent, line) whose answer is outstanding
  got    : List (Nat × List Byte)
  src    : List (Nat × Nat)
  lost   : List (Nat × Nat)
  ways   : List Nat
  born   : Nat
  roll   : Bool                  -- waits on a roll eviction
  deriving DecidableEq, Repr

/-- HBM.STATUS states (09 Table 09-13). -/
inductive StackSt where
  | untrained
  | online
  | offline
  | selfRefresh
  | failed
  deriving DecidableEq, Repr

def StackSt.code : StackSt → Nat
  | .untrained => 0
  | .online => 1
  | .offline => 2
  | .selfRefresh => 3
  | .failed => 4

/-- A repair in a stack's repair table (09 R224): kind 0 hard PPR, 1 soft PPR, 2 lane, 3 column remap, and its place as
STACK_REPAIR names it: pseudo-channel, bank, row, and the column or lane. -/
structure Repair where
  kind : Nat
  pc   : Nat
  bank : Nat
  row  : Nat
  col  : Nat
  deriving DecidableEq, Repr

/-- An HBM stack and its thermal state (09 R218): hard repair rows left, and the repairs in force (R224). -/
structure Stack where
  st      : StackSt
  hppr    : Nat
  repairs : List Repair
  sensors : SMap Sensor
  temp    : Int
  level   : Nat
  entering : Nat          -- 0, or on its way to self-refresh (1) or offline (2): R214
  deriving DecidableEq, Repr

/-- A memory window (16 Table 16-4, 15 R364). -/
structure Window where
  valid  : Bool
  rights : Nat
  base   : Nat
  len    : Nat
  gen    : Nat
  deriving DecidableEq, Repr

def Window.init : Window := ⟨false, 0, 0, 0, 1⟩

/-- What an access fault, a register access or a window access answers the agent that made it. -/
inductive Resp where
  | none
  | value (v : Word)
  | bytes (b : List Byte)
  | done
  | fault               -- access fault (00 R10, 09 R202)
  | error               -- error response: uncorrectable data (18 R415)
  | refused
  deriving DecidableEq, Repr

/-- An error record on its way to the collector or in its ring (18 Table 18-2), less SEQ. What refers to it takes its SEQ when it
arrives (R411, R412): with `faults` its context's fault, the faults of the contexts `covers`, the records of the models `marks`; a
teardown record that `awaits` a context's fault record takes that one's. -/
structure ErrRec where
  bellNs  : Nat
  cls     : Nat
  action  : Nat
  source  : Nat
  ctx     : Option Nat
  addr    : Option Nat
  nested  : Bool
  boot    : Bool
  model   : Nat
  detail  : List (Nat × Nat × Nat)   -- (offset, bytes, value): DETAIL fields of Table 18-3
  faults  : Bool
  covers  : List Nat
  marks   : List Nat
  awaits  : Option Nat
  rep     : Nat
  deriving DecidableEq, Repr

end Sys2Proof.Machine
end

