-- ==== Sys2Proof/Machine/TypesHub.lean ====
section
/-!
DEFINITION. TypesHub.lean: the bell (13), the mill (14), the clerk (15), power and the watchman (17), the error ring (18),
observation (19), boot and trust (20), lamps and supply (21), die link sites (11), and what leaves the module.
-/
namespace Sys2Proof.Machine

/-- A die link site (11 R265 to R269): STATE of Table 11-7, failed attempts, spares in service, NAKs in a row for one
flit and their sequence number, the next sequence number expected, CRC errors with their local times, and groups with
their last calibration. `spares` are those of the direction it receives. It sends with sequence number `txSeq`, keeps what is not
acknowledged in its replay buffer `replay` (oldest first), and holds the running credit totals last received, one a class
(Request, Snoop, Response, Bulk). `met`: the link has trained since power-on or module reset. -/
structure Site where
  st       : Nat
  attempts : Nat
  spares   : Nat
  txSeq    : Nat
  replay   : List Nat
  credit   : List Nat
  met      : Bool
  naks     : Nat
  nakSeq   : Nat
  exp      : Nat
  crcAt    : List Nat
  calAt    : SMap Nat
  deriving DecidableEq, Repr

def Site.init : Site :=
  { st := 0, attempts := 0, spares := 0, txSeq := 0, replay := [], credit := [], met := false, naks := 0, nakSeq := 0, exp := 0,
    crcAt := [], calAt := [] }

/-- A PTP message with what its ring entry carries (13 Table 13-1). -/
structure PtpMsg where
  event : Bool
  eth   : Bool
  ip6   : List Byte
  msg   : List Byte
  deriving DecidableEq, Repr

/-- A bell book instance that has fallen due and not yet issued (13 R482, R323). -/
structure Due where
  entry : Nat
  at_   : Nat                  -- its due time
  late  : Bool
  deriving DecidableEq, Repr

/-- Bell time and the bell book (13). The count is `ns` of the hub plus 48 bits of fraction. -/
structure Bell where
  frac   : Nat                 -- 16 bits of fraction and 32 internal bits (R309)
  slew   : Int                 -- correction still to be absorbed, in 2^-16 ns
  lock   : Nat                 -- 0 unlocked, 1 locked, 2 holdover
  good   : Nat                 -- consecutive corrections within LOCK_NS
  seen   : Bool                -- the selected source has been present since it was selected
  lastStep : Int
  lastErr : Int
  quietAt : Nat                -- local time of the last RATE or OFFSET write, or of the last pulse
  rxHead : Nat
  txTail : Nat
  due    : List Due
  bad    : SMap Bool           -- E_STAT.BAD
  opp    : List Nat            -- entries whose OPPOINT awaits its grant (R320)
  waitT  : List Nat            -- entries whose TITHE waits at a swapping tile (16 R479)
  waitAll : List (Nat × Nat)   -- (entry, tile): a TITHE for every tile of its context waits at a swapping tile
  insts  : Nat                 -- TOKEN instances issued
  digs   : List (Nat × Nat)    -- (entry, group): whose DIGEST opened the group's latest exchange
  deriving DecidableEq, Repr

def Bell.init : Bell :=
  { frac := 0, slew := 0, lock := 0, good := 0, seen := false, lastStep := 0, lastErr := 0, quietAt := 0, rxHead := 0,
    txTail := 0, due := [], bad := [], opp := [], waitT := [], waitAll := [], insts := 0, digs := [] }

/-- A sample in flight or done and not yet forwarded (14 R339 to R341). -/
structure Sample where
  slot  : Nat
  order : Nat                  -- place in taking order within the batch
  rcd   : List Byte            -- its sample record
  done  : Bool
  bad   : Bool                 -- a word of the mill's buffers for it holds an uncorrectable error (18 R408)
  deriving DecidableEq, Repr

/-- A chute (14 R326 to R347). -/
structure Chute where
  on      : Bool
  alarm   : Bool
  reason  : Nat
  rcd     : List Byte
  ctx     : Nat
  head    : Nat
  released : Nat
  inBatch : Bool               -- a batch is being filled
  batch   : Nat
  taken   : Nat                -- records taken in this batch
  fwd     : Nat
  rejs    : Nat
  rejLost : Nat
  rejAll  : Nat
  firstSeq : Option Nat
  lastSeq : Nat
  prevSeq : Option Nat         -- SEQ of the previous record (ordered mode)
  samples : List Sample
  kept    : List Nat           -- slots of the batch's forwarded samples
  drought : Option Nat         -- local time the drought timer began to run
  dry     : Nat                -- ns it had run before that (R343)
  deriving DecidableEq, Repr

def Chute.init : Chute :=
  { on := false, alarm := false, reason := 0, rcd := [], ctx := 0, head := 0, released := 0,
    inBatch := false, batch := 0, taken := 0, fwd := 0, rejs := 0, rejLost := 0, rejAll := 0, firstSeq := none,
    lastSeq := 0, prevSeq := none, samples := [], kept := [], drought := none, dry := 0 }

/-- The mill. -/
structure Mill where
  chutes : SMap Chute
  turn   : Nat                 -- chute an engine was last handed to
  deriving DecidableEq, Repr

/-- A mailbox (15 R350 to R353). Mailbox 64 is the management port. -/
structure Mbox where
  req   : List Byte
  rep   : List Byte
  go    : Bool                 -- GO written and not yet accepted
  busy  : Bool
  done  : Bool
  last  : Nat                  -- LAST_STATUS
  bound : Option Nat
  deriving DecidableEq, Repr

def Mbox.init : Mbox :=
  { req := List.replicate 64 0, rep := List.replicate 64 0, go := false, busy := false, done := false, last := 0,
    bound := none }

/-- A command the clerk is executing (15 R352). -/
structure ClerkCmd where
  id    : Nat
  box   : Nat                  -- mailbox, 64 for the management port
  rcd   : List Byte
  pay   : List Byte            -- a management request's inline payload
  src   : Nat                  -- management source and SEQ
  seq   : Nat
  at_   : Nat                  -- local time of acceptance
  ready : Bool                 -- its work is done; BACKGROUND_COMMAND_DONE writes its reply
  status : Nat
  results : List Byte          -- reply bytes 16 to 63
  shard : Option (Nat × Nat)   -- context and SHARD_ID of the shard an export copies (07 R177)
  deriving DecidableEq, Repr

/-- A kept management reply (R355). -/
structure Kept where
  src : Nat
  seq : Nat
  rep : List Byte
  pay : List Byte
  deriving DecidableEq, Repr

/-- The clerk. -/
structure Clerk where
  boxes : SMap Mbox
  cur   : Option ClerkCmd      -- accepted, checks passed, effect not yet performed
  bg    : List ClerkCmd        -- background commands running
  heldCmds : List ClerkCmd     -- background commands that wait for a slot (R352)
  nextId : Nat
  lastBox : Nat                -- mailbox accepted last
  kept  : List Kept            -- newest first, at most 16
  scope : Nat                  -- MGMT_SCOPE
  caps  : Nat × Nat            -- module and die caps in W
  patched : Nat                -- slots in force, slots shadowed
  shadowed : Nat
  patchOps : SMap Nat          -- the opcodes of the slots in force
  heldOut : List Nat           -- slots held out after a crash (18 R423)
  mgmtSrc : Nat                -- the management request waiting in mailbox 64: source, SEQ, inline payload (R355)
  mgmtSeq : Nat
  mgmtPay : List Byte
  deriving DecidableEq, Repr

def Clerk.init : Clerk :=
  { boxes := [], cur := none, bg := [], heldCmds := [], nextId := 0, lastBox := 64, kept := [], scope := 0x7FFF,
    caps := (6800, 640), patched := 0, shadowed := 0, patchOps := [], heldOut := [],
    mgmtSrc := 0, mgmtSeq := 0, mgmtPay := [] }

/-- A filtered watchman input (17 R402): last samples, the filtered value (in 1/65536 of the unit). -/
structure WIn where
  last : List Int
  y    : Option Int
  deriving DecidableEq, Repr

def WIn.init : WIn := ⟨[], none⟩

/-- Power and the watchman (17). -/
structure Power where
  req   : SMap Nat             -- requested point by tile (4 by default)
  eff   : SMap Nat             -- effective point by tile
  want  : SMap Nat             -- effective point decided and not settled, + 1
  ceil  : SMap Nat             -- power ceiling by die
  wcode : SMap Bool            -- watchman conditions that hold: 16 × place + code
  wceil : SMap Nat             -- watchman throttle steps by die for code 0x01
  wAt   : SMap Nat             -- local time of the last step by die, + 1
  millReq : Nat
  sag   : SMap (Option Nat)    -- local time a stretch began, by die, 8 the hub
  drop  : SMap Nat             -- local time of the last droop of that stretch
  sagRem : SMap Nat            -- ns stretched that STRETCH_US does not count yet, by die
  uj    : SMap Nat             -- PWR.ENERGY by die
  tileUj : SMap Nat            -- apportioned to tiles
  hubUj : SMap Nat             -- 0 hub die, 1 DDR5, 2 to 5 lamps, 6 conversion loss, 7 unattributed
  ins   : SMap WIn
  action : Nat                 -- WATCH.STATUS.ACTION
  cause : Nat
  sev   : Nat                  -- severity of the decision in progress (R403)
  graceAt : Option Nat         -- watchman time the main switch opens
  calmAt : Option Nat          -- local time since which no condition has held, after a shutdown
  leakAt : Option Nat          -- local time of the last open-rope record
  capHeld : Bool               -- code 0x0C holds the module cap
  crash : List Byte            -- crash record (18 Table 18-5)
  crashT : List Int            -- the stack temperatures kept with it (09 R221), in 1/16 °C; Table 18-5 gives them no bytes
  mainSw : Bool
  bank  : Bool
  inputs : List Nat            -- module input power of the last 100 intervals of 100 µs, newest first, in W
  leak  : Nat
  clerkErrAt : Option Nat      -- local time of the last clerk restart (18 R424)
  waits : SMap Nat             -- by 3 g + s: what a contributing stream waited on at the last OP_REQUEST_UPDATE, + 1 (R395)
  bothAt : Option Nat          -- local time both blades were first below 46 V (code 0x0D)
  latched : Bool               -- only removing the input restarts the module (R405)
  deriving DecidableEq, Repr

def Power.init : Power :=
  { req := [], eff := [], want := [], ceil := [], wcode := [], wceil := [], wAt := [], millReq := 4, sag := [], drop := [], sagRem := [], uj := [],
    tileUj := [], hubUj := [], ins := [], action := 0, cause := 0, sev := 0, graceAt := none, calmAt := none,
    leakAt := none, capHeld := false, crash := List.replicate 128 0, crashT := [], mainSw := false, bank := false, inputs := [],
    leak := 2, clerkErrAt := none, waits := [], bothAt := none, latched := false }

/-- A lamp bay (21 R468, R469). `seen`: the watchman has read the bay since its own power-up; its register reads zero before. -/
structure Lamp where
  st    : Nat                  -- Table 21-7 STATE
  open_ : Bool
  phase : Nat                  -- 0, 1 warming, 2 calibrating, 3 carter readiness
  temp  : Nat
  hours : Nat
  seen  : Bool
  deriving DecidableEq, Repr

def Lamp.init : Lamp := ⟨0, false, 0, 0, 0, false⟩

/-- A hart as it leaves reset (20 R453): in a mode (3 machine) at `pc` with its number in a0 and the boot record's address in a1, its
satp, its interrupt enables and its other registers. What it executes then is no command of the table. -/
structure Hart where
  pc     : Nat
  a0     : Nat
  a1     : Nat
  mode   : Nat
  satp   : Word
  enable : Word
  others : SMap Word           -- registers that are not zero
  deriving DecidableEq, Repr

/-- What else an interrupt file holds (20 R454, the RISC-V Advanced Interrupt Architecture): eidelivery, eithreshold and the enabled
identities. Only instructions of its hart reach them; their reset values are notes/assumptions/108. -/
structure IFile where
  delivery  : Nat
  threshold : Nat
  enabled   : SMap Bool
  deriving DecidableEq, Repr

def IFile.init : IFile := ⟨0, 0, []⟩

/-- Boot, flash and trust (20). -/
structure Boot where
  phase  : Nat                 -- 1 to 7, 8 released, 9 held
  cause  : Nat
  retained : Bool
  holdAt : Option Nat          -- local time self-refresh began on hold-up power
  bank   : Nat
  iver   : Nat
  entry  : Nat                 -- ENTRY of the booted image
  booted : Bool                -- a host image was loaded
  unverified : Bool            -- it failed its verification at the last host reset
  scopes : Nat
  unlocked : Bool
  fails  : Nat
  challenge : Word
  flash  : SMap Byte           -- flash contents that differ from erased (0xFF)
  repairs : SMap (List Repair) -- the stack repair tables in the flash, by stack (09 R224)
  busy   : Bool                -- FLASH_CTRL.BUSY
  op     : Option (Nat × Nat)  -- flash operation running and its page
  harts  : SMap (Option Hart)  -- harts running, as they started
  imsic  : SMap Bool           -- pending identities: 2048 × (9 hart + file) + identity
  ifiles : SMap IFile          -- the rest of the interrupt files, by 9 hart + file
  firstSeq : Nat
  fallow : Nat                 -- 0 running, 1 fallow reset in progress, 2 fallow, 3 waking from fallow
  wakeBad : Bool               -- a stack failed retraining while waking
  extest : Bool
  mrst   : Bool                -- MRST_N held low
  resetAt : List (Nat × Nat)   -- resets requested and not begun: (kind, local time)
  meas   : SMap (List Byte)    -- measurements: 0 host image, 1 + i patch slot
  lamps  : SMap Lamp
  dimms  : Nat                 -- slots holding the wrong capacity
  scrub  : SMap Nat            -- scrub positions: stack k, 16 + DDR5 channel, 64 + SRAM unit
  deriving DecidableEq, Repr

/-- The error collector's ring (18 R410 to R413): records with SEQ, whether read, whether the slot holds an uncorrectable
word; oldest first. -/
structure RingRec where
  seq  : Nat
  rcd  : ErrRec
  read : Bool
  bad  : Bool
  deriving DecidableEq, Repr

structure ErrRing where
  recs  : List RingRec
  next  : Nat
  overN  : Nat
  lastOf : SMap Nat            -- SEQ of the most recent record of a source
  deriving DecidableEq, Repr

def ErrRing.init : ErrRing := ⟨[], 1, 0, []⟩

/-- A gauge (19 R442). -/
structure Gauge where
  cfg  : List Byte
  min  : Option Int
  max  : Option Int
  n    : Nat
  seen : Nat                   -- events met, for RATE
  bins : SMap Nat
  deriving DecidableEq, Repr

def Gauge.init : Gauge := ⟨List.replicate 16 0, none, none, 0, 0, []⟩

/-- A census (19 R433 to R436): running, with what it samples into. -/
structure Census where
  trigger : Nat                -- 0 command, 1 watchdog, 2 bell book
  dest    : Nat                -- physical address of the header
  win     : Option (Nat × Nat × Nat)
  tile    : Nat
  strm    : Nat
  entry   : Option Nat         -- bell book entry that took it
  cmd     : Option Nat         -- background command that took it
  start   : Nat
  queues  : List Nat           -- queues not free at its start (R435)
  tiles   : List Nat           -- tiles present at its start
  hops    : List Nat           -- hops at its start
  deriving DecidableEq, Repr

/-- Observation state beyond registers (19). -/
structure Obs where
  census : Option Census
  waits  : List Nat            -- CENSUS_TAKE commands waiting for their turn (background command ids)
  gauges : SMap Gauge
  elatch : SMap Nat            -- die d: 16 d + j; hub: 128 + j; times 16 d + 11, 128 + 4
  deriving DecidableEq, Repr

/-- What leaves the module in a step. -/
inductive Outp where
  | pkt (port link : Nat) (p : Pkt) (frame : List Byte)
  | linkControl (port link serial : Nat)
  | digests (group rank shard step : Nat) (ds : List Nat)
  | refetchReq (group rank shard block step : Nat)
  | refetchAns (group rank shard block ans : Nat) (data : List Byte)
  | ptp (port link : Nat) (m : PtpMsg) (nextHop : List Byte)
  | mgmt (src hdr : Nat) (rep pay : List Byte)
  | challenge (c : Word)
  | nak (site seq : Nat)
  | replay (site seq : Nat)
  | answer (agent kind key : Nat) (r : Resp)      -- what a slice answers a requester (10 R242)
  deriving DecidableEq, Repr

end Sys2Proof.Machine
end

