-- ==== Sys2Proof/Syntax.lean ====
section
/-!
DEFINITION. Syntax.lean: the commands of spec/opcode_table.json, one constructor a row, with the operands each needs.
Operands: `g` tile, `s` stream, `rs1` … `sy` register numbers, `hart` the accessing hart, `a` physical address, `v` value
written, `seq` a command's place or a sequence number, `port` and `link` of a carter, `qpn` queue pair, `grp` replica group,
`ch` chute, `e` bell book entry, `mb` mailbox, `k` stack or slice, `d` die. An outcome the module does not decide (`ok`, `fail`,
`found`, `failed`, measured values) is an operand.
-/
namespace Sys2Proof

/-- A tensor command meets the module twice: its issue, with the registers its instruction names, and its turn on its unit
(04 R84, R85). -/
inductive Phase where
  | issue (rs1 rs2 rs3 sy : Nat)
  | run
  deriving DecidableEq, Repr

/-- A non-caching agent of a request (Table 10-1): its kind, and 4 times its unit: 0 a cart (4 tile + cart), 1 a tile's update, 2 a
chute, 3 a queue pair of a carter. -/
def ncOk (nc : Nat) : Bool :=
  let u := nc / 4
  (nc % 4 == 0 && decide (u < 320)) || (nc % 4 == 1 && decide (u < 80)) || (nc % 4 == 2 && decide (u < 16)) ||
    (nc % 4 == 3 && decide (u < 2 ^ 20))

inductive Instr where
  /-- REGISTER_WRITE (R15). A hart writes `v` (its low bits for a 4-byte access) at a register address. -/
  | registerWrite (hart a width : Nat) (v : Word)
  /-- READ_CLEAR (R13). A hart reads a register. -/
  | readClear (hart a width : Nat)
  /-- STREAM_START (R81). -/
  | streamStart (g s : Nat)
  /-- STREAM_START_GRANTED (R94). -/
  | streamStartGranted (g s : Nat)
  /-- TILE_STOP (R83). -/
  | tileStop (g : Nat)
  /-- STREAM_INSTRUCTION (R80). -/
  | streamInstruction (g s : Nat)
  /-- CSR_COUNTER_READ (R478). -/
  | csrCounterRead (g s rd csr : Nat)
  /-- FENCE_I (R478). -/
  | fenceI (g s : Nat)
  /-- MMA (R109). -/
  | mma (g s rs1 rs2 rs3 sy : Nat)
  /-- MDRAIN (R106). -/
  | mdrain (g s rs1 rs2 rs3 sy : Nat)
  /-- CART (R145). -/
  | cart (g s rs1 rs2 sy : Nat)
  /-- TALLOC (R93). -/
  | talloc (g s rs1 sy : Nat)
  /-- TALLOC_GRANT (R93). -/
  | tallocGrant (g s : Nat)
  /-- GFENCE (R96). -/
  | gfence (g s sy : Nat)
  /-- GFENCE_COMPLETE (R96). -/
  | gfenceComplete (g s seq : Nat)
  /-- TSTEP (R96). -/
  | tstep (g s : Nat) (p : Phase)
  /-- TNOP (R96). -/
  | tnop (g s : Nat) (p : Phase)
  /-- TWAIT_CONSUME (R89). -/
  | twaitConsume (g s rs1 rs2 : Nat)
  /-- TWAIT_PEEK (R89). -/
  | twaitPeek (g s rs1 rs2 : Nat)
  /-- TWAIT_RELEASE (R90). -/
  | twaitRelease (g s : Nat)
  /-- TSIG (R96). -/
  | tsig (g s rs1 rs2 : Nat)
  /-- TSIG_REMOTE (R91). -/
  | tsigRemote (g s rs1 rs2 rs3 : Nat)
  /-- TEND (R82). -/
  | tend (g s : Nat)
  /-- TEND_RETIRE (R82). -/
  | tendRetire (g s : Nat)
  /-- COMMAND_DISPATCH (R85). -/
  | commandDispatch (g s : Nat)
  /-- COMMAND_COMPLETE (R87). -/
  | commandComplete (g s seq : Nat)
  /-- REMOTE_TOKEN_SIGNAL (R91). -/
  | remoteTokenSignal (src dst : Nat)
  /-- WATCHDOG_EXPIRY (R111). -/
  | watchdogExpiry (g s : Nat)
  /-- TOKEN_WRITE (R90). -/
  | tokenWrite (g tok v : Nat)
  /-- PEN_LOAD (R35). One pass delivers a block to `nr` rows from `r0`, `rstep` apart, and `nc` columns from `c0`, `cstep` apart. -/
  | penLoad (g s r0 nr rstep c0 nc cstep : Nat)
  /-- TROUGH_FILL (R37). The tile, the stream, the trough entry filled in each destination core, and the rectangle of destination cores. -/
  | troughFill (g x e r0 nr rstep c0 nc cstep : Nat)
  /-- K_STEP (R31). `c` is the core, 32 × row + column. -/
  | kStep (g s c : Nat)
  /-- SLOT_DRAIN (R45). `c` is the leader of a group. -/
  | slotDrain (g s c : Nat)
  /-- VMAP (R122). -/
  | vmap (g s : Nat) (p : Phase)
  /-- VRED (R127). -/
  | vred (g s : Nat) (p : Phase)
  /-- VSOFTMAX (R129). -/
  | vsoftmax (g s : Nat) (p : Phase)
  /-- VLNORM (R130). -/
  | vlnorm (g s : Nat) (p : Phase)
  /-- VRMSNORM (R130). -/
  | vrmsnorm (g s : Nat) (p : Phase)
  /-- VGATHER (R131). -/
  | vgather (g s : Nat) (p : Phase)
  /-- VSCATTER (R131). -/
  | vscatter (g s : Nat) (p : Phase)
  /-- VSCATADD (R131). -/
  | vscatadd (g s : Nat) (p : Phase)
  /-- VRAND_UNIFORM (R136). -/
  | vrandUniform (g s : Nat) (p : Phase)
  /-- VRAND_NORMAL (R136). -/
  | vrandNormal (g s : Nat) (p : Phase)
  /-- VRAND_BERNOULLI (R136). -/
  | vrandBernoulli (g s : Nat) (p : Phase)
  /-- VMXPACK_PEN (R132). -/
  | vmxpackPen (g s : Nat) (p : Phase)
  /-- VMXPACK_CHUNK (R132). -/
  | vmxpackChunk (g s : Nat) (p : Phase)
  /-- VEC_RNG_SEED_WRITE (R133). -/
  | vecRngSeedWrite (hart g : Nat) (v : Word)
  /-- CART_PIECE_COMPLETE (R148). Piece `n` of cart `ct`. -/
  | cartPieceComplete (g ct n : Nat)
  /-- GRANARY_WINDOW_ACCESS (R156). `store` carries a store's bytes, none for a load. -/
  | granaryWindowAccess (hart a size : Nat) (store : Option (List Byte))
  /-- UPDATE (R164). -/
  | update (g s rs1 rs2 rs3 sy : Nat)
  /-- TALLY_RESTORE_FREE (R173). `j` is a tally slot. -/
  | tallyRestoreFree (g j : Nat)
  /-- UPDATE_SHEAF_START (R169). -/
  | updateSheafStart (g : Nat)
  /-- UPDATE_OPEN_RECORD (R170). -/
  | updateOpenRecord (g j : Nat)
  /-- UPDATE_WRITE_MOMENTS (R170). -/
  | updateWriteMoments (g j : Nat)
  /-- UPDATE_WRITE_WEIGHTS (R170). -/
  | updateWriteWeights (g j : Nat)
  /-- UPDATE_COMMIT (R170). -/
  | updateCommit (g j : Nat)
  /-- REPL_GROUP_ENABLE (R199). -/
  | replGroupEnable (hart grp : Nat) (v : Word)
  /-- REPL_GROUP_DISABLE (R200). -/
  | replGroupDisable (hart grp : Nat) (v : Word)
  /-- SHARD_READY_SEND (R189). -/
  | shardReadySend (grp sh : Nat)
  /-- DIGEST_TABLE_RECEIVE (R190). Rank `rank` sends digest `v` of block `b` of shard `sh`. -/
  | digestTableReceive (grp rank sh b step v : Nat)
  /-- REFETCH_START (R192). -/
  | refetchStart (grp sh b : Nat)
  /-- REFETCH_SERVE (R192). Rank `rank` asks. -/
  | refetchServe (grp rank sh b step : Nat)
  /-- REFETCH_DELIVER (R192). `answer`: 0 the block, 1 STALE, 2 INTEGRITY. -/
  | refetchDeliver (grp sh b answer : Nat) (data : List Byte)
  /-- EXCHANGE_CLOSE_GATE (R191). -/
  | exchangeCloseGate (grp : Nat)
  /-- XCHG_TIMEOUT (R195). -/
  | xchgTimeout (grp : Nat)
  /-- REPL_RELEASE (R196). -/
  | replRelease (grp : Nat)
  /-- REPL_ABORT (R196). -/
  | replAbort (grp : Nat)
  /-- CELLAR_READ (R210). `found`: 0 no error in the burst read, 1 correctable, 2 uncorrectable. -/
  | cellarRead (a len hint found : Nat)
  /-- CELLAR_WRITE (R211). `thru` marks the update command's writes. -/
  | cellarWrite (a hint : Nat) (thru : Bool) (data : List Byte)
  /-- CELLAR_FLUSH (R214). -/
  | cellarFlush (k : Nat)
  /-- CELLAR_FLUSH_DONE (R214). -/
  | cellarFlushDone (k : Nat)
  /-- STACK_SELF_REFRESH_ENTRY (R214). -/
  | stackSelfRefreshEntry (k : Nat)
  /-- PATROL_SCRUB_STEP (R230). `t`: a stack, or 16 + a DDR5 channel. -/
  | patrolScrubStep (t found : Nat)
  /-- SRAM_SCRUB_STEP (R232). `kind`: 0 granary, 1 matrix core store, 2 cellar line, 3 column remap, 4 cache of a caching agent,
  5 mill buffer, 6 carter buffer, 7 error ring. -/
  | sramScrubStep (kind u w found : Nat)
  /-- THERM_SAMPLE (R216). Four readings in 1/16 °C, none where a sensor gives nothing. -/
  | thermSample (d stk : Nat) (rs : List (Option Int))
  /-- READ_SHARED (R238). `agent`: 0 to 79 control cores, 0x50 to 0x60 the host clusters and their L3, 0x61 the clerk.
  `found`: what the slice finds in the roll entry it reads, 2 an uncorrectable error (18 R409). -/
  | readShared (agent a found : Nat)
  /-- READ_UNIQUE (R238), for a store, AMO, LR or SC. -/
  | readUnique (agent a : Nat) (op : Machine.CacheOp)
  /-- UPGRADE (R240), for a store, AMO, LR or SC. -/
  | upgrade (agent a : Nat) (op : Machine.CacheOp)
  /-- WRITE_BACK (R249). -/
  | writeBack (agent a : Nat)
  /-- EVICT_CLEAN (R238). -/
  | evictClean (agent a : Nat)
  /-- TRANSFER (R238). -/
  | transfer (agent a : Nat)
  /-- SNOOP_WITHOUT_ALLOCATE (R244). `nc` is the non-caching agent, its kind (0 cart, 1 update command, 2 mill, 3 carter) and 4 times its
  unit: 4 tile + cart, tile, chute, QPN. `found`: 0 no error at the line's home, 1 correctable,
  2 uncorrectable. -/
  | snoopWithoutAllocate (nc a len hint found : Nat)
  /-- WRITE_INVALIDATE (R245). -/
  | writeInvalidate (nc a hint : Nat) (data : List Byte)
  /-- NONCACHING_ATOMIC (R246). `op`: 0 fetch-and-add, 1 compare-and-swap. -/
  | noncachingAtomic (nc a size op : Nat) (opnd : List Byte)
  /-- SNOOP (R247). -/
  | snoop (agent a : Nat)
  /-- LINE_RELEASE (R242). -/
  | lineRelease (slice a : Nat)
  /-- FLIT_RECEIVE (R266). `site`: 4 × die + site of a field die, or 32 + hub site. `credit`: the flit's running credit totals, one a class. -/
  | flitReceive (site seq : Nat) (crcOk : Bool) (credit : List Nat)
  /-- RETRAIN_ATTEMPT_END (R268). `sp`, `sq`: spare wires in service afterwards, in the directions that the site and its far end receive. -/
  | retrainAttemptEnd (site : Nat) (ok : Bool) (sp sq : Nat)
  /-- BG_CALIBRATION (R269). -/
  | bgCalibration (site group : Nat) (fail : Bool)
  /-- CAL_MAX_EXPIRY (R269). -/
  | calMaxExpiry (site group : Nat)
  /-- SEND (R293). The packet of partner `src`; a packet with a reserved opcode comes this way too. -/
  | send (port link src : Nat) (pk : Machine.Pkt)
  /-- WRITE (R294). -/
  | write (port link src : Nat) (pk : Machine.Pkt)
  /-- READ_REQ (R290). -/
  | readReq (port link src : Nat) (pk : Machine.Pkt)
  /-- READ_RESP (R289). -/
  | readResp (port link src : Nat) (pk : Machine.Pkt)
  /-- FADD (R294). -/
  | fadd (port link src : Nat) (pk : Machine.Pkt)
  /-- CAS (R294). -/
  | cas (port link src : Nat) (pk : Machine.Pkt)
  /-- ATOMIC_RESP (R289). -/
  | atomicResp (port link src : Nat) (pk : Machine.Pkt)
  /-- RFENCE (R292). -/
  | rfence (port link src : Nat) (pk : Machine.Pkt)
  /-- RFENCE_ACKNOWLEDGE (R292). -/
  | rfenceAcknowledge (qpn : Nat)
  /-- ACK (R295). -/
  | ack (port link src : Nat) (pk : Machine.Pkt)
  /-- NAK (R296). -/
  | nak (port link src : Nat) (pk : Machine.Pkt)
  /-- CLOSE (R288). -/
  | close (port link src : Nat) (pk : Machine.Pkt)
  /-- LEASE (R306). -/
  | lease (port link src : Nat) (pk : Machine.Pkt)
  /-- REDUCE (R300). -/
  | reduce (port link src : Nat) (pk : Machine.Pkt)
  /-- GATHER (R300). -/
  | gather (port link src : Nat) (pk : Machine.Pkt)
  /-- LINK_CONTROL_FRAME (R278). -/
  | linkControlFrame (port link serial pport plink : Nat)
  /-- LINK_CONTROL_SEND (R278). -/
  | linkControlSend (port link : Nat)
  /-- BLACKLIST_EXPIRY (R305). -/
  | blacklistExpiry (src : Nat)
  /-- LAST_PACKET_WRITE (R290). -/
  | lastPacketWrite (qpn : Nat)
  /-- LINK_DOWN (R279). -/
  | linkDown (port link : Nat)
  /-- LINK_UP (R279). -/
  | linkUp (port link : Nat)
  /-- LINK_HOLD_EXPIRY (R279). -/
  | linkHoldExpiry (port link : Nat)
  /-- ACK_TIMER (R295). -/
  | ackTimer (qpn : Nat)
  /-- RETRANSMIT_TIMEOUT (R296). -/
  | retransmitTimeout (qpn : Nat)
  /-- RNR_RETRY (R293). -/
  | rnrRetry (qpn : Nat)
  /-- SEND_WORK_REQUEST (R287). -/
  | sendWorkRequest (qpn : Nat)
  /-- WRITE_WORK_REQUEST (R287). -/
  | writeWorkRequest (qpn : Nat)
  /-- READ_WORK_REQUEST (R287). -/
  | readWorkRequest (qpn : Nat)
  /-- FADD_WORK_REQUEST (R287). -/
  | faddWorkRequest (qpn : Nat)
  /-- CAS_WORK_REQUEST (R287). -/
  | casWorkRequest (qpn : Nat)
  /-- RFENCE_WORK_REQUEST (R287). -/
  | rfenceWorkRequest (qpn : Nat)
  /-- RECV_WORK_REQUEST (R293). -/
  | recvWorkRequest (qpn : Nat)
  /-- COLL_WORK_REQUEST (R299). -/
  | collWorkRequest (qpn : Nat)
  /-- COLLECTIVE_COMBINE (R300). -/
  | collectiveCombine (cg j lo hi chunk : Nat)
  /-- COMPLETION_WRITE (R366). -/
  | completionWrite (q : Nat)
  /-- LEASE_ENABLE (R306). -/
  | leaseEnable (v : Word)
  /-- LEASE_LAPSE (R307). The watchman's deadline. -/
  | leaseLapse
  /-- BELL_ENTRY_ISSUE (R317). -/
  | bellEntryIssue (e : Nat)
  /-- LATE_FIRING (R323). -/
  | lateFiring (e : Nat)
  /-- BELL_ENTRY_ARM (R319). -/
  | bellEntryArm (hart e : Nat) (v : Word)
  /-- BELL_OFFSET_WRITE (R312). -/
  | bellOffsetWrite (v : Word)
  /-- BELL_STEP_TO (R312). -/
  | bellStepTo (v : Word)
  /-- SLEW_DONE (R312). -/
  | slewDone
  /-- PPS_PULSE (R311). -/
  | ppsPulse
  /-- HOLDOVER_ENTRY (R313). `lost`: the 10 MHz input has gone. -/
  | holdoverEntry (lost : Bool)
  /-- PTP_RX (R315). -/
  | ptpRx (port link : Nat) (m : Machine.PtpMsg)
  /-- PTP_TX (R315). -/
  | ptpTx
  /-- CHUTE_ENABLE (R326). -/
  | chuteEnable (hart ch : Nat) (v : Word)
  /-- CHUTE_DISABLE (R347). -/
  | chuteDisable (hart ch : Nat) (v : Word)
  /-- RING_TAIL_WRITE (R327). -/
  | ringTailWrite (ch idx : Nat)
  /-- BATCH_START (R338). -/
  | batchStart (ch : Nat)
  /-- SAMPLE_TAKE (R339). -/
  | sampleTake (ch : Nat)
  /-- SAMPLE_DONE (R332). `bad`: the entropy data is corrupt. -/
  | sampleDone (ch slot : Nat) (bad : Bool)
  /-- SAMPLE_FORWARD (R340). -/
  | sampleForward (ch slot : Nat)
  /-- BATCH_RELEASE (R342). -/
  | batchRelease (ch : Nat)
  /-- DROUGHT_EXPIRY (R343). -/
  | droughtExpiry (ch : Nat)
  /-- HOPPER_FREED_WRITE (R344). -/
  | hopperFreedWrite (ch idx : Nat)
  /-- MAILBOX_GO (R351). -/
  | mailboxGo (mb : Nat) (v : Word)
  /-- COMMAND_ACCEPT (R352). -/
  | commandAccept
  /-- MAILBOX_FREE (R351). -/
  | mailboxFree (mb : Nat)
  /-- MANAGEMENT_REQUEST (R355). From source `src`, with the request record and inline payload. -/
  | managementRequest (src hdr : Nat) (rcd pay : List Byte)
  /-- BACKGROUND_COMMAND_DONE (R352). `n` is the command's number. -/
  | backgroundCommandDone (n : Nat)
  /-- ID_GET (R362). -/
  | idGet
  /-- ATTEST (R456). -/
  | attest
  /-- CERT_GET (R455). -/
  | certGet
  /-- CTX_CREATE (R374). -/
  | ctxCreate
  /-- CTX_DESTROY (R389). -/
  | ctxDestroy
  /-- CTX_STATUS (R374). -/
  | ctxStatus
  /-- CTX_HINT (R385). -/
  | ctxHint
  /-- WIN_SET (R364). -/
  | winSet
  /-- WIN_REVOKE (R364). -/
  | winRevoke
  /-- WIN_GET (R376). -/
  | winGet
  /-- Q_CREATE (R366). -/
  | qCreate
  /-- Q_DESTROY (R366). -/
  | qDestroy
  /-- Q_QUERY (R366). -/
  | qQuery
  /-- Q_RESTART (R483). -/
  | qRestart
  /-- QP_CREATE (R286). -/
  | qpCreate
  /-- QP_CLOSE (R288). -/
  | qpClose
  /-- MODEL_REG (R377). -/
  | modelReg
  /-- MODEL_UNREG (R389). -/
  | modelUnreg
  /-- MODEL_STATUS (R416). -/
  | modelStatus
  /-- MODEL_CLEAR (R416). -/
  | modelClear
  /-- BELL_ARM (R319). -/
  | bellArm
  /-- BELL_DISARM (R482). -/
  | bellDisarm
  /-- OP_PREF (R395). -/
  | opPref
  /-- POWER_CAP (R397). -/
  | powerCap
  /-- FALLOW_ENTER (R401). -/
  | fallowEnter
  /-- FALLOW_EXIT (R401). `failed` are the stacks whose retraining fails. -/
  | fallowExit (failed : Nat)
  /-- OBS_SELECT (R427). -/
  | obsSelect
  /-- CHRON_CTRL_STOP (R432). -/
  | chronCtrlStop
  /-- CHRON_CTRL_START (R429). -/
  | chronCtrlStart
  /-- CHRON_CTRL_CONFIGURE (R429). -/
  | chronCtrlConfigure
  /-- CENSUS_TAKE (R433). -/
  | censusTake
  /-- TITHE_CTRL (R437). -/
  | titheCtrl
  /-- GAUGE_CTRL (R442). -/
  | gaugeCtrl
  /-- ERR_READ (R413). -/
  | errRead
  /-- ERR_ACK (R413). -/
  | errAck
  /-- CKPT_EXPORT (R177). -/
  | ckptExport
  /-- STACK_OFFLINE (R225). -/
  | stackOffline
  /-- STACK_ONLINE (R225). -/
  | stackOnline (ok : Bool)
  /-- STACK_TEST_PATROL (R225). The burst addresses at which the pass meets further correctable and uncorrectable errors. -/
  | stackTestPatrol (corr unc : List Nat)
  /-- STACK_TEST_MARCH (R225). As for STACK_TEST_PATROL. -/
  | stackTestMarch (corr unc : List Nat)
  /-- STACK_REPAIR (R225). `spares` still left of the soft kinds; `flash`: its record was written. -/
  | stackRepair (spares : Nat) (flash : Bool)
  /-- LEASE_SET (R306). -/
  | leaseSet
  /-- LEASE_RENEW (R306). -/
  | leaseRenew
  /-- RESET_MODULE (R365). -/
  | resetModule
  /-- RESET_HOST (R365). -/
  | resetHost
  /-- RESET_FALLOW (R446). -/
  | resetFallow
  /-- RESET_TILE (R447). -/
  | resetTile
  /-- PATCH_LIST (R372). -/
  | patchList
  /-- PATCH_INSTALL (R371). `flash`: the slot was written and read back. -/
  | patchInstall (flash : Bool)
  /-- PATCH_ERASE (R371). `flash`: the slot was erased. -/
  | patchErase (flash : Bool)
  /-- MB_SCOPE (R353). -/
  | mbScope
  /-- MGMT_SCOPE (R355). -/
  | mgmtScope
  /-- DOORBELL_WRITE (R367). -/
  | doorbellWrite (q width off v : Nat)
  /-- STEWARD_DECISION (R384). -/
  | stewardDecision
  /-- SWAP_OUT_BODY (R379). -/
  | swapOutBody (g : Nat)
  /-- SWAP_OUT_FINAL_HEADER (R379). -/
  | swapOutFinalHeader (g : Nat)
  /-- SWAP_COMPLETE (R380). -/
  | swapComplete (g : Nat)
  /-- TEARDOWN (R388). -/
  | teardown (ctx : Nat)
  /-- OP_REQUEST_UPDATE (R395). -/
  | opRequestUpdate
  /-- POWER_CEILING_REVISION (R397). Average power of each field die and input power in W, conversion efficiency in thousandths. -/
  | powerCeilingRevision (ws : List Nat) (input eff : Nat)
  /-- POINT_CHANGE_SETTLE (R398). -/
  | pointChangeSettle (g : Nat)
  /-- SAG_STRETCH (R399). `mv` below the point's supply. -/
  | sagStretch (d mv : Nat)
  /-- SAG_RELEASE (R399). -/
  | sagRelease (d : Nat)
  /-- ENERGY_MEASURE (R400). Energies in µJ and activity counts of a field die, or of the hub (8). -/
  | energyMeasure (die9 : Nat) (uj acts : List Nat)
  /-- WATCHMAN_SAMPLE (R402). Inputs 0 to 8 die junctions, 9 and 10 blades, 11 inlet, 12 outlet, 13 flow, 14 leak rope; of each the readings
of its sensors: 16 of a field die's junction, 8 of the hub's, else one. -/
  | watchmanSample (inp : Nat) (vs : List Int)
  /-- GRACE_EXPIRY (R404). -/
  | graceExpiry
  /-- AUTO_RESTART (R404). -/
  | autoRestart
  /-- WATCH_CRASH_CLEAR (R425). -/
  | watchCrashClear (v : Word)
  /-- ERROR_RECORD_ARRIVAL (R410). `unit` is the source whose oldest record arrives. -/
  | errorRecordArrival (unit : Nat)
  /-- CLERK_HANDLER_ERROR (R422). `hkind`: 0 lockstep, 1 uncorrectable word, 2 exception, 3 no reply in time. -/
  | clerkHandlerError (hkind opcode : Nat) (pc : Word)
  /-- CHRONICLE_WRITE (R430). -/
  | chronicleWrite
  /-- CHRON_MARK (R429). -/
  | chronMark (hart : Nat) (v : Word)
  /-- CENSUS_COMPLETE (R433). -/
  | censusComplete
  /-- GAUGE_SAMPLE (R442). The value gauge `gau`'s source presents. -/
  | gaugeSample (gau : Nat) (sv : Int)
  /-- POWER_ON (R445). -/
  | powerOn
  /-- MRST_N_ASSERT (R472). -/
  | mrstNAssert
  /-- MRST_N_RELEASE (R472). -/
  | mrstNRelease
  /-- BOOT_CLERK_START (R449). `dimms` are the slots whose DIMM has the wrong capacity. -/
  | bootClerkStart (dimms : Nat)
  /-- BOOT_VERIFY_IMAGES (R451). -/
  | bootVerifyImages
  /-- BOOT_DIES_UP (R274). The dies that do not answer, the dies whose hub link fails, the side sites whose training fails, and the spare
  wires each site has in service after training. -/
  | bootDiesUp (mute links sides : Nat) (spares : List Nat)
  /-- BOOT_HBM (R226). `failed` are the stacks that do not pass, `reps` each stack's repairs. -/
  | bootHbm (failed : Nat) (reps : List (Nat × List Machine.Repair))
  /-- BOOT_OPTICS (R449). -/
  | bootOptics
  /-- BOOT_RELEASE_HARTS (R453). -/
  | bootReleaseHarts
  /-- HOST_RESET_RELEASE (R255). -/
  | hostResetRelease
  /-- HART_START (R453). -/
  | hartStart (v : Word)
  /-- FLASH_PROGRAM (R459). -/
  | flashProgram (hart : Nat) (v : Word)
  /-- FLASH_ERASE (R459). -/
  | flashErase (hart : Nat) (v : Word)
  /-- FLASH_OP_DONE (R459). `ok`: the flash took it. -/
  | flashOpDone (ok : Bool)
  /-- UNLOCK_CHALLENGE (R457). -/
  | unlockChallenge
  /-- UNLOCK_TOKEN (R457). -/
  | unlockToken (t : List Byte)
  /-- EXTEST_ENTRY (R458). -/
  | extestEntry
  /-- HOLDUP_BANK_FULL (R463). -/
  | holdupBankFull
  /-- LAMP_LATCH_OPEN (R468). -/
  | lampLatchOpen (bay : Nat)
  /-- LAMP_LATCH_CLOSE (R469). `kind`: 0 empty bay, 1 a bad lamp, 2 a good one. -/
  | lampLatchClose (bay kind temp hours : Nat)
  /-- LAMP_WARMED (R469). -/
  | lampWarmed (bay : Nat)
  /-- LAMP_CALIBRATED (R469). -/
  | lampCalibrated (bay : Nat)
  /-- LAMP_READY (R469). -/
  | lampReady (bay : Nat)
  /-- FORWARDED_CLOCK_LOCK_LOSS (R267). -/
  | forwardedClockLockLoss (site : Nat)
  /-- EXTEST_EXIT (R458). -/
  | extestExit
  /-- FALLOW_RESET_END (R446). Training's outcome, as for BOOT_DIES_UP. -/
  | fallowResetEnd (links sides : Nat) (spares : List Nat)
  /-- PACING_INTERVAL_EXPIRY (R297). -/
  | pacingIntervalExpiry (qpn : Nat)
  deriving DecidableEq, Repr

end Sys2Proof
end

