-- ==== Sys2Proof/Config.lean ====
section
/-!
DEFINITION. Config.lean: what the spec leaves open, as constants without a body.
Nothing in Lean can evaluate one, so a claim about a state that used one holds for every value.
-/
namespace Sys2Proof.Config

/-- The n-th free value a step draws (notes/assumptions/6). -/
opaque freeValue : Nat → BitVec 64

/-- The module that an IPv6 address belongs to: two addresses of one module give one value (12 R291; notes/assumptions/52). -/
opaque moduleAt : BitVec 128 → BitVec 128

/-- EXP of 05_vector_engine Table 05-8 on a finite fp32 encoding inside its domain, where it is within its bound (R125; Float.pinTo);
likewise the four below. -/
opaque expApprox : BitVec 32 → BitVec 32
/-- LOG of Table 05-8 on a positive finite fp32 encoding (R125). -/
opaque logApprox : BitVec 32 → BitVec 32
/-- RCP of Table 05-8 on a non-zero finite fp32 encoding (R125). -/
opaque rcpApprox : BitVec 32 → BitVec 32
/-- RSQRT of Table 05-8 on a positive finite fp32 encoding (R125). -/
opaque rsqrtApprox : BitVec 32 → BitVec 32
/-- TANH of Table 05-8 where no special row applies (R125). -/
opaque tanhApprox : BitVec 32 → BitVec 32

/-- A bit-mask result of a mixed-format vector command that is neither 0 nor 1 (05_vector_engine R123), by the rounding code and the
exact result: whether it is a NaN, whether infinite, its sign, magnitude and exponent. -/
opaque maskBit : Nat → Bool → Bool → Bool → Nat → Int → BitVec 1

/-- The free-running generator of a lane after a reseed from `seed` (05_vector_engine R133), at its n-th draw. -/
opaque laneBits : BitVec 64 → Nat → Nat → BitVec 64

/-- The module's serial number, 16 bytes of ASCII, first byte lowest (15 Table 15-3). -/
opaque serial : BitVec 128
/-- The MAC address of a link, whose six bytes stand most significant first (15 Table 15-3). -/
opaque mac : Nat → BitVec 48

/-- The inverse transform of a JPEG block's 64 dequantised coefficients, in natural order: the 8-bit sample at a position.
ISO/IEC 10918-1 bounds its accuracy and does not fix it (14 R328). -/
opaque idct : List Int → Nat → BitVec 8

/-- Woveza's root public key of 1,312 bytes, at index i (20 R452). -/
opaque rootKey : Nat → BitVec 8
/-- The device key's signature over a message, at index i (20 R456). -/
opaque deviceSign : List (BitVec 8) → Nat → BitVec 8
/-- The device public key of 1,312 bytes, at index i (20 R455). -/
opaque deviceKey : Nat → BitVec 8
/-- The root key's signature of the device certificate, at index i (20 R455). -/
opaque certSign : Nat → BitVec 8
/-- The issue time in the device certificate (20 Table 20-5). -/
opaque certTime : BitVec 64
/-- The SHA3-256 of the clerk's mask ROM, at index i (20 R456). -/
opaque romHash : Nat → BitVec 8
end Sys2Proof.Config
end

