-- ==== Sys2Proof/Machine/Float.lean ====
section
/-!
DEFINITION. Float.lean: the number formats of 03_arithmetic Tables 03-1 and 03-3, exact values, and the one rounding
that every conversion of the module uses (R60, R72, R73, R123).
-/
namespace Sys2Proof.Machine

/-- Bits [lo + len - 1 : lo] of a number. -/
def fld (w lo len : Nat) : Nat := w / 2 ^ lo % 2 ^ len

/-- One bit of a number. -/
def bitAt (w i : Nat) : Bool := w / 2 ^ i % 2 == 1

/-- A number below 2^len read as two's complement. -/
def sgn (len w : Nat) : Int := if w < 2 ^ (len - 1) then (w : Int) else (w : Int) - (2 ^ len : Nat)

/-- An integer as two's complement of len bits. -/
def unsgn (len : Nat) (i : Int) : Nat := (i % ((2 ^ len : Nat) : Int)).toNat

/-- How a float format spends its top exponent (03 Table 03-1). -/
inductive Top where
  | ieee   -- infinities and NaNs
  | e4m3   -- only the all-ones NaN
  | plain  -- no infinity, no NaN
  deriving DecidableEq, Repr

/-- A floating-point format: exponent bits, fraction bits, bias, top exponent. -/
structure Fmt where
  eb   : Nat
  mb   : Nat
  bias : Nat
  top  : Top
  deriving DecidableEq, Repr

def Fmt.f32 : Fmt := ⟨8, 23, 127, .ieee⟩
def Fmt.bf16 : Fmt := ⟨8, 7, 127, .ieee⟩
def Fmt.f16 : Fmt := ⟨5, 10, 15, .ieee⟩
def Fmt.e4m3 : Fmt := ⟨4, 3, 7, .e4m3⟩
def Fmt.e5m2 : Fmt := ⟨5, 2, 15, .ieee⟩
def Fmt.e3m2 : Fmt := ⟨3, 2, 3, .plain⟩
def Fmt.e2m3 : Fmt := ⟨2, 3, 1, .plain⟩
def Fmt.e2m1 : Fmt := ⟨2, 1, 1, .plain⟩

/-- Width of an encoding in bits. -/
def Fmt.width (f : Fmt) : Nat := 1 + f.eb + f.mb

/-- The largest finite magnitude's encoding (03 Table 03-1). -/
def Fmt.maxFin (f : Fmt) : Nat :=
  match f.top with
  | .ieee => (2 ^ f.eb - 1) * 2 ^ f.mb - 1
  | .e4m3 => 2 ^ (f.eb + f.mb) - 2
  | .plain => 2 ^ (f.eb + f.mb) - 1

/-- The canonical NaN written (03 Table 03-3): FP8 formats write 0x7F. -/
def Fmt.nan (f : Fmt) : Nat :=
  match f.top with
  | .ieee => if f.eb = 5 ∧ f.mb = 2 then 0x7F else (2 ^ f.eb - 1) * 2 ^ f.mb + 2 ^ (f.mb - 1)
  | .e4m3 => 0x7F
  | .plain => 0

/-- An exact value: NaN, an infinity, or (-1)^neg m 2^e, where m = 0 is a signed zero. -/
inductive FVal where
  | nan
  | inf (neg : Bool)
  | fin (neg : Bool) (m : Nat) (e : Int)
  deriving DecidableEq, Repr

def FVal.zero : FVal := .fin false 0 0

/-- The exact value of an encoding (R57: subnormals are honoured). -/
def Fmt.decode (f : Fmt) (w : Nat) : FVal :=
  let neg := bitAt w (f.eb + f.mb)
  let ex := fld w f.mb f.eb
  let fr := fld w 0 f.mb
  let fin : FVal :=
    if ex = 0 then .fin neg fr (1 - (f.bias : Int) - f.mb)
    else .fin neg (2 ^ f.mb + fr) ((ex : Int) - f.bias - f.mb)
  match f.top with
  | .ieee => if ex = 2 ^ f.eb - 1 then (if fr = 0 then .inf neg else .nan) else fin
  | .e4m3 => if ex = 15 ∧ fr = 7 then .nan else fin
  | .plain => fin

/-- The exact value of a signed integer. -/
def FVal.ofInt (i : Int) : FVal := .fin (decide (i < 0)) i.natAbs 0

/-- Shift a magnitude left to a lower exponent. -/
def alignTo (m : Nat) (e lo : Int) : Nat := m * 2 ^ (e - lo).toNat

/-- The exact sum, with the IEEE 754 rules for infinities and signed zeros under round to nearest. -/
def FVal.add : FVal → FVal → FVal
  | .nan, _ => .nan
  | _, .nan => .nan
  | .inf a, .inf b => if a = b then .inf a else .nan
  | .inf a, _ => .inf a
  | _, .inf b => .inf b
  | .fin n1 m1 e1, .fin n2 m2 e2 =>
    if m1 = 0 then (if m2 = 0 then .fin (n1 && n2) 0 0 else .fin n2 m2 e2)
    else if m2 = 0 then .fin n1 m1 e1
    else
      let lo := min e1 e2
      let a : Int := if n1 then -(alignTo m1 e1 lo : Int) else (alignTo m1 e1 lo : Int)
      let b : Int := if n2 then -(alignTo m2 e2 lo : Int) else (alignTo m2 e2 lo : Int)
      if a + b = 0 then .zero else .fin (decide (a + b < 0)) (a + b).natAbs lo

/-- The exact product. -/
def FVal.mul : FVal → FVal → FVal
  | .nan, _ => .nan
  | _, .nan => .nan
  | .inf a, .inf b => .inf (xor a b)
  | .inf a, .fin n m _ => if m = 0 then .nan else .inf (xor a n)
  | .fin n m _, .inf b => if m = 0 then .nan else .inf (xor n b)
  | .fin n1 m1 e1, .fin n2 m2 e2 => .fin (xor n1 n2) (m1 * m2) (e1 + e2)

def FVal.neg : FVal → FVal
  | .nan => .nan
  | .inf a => .inf (!a)
  | .fin n m e => .fin (!n) m e

def FVal.abs : FVal → FVal
  | .nan => .nan
  | .inf _ => .inf false
  | .fin _ m e => .fin false m e

def FVal.sub (a b : FVal) : FVal := a.add b.neg

/-- Multiply by 2^k (MX scales, R60). -/
def FVal.scale (k : Int) : FVal → FVal
  | .fin n m e => .fin n m (e + k)
  | v => v

def FVal.isNan : FVal → Bool
  | .nan => true
  | _ => false

def FVal.isFinite : FVal → Bool
  | .fin _ _ _ => true
  | _ => false

/-- a < b on exact values; false with a NaN (R123). -/
def FVal.lt (a b : FVal) : Bool :=
  match a.sub b with
  | .fin n m _ => n && m != 0
  | .inf n => n
  | .nan =>
    match a, b with
    | .inf x, .inf y => x && !y
    | _, _ => false

/-- a = b on exact values; −0 equals +0, and a NaN equals nothing (R123). -/
def FVal.eq (a b : FVal) : Bool :=
  match a, b with
  | .inf x, .inf y => x == y
  | .fin _ _ _, .fin _ _ _ => match a.sub b with
    | .fin _ m _ => m == 0
    | _ => false
  | _, _ => false

/-- The sign bit of a value. -/
def FVal.isNeg : FVal → Bool
  | .nan => false
  | .inf n => n
  | .fin n _ _ => n

/-- The larger value, −0 ordered below +0; a NaN operand gives NaN (R45, R123). -/
def FVal.max (a b : FVal) : FVal :=
  if a.isNan || b.isNan then .nan
  else if a.lt b then b
  else if a.eq b then (if a.isNeg then b else a)
  else a

/-- The smaller value, −0 ordered below +0; a NaN operand gives NaN (R45, R123). -/
def FVal.min (a b : FVal) : FVal :=
  if a.isNan || b.isNan then .nan
  else if b.lt a then b
  else if a.eq b then (if a.isNeg then a else b)
  else a

/-- Rounding modes of 03 Table 03-3. -/
inductive Rnd where
  | nearest
  | zero
  | stochastic
  deriving DecidableEq, Repr

/-- Their codes. -/
def Rnd.code : Rnd → Nat
  | .nearest => 0
  | .zero => 1
  | .stochastic => 2

/-- Whether the quotient of `rem` by 2^d (a little more when `sticky`) rounds its magnitude up, for an integer part `n`.
Stochastic rounding is R73: f is the first 16 bits of the fraction, and f + r ≥ 65,536 rounds up. -/
def roundsUp (rm : Rnd) (r16 n rem d : Nat) (sticky : Bool) : Bool :=
  match rm with
  | .nearest => decide (2 ^ d < 2 * rem) || (decide (2 * rem = 2 ^ d) && (sticky || n % 2 == 1))
  | .zero => false
  | .stochastic => decide (65536 ≤ rem * 65536 / 2 ^ d + r16) && (sticky || rem != 0)

/-- Encoding, without its sign, of the magnitude m 2^e (a little more when `sticky`) rounded once (R72, Table 03-7). -/
def Fmt.roundMag (f : Fmt) (rm : Rnd) (r16 m : Nat) (e : Int) (sticky : Bool) : Nat :=
  if m = 0 then 0
  else
    let emin : Int := 1 - f.bias
    let q : Int := Max.max ((Nat.log2 m : Int) + e) emin - f.mb
    let n : Nat :=
      if q ≤ e then m * 2 ^ (e - q).toNat
      else
        let d := (q - e).toNat
        let n := m / 2 ^ d
        if roundsUp rm r16 n (m % 2 ^ d) d sticky then n + 1 else n
    let enc : Nat := if n < 2 ^ f.mb then n else (q + f.mb + f.bias - 1).toNat * 2 ^ f.mb + n
    if enc ≤ f.maxFin then enc
    else match f.top, rm with
      | .ieee, .zero => f.maxFin
      | .ieee, _ => f.maxFin + 1
      | _, _ => f.maxFin

/-- The sign bit's weight in an encoding. -/
def Fmt.signBit (f : Fmt) (neg : Bool) : Nat := if neg then 2 ^ (f.eb + f.mb) else 0

/-- One rounding of an exact value into a format (R72, Table 03-7): an infinity converted to E4M3 is its NaN. -/
def Fmt.encodeS (f : Fmt) (rm : Rnd) (r16 : Nat) (sticky : Bool) : FVal → Nat
  | .nan => f.nan
  | .inf n => match f.top with
    | .ieee => f.signBit n + f.maxFin + 1
    | .e4m3 => f.nan
    | .plain => f.signBit n + f.maxFin
  | .fin n m e => f.signBit n + f.roundMag rm r16 m e sticky

def Fmt.encode (f : Fmt) (rm : Rnd) (r16 : Nat) (v : FVal) : Nat := f.encodeS rm r16 false v

/-- Round to nearest fp32, ties to even. -/
def fl32 (v : FVal) : Nat := Fmt.f32.encode .nearest 0 v

/-- The exact value of an fp32 encoding. -/
def v32 (w : Nat) : FVal := Fmt.f32.decode w

def cnan32 : Nat := 0x7FC00000

def fadd (a b : Nat) : Nat := fl32 ((v32 a).add (v32 b))
def fsub (a b : Nat) : Nat := fl32 ((v32 a).sub (v32 b))
def fmul (a b : Nat) : Nat := fl32 ((v32 a).mul (v32 b))

/-- The exact quotient as a value and whether it was cut short: 80 guard bits below the leading one. -/
def divVal (a b : FVal) : FVal × Bool :=
  match a, b with
  | .nan, _ => (.nan, false)
  | _, .nan => (.nan, false)
  | .inf _, .inf _ => (.nan, false)
  | .inf n, .fin k _ _ => (.inf (xor n k), false)
  | .fin n _ _, .inf k => (.fin (xor n k) 0 0, false)
  | .fin n m e, .fin k p g =>
    if p = 0 then (if m = 0 then .nan else .inf (xor n k), false)
    else
      let sh := Nat.log2 p + 80
      let num := m * 2 ^ sh
      (.fin (xor n k) (num / p) (e - g - sh), num % p != 0)

/-- IEEE 754 fp32 division, correctly rounded (R167). -/
def fdiv (a b : Nat) : Nat :=
  match divVal (v32 a) (v32 b) with
  | (v, st) => Fmt.f32.encodeS .nearest 0 st v

/-- Integer square root by bisection on `n` bits: the largest r below 2^n with r² ≤ m. -/
def isqrt (m : Nat) : Nat → Nat → Nat
  | 0, acc => acc
  | n + 1, acc => if (acc + 2 ^ n) * (acc + 2 ^ n) ≤ m then isqrt m n (acc + 2 ^ n) else isqrt m n acc

/-- IEEE 754 fp32 square root, correctly rounded (R167). -/
def fsqrt (a : Nat) : Nat :=
  match v32 a with
  | .nan => cnan32
  | .inf n => if n then cnan32 else a
  | .fin n m e =>
    if m = 0 then a
    else if n then cnan32
    else
      let sh : Nat := 64 + (if e % 2 = 0 then 0 else 1)
      let num := m * 2 ^ sh
      let r := isqrt num 48 0
      Fmt.f32.encodeS .nearest 0 (r * r != num) (.fin false r ((e - sh) / 2))

/-- min and max of fp32 encodings. -/
def fmax (a b : Nat) : Nat := fl32 ((v32 a).max (v32 b))
def fmin (a b : Nat) : Nat := fl32 ((v32 a).min (v32 b))
def fneg (a : Nat) : Nat := fl32 (v32 a).neg
def ffinite (a : Nat) : Bool := (v32 a).isFinite

/-! ## The compensated accumulator (R64 to R66) -/

/-- A sum-and-error pair of fp32 encodings. -/
structure Pair where
  s : Nat
  e : Nat
  deriving DecidableEq, Repr

/-- R65: a non-zero magnitude below 2^-126 becomes +0. -/
def flush (x : Nat) : Nat := if fld x 23 8 = 0 then 0 else x

/-- R65: an infinite error term makes the entry that infinity. -/
def fixPair (t e : Nat) : Pair := match v32 e with
  | .inf _ => ⟨e, 0⟩
  | _ => ⟨t, e⟩

/-- R64: one step result added into a pair. -/
def Pair.acc (y : Pair) (p : Nat) : Pair :=
  let ex := (v32 y.s).add (v32 p)
  let t := fl32 ex
  match v32 t with
  | .nan => ⟨cnan32, 0⟩
  | .inf _ => ⟨t, 0⟩
  | .fin _ _ _ => fixPair t (flush (fl32 ((v32 y.e).add (ex.sub (v32 t)))))

/-- R66: a partner's pair combined into the leader's. -/
def Pair.comb (a b : Pair) : Pair :=
  let ex := (v32 a.s).add (v32 b.s)
  let t := fl32 ex
  match v32 t with
  | .nan => ⟨cnan32, 0⟩
  | .inf _ => ⟨t, 0⟩
  | .fin _ _ _ => fixPair t (flush (fadd (flush (fl32 ((v32 a.e).add (ex.sub (v32 t))))) b.e))

/-- The exact value of a pair. -/
def Pair.val (y : Pair) : FVal := (v32 y.s).add (v32 y.e)

/-- R183: the pair's exact value rounded once to fp32; an exact zero is +0 unless both parts are -0 (notes/assumptions/85). -/
def Pair.round32 (y : Pair) : Nat := match v32 y.s with
  | .nan => cnan32
  | .inf _ => y.s
  | .fin _ _ _ => fl32 y.val

/-! ## Integers -/

/-- Saturation to [lo, hi], and whether it clamped. -/
def satRange (lo hi : Int) (x : Int) : Int × Bool :=
  if x < lo then (lo, true) else if hi < x then (hi, true) else (x, false)

/-- R67: saturation to int32. -/
def sat32 (x : Int) : Int × Bool := satRange (-2147483648) 2147483647 x

/-- R71: v / 2^sh rounded in the named mode; stochastic rounds the magnitude. -/
def shiftRound (rm : Rnd) (r16 : Nat) (v : Int) (sh : Nat) : Int :=
  let m := v.natAbs
  let n := m / 2 ^ sh
  let k : Nat := if roundsUp rm r16 n (m % 2 ^ sh) sh false then n + 1 else n
  if v < 0 then -(k : Int) else (k : Int)

/-- A floating value rounded to an integer in the named mode (R123); a NaN becomes 0, an infinity a bound past every format. -/
def FVal.toInt (rm : Rnd) (r16 : Nat) : FVal → Int
  | .nan => 0
  | .inf n => if n then -(2 ^ 200 : Nat) else (2 ^ 200 : Nat)
  | .fin n m e =>
    if 0 ≤ e then (if n then -((m * 2 ^ e.toNat : Nat) : Int) else ((m * 2 ^ e.toNat : Nat) : Int))
    else shiftRound rm r16 (if n then -(m : Int) else (m : Int)) (-e).toNat

/-- A rounding code of Table 03-3. -/
def rndOf (code : Nat) : Rnd := if code = 1 then .zero else if code = 2 then .stochastic else .nearest

/-! ## Approximations of 05_vector_engine Table 05-8 (R125): the special rows are the spec's; elsewhere the value is open within its
bound. The exact function is computed to 256 fraction bits, and an open value that misses the bound gives way to the nearest fp32. -/

/-- One in fixed point. -/
def fxOne : Nat := 2 ^ 256

/-- ln 2 in fixed point. -/
def fxLn2 : Nat := 0xB17217F7D1CF79AB_C9E3B39803F2F6AF_40F343267298B62D_8A0D175B8BAAFA2B

/-- Within k ulp of an exact value. -/
def ulps (k : Nat) (f : FVal) : FVal :=
  match f with
  | .fin _ m e => .fin false k (Max.max ((Nat.log2 m : Int) + e) (-126) - 23)
  | v => v

/-- The open value `v` where it is a finite value within `b` of the exact one, else the nearest fp32. -/
def pinTo (f b : FVal) (v : BitVec 32) : Nat :=
  let y := v32 v.toNat
  if y.isFinite && !(b.lt (y.sub f).abs) then v.toNat else fl32 f

/-- e^r for r below ln 2, in fixed point: `n` terms from the i-th on. -/
def fxExp (r : Nat) : Nat → Nat → Nat → Nat → Nat
  | 0, _, _, s => s
  | n + 1, i, t, s => let t := t * r / fxOne / i; fxExp r n (i + 1) t (s + t)

/-- e^x of a finite x between −110 and 110. -/
def expVal (neg : Bool) (m : Nat) (e : Int) : FVal :=
  let x : Int := alignTo m e (-256)
  let x := if neg then -x else x
  let k := x / fxLn2
  .fin false (fxExp (x % fxLn2).toNat 60 1 fxOne fxOne) (k - 256)

/-- atanh z in fixed point for |z| at most 1/5: `n` terms from z^i on; `t` is z^i. -/
def fxAtanh (z : Int) : Nat → Nat → Int → Int → Int
  | 0, _, _, s => s
  | n + 1, i, t, s => fxAtanh z n (i + 2) (t * z / fxOne * z / fxOne) (s + t / (i : Int))

/-- ln (m 2^e) for m above 0. -/
def logVal (m : Nat) (e : Int) : FVal :=
  let l := Nat.log2 m
  let up := decide (2 ^ (l + 2) ≤ 3 * m)
  let b := if up then 2 ^ (l + 1) else 2 ^ l
  let z : Int := ((m : Int) - b) * fxOne / ((m : Int) + b)
  let v : Int := ((l : Int) + e + (if up then 1 else 0)) * fxLn2 + 2 * fxAtanh z 60 1 z 0
  .fin (decide (v < 0)) v.natAbs (-256)

/-- 1 / (m 2^e) for m above 0. -/
def rcpVal (neg : Bool) (m : Nat) (e : Int) : FVal :=
  let p := 256 + Nat.log2 m
  .fin neg (2 ^ p / m) (-(p : Int) - e)

/-- The integer square root of a number below 2^(2 n), bit by bit from the top. -/
def isqrtFrom (v : Nat) : Nat → Nat → Nat
  | 0, r => r
  | n + 1, r => isqrtFrom v n (if (r + 2 ^ n) * (r + 2 ^ n) ≤ v then r + 2 ^ n else r)

/-- 1 / √(m 2^e) for m above 0. -/
def rsqrtVal (m : Nat) (e : Int) : FVal :=
  let (m, e) := if e % 2 = 0 then (m, e) else (2 * m, e - 1)
  .fin false (isqrtFrom (2 ^ 600 / m) 301 0) (-300 - e / 2)

/-- tanh x for a finite x of magnitude at least 2^-12. -/
def tanhVal (neg : Bool) (m : Nat) (e : Int) : FVal :=
  match expVal false (2 * m) e with
  | .fin _ s k =>
    let s := s * 2 ^ (k + 256).toNat
    .fin neg ((s - fxOne) * fxOne / (s + fxOne)) (-256)
  | v => v

def exp32 (x : Nat) : Nat :=
  match v32 x with
  | .nan => cnan32
  | .inf n => if n then 0 else 0x7F800000
  | .fin n m e =>
    if !((v32 x).lt (v32 0x42B17213)) then 0x7F800000
    else if (v32 x).lt (v32 0xC2CFF22D) then 0
    else pinTo (expVal n m e) (ulps 2 (expVal n m e)) (Config.expApprox (BitVec.ofNat 32 x))

def log32 (x : Nat) : Nat :=
  match v32 x with
  | .nan => cnan32
  | .inf n => if n then cnan32 else x
  | .fin n m e =>
    if m = 0 then 0xFF800000 else if n then cnan32
    else
      let f := logVal m e
      let near := !((v32 x).lt (v32 0x3F000000)) && !((v32 0x40000000).lt (v32 x))
      pinTo f (if near then .fin false 1 (-24) else ulps 2 f) (Config.logApprox (BitVec.ofNat 32 x))

def rcp32 (x : Nat) : Nat :=
  match v32 x with
  | .nan => cnan32
  | .inf n => if n then 0x80000000 else 0
  | .fin n m e =>
    if m = 0 then (if n then 0xFF800000 else 0x7F800000)
    else pinTo (rcpVal n m e) (ulps 1 (rcpVal n m e)) (Config.rcpApprox (BitVec.ofNat 32 x))

def rsqrt32 (x : Nat) : Nat :=
  match v32 x with
  | .nan => cnan32
  | .inf n => if n then cnan32 else 0
  | .fin n m e =>
    if m = 0 then (if n then 0xFF800000 else 0x7F800000) else if n then cnan32
    else pinTo (rsqrtVal m e) (ulps 2 (rsqrtVal m e)) (Config.rsqrtApprox (BitVec.ofNat 32 x))

def tanh32 (x : Nat) : Nat :=
  match v32 x with
  | .nan => cnan32
  | .inf n => if n then 0xBF800000 else 0x3F800000
  | .fin n m e =>
    if !((v32 x).abs.lt (v32 0x41104FE0)) then (if n then 0xBF800000 else 0x3F800000)
    else if (v32 x).abs.lt (v32 0x39800000) then x
    else pinTo (tanhVal n m e) (ulps 3 (tanhVal n m e)) (Config.tanhApprox (BitVec.ofNat 32 x))

end Sys2Proof.Machine
end

