-- ==== Sys2Proof/Machine/Regs.lean ====
section
/-!
DEFINITION. Regs.lean: the register blocks of 09_memory Tables 09-2 and 09-3 and the fields of every register table that
a write can reach or a read can clear: [hi:lo], access code (00 R13), update class (00 R15), reset value (00 R11).
Read-only fields are views of the state (Access.lean).
-/
namespace Sys2Proof.Machine

/-- Access codes of 00 Table 00-4. -/
inductive Acc where
  | rw
  | w1c
  | w1s
  | wo
  | rc
  deriving DecidableEq, Repr

/-- Update classes of 00 R15. -/
inductive Upd where
  | live
  | boundary
  | idleOnly
  deriving DecidableEq, Repr

/-- Register blocks. -/
inductive Blk where
  | hub | clerk | reeve | repl | bell | mill | ddr | hlink | watch | hobs | carter | steward | imsic
  | die | link | hbm | cellar | therm | scrub | pwr | dobs | tile
  deriving DecidableEq, Repr

structure Field where
  hi  : Nat
  lo  : Nat
  acc : Acc
  upd : Upd
  deriving DecidableEq, Repr

/-- A register or a run of `n` equal ones `stride` bytes apart. -/
structure RegDef where
  blk    : Blk
  off    : Nat
  stride : Nat
  n      : Nat
  fields : List Field
  rst    : Nat
  deriving DecidableEq, Repr

def regsTile0 : List RegDef := [
  ⟨.tile, 0x180, 0, 1, [⟨13, 12, .rw, .boundary⟩, ⟨6, 0, .rw, .boundary⟩], 0x40⟩,  -- MCORE.ARRAY_CFG (Table 02-10)
  ⟨.tile, 0x200, 8, 128, [⟨63, 0, .w1c, .live⟩], 0x0⟩,  -- MCORE.SAT_FLAGS[i] (Table 03-5)
  ⟨.tile, 0x600, 0, 1, [⟨2, 2, .w1c, .live⟩, ⟨1, 1, .w1c, .live⟩, ⟨0, 0, .w1c, .live⟩], 0x0⟩,  -- MCORE.SAT_SUMMARY (Table 03-6)
  ⟨.tile, 0x8, 0, 1, [⟨2, 1, .rw, .boundary⟩, ⟨0, 0, .rw, .idleOnly⟩], 0x1⟩,  -- TILE.MODE (Table 04-16)
  ⟨.tile, 0x40, 8, 3, [⟨63, 63, .wo, .live⟩, ⟨62, 62, .wo, .live⟩, ⟨47, 1, .rw, .idleOnly⟩], 0x0⟩,  -- TILE.STREAM_CTRL[s] (Table 04-17)
  ⟨.tile, 0x60, 8, 3, [⟨61, 61, .w1c, .live⟩], 0x0⟩,  -- TILE.STREAM_STATUS[s] (Table 04-18)
  ⟨.tile, 0xe0, 0, 1, [⟨31, 0, .rw, .idleOnly⟩], 0xffff⟩,  -- TILE.CORE_MASK[s] (Table 04-20)
  ⟨.tile, 0xe8, 0, 1, [⟨31, 0, .rw, .idleOnly⟩], 0xffff0000⟩,  -- TILE.CORE_MASK[s] (Table 04-20)
  ⟨.tile, 0xf0, 0, 1, [⟨31, 0, .rw, .idleOnly⟩], 0x0⟩,  -- TILE.CORE_MASK[s] (Table 04-20)
  ⟨.tile, 0x100, 0, 1, [⟨16, 16, .rw, .boundary⟩, ⟨15, 0, .rw, .boundary⟩], 0x103e8⟩,  -- TILE.WDOG (Table 04-21)
  ⟨.tile, 0x800, 8, 64, [⟨15, 0, .rw, .live⟩], 0x0⟩,  -- TILE.TOKEN[i] (Table 04-22)
  ⟨.tile, 0x1000, 8, 32, [⟨63, 0, .rw, .idleOnly⟩], 0x0⟩]  -- TILE.TOKEN[i] (Table 04-22)

def regsTile1 : List RegDef := [
  ⟨.tile, 0x1100, 8, 32, [⟨63, 0, .rw, .idleOnly⟩], 0x0⟩,  -- TILE.TOKEN[i] (Table 04-22)
  ⟨.tile, 0x1200, 8, 32, [⟨63, 0, .rw, .idleOnly⟩], 0x0⟩,  -- TILE.TOKEN[i] (Table 04-22)
  ⟨.tile, 0x700, 0, 1, [⟨63, 0, .rw, .idleOnly⟩], 0x0⟩,  -- VEC.RNG_SEED (Table 05-11)
  ⟨.tile, 0x708, 8, 3, [⟨1, 1, .w1c, .live⟩, ⟨0, 0, .w1c, .live⟩], 0x0⟩,  -- VEC.STATUS[s] (Table 05-12)
  ⟨.tile, 0xc00, 8, 16, [⟨63, 63, .rw, .live⟩, ⟨62, 62, .rw, .live⟩, ⟨59, 48, .rw, .live⟩, ⟨47, 36, .rw, .live⟩, ⟨35, 32, .rw, .live⟩, ⟨31, 0, .rw, .live⟩], 0x0⟩,  -- GRAN.RTAG[i] (Table 06-4)
  ⟨.tile, 0xc80, 0, 1, [⟨31, 0, .rc, .live⟩], 0x0⟩,  -- GRAN.TAG_EVICT (Table 06-5)
  ⟨.tile, 0xcc0, 0, 1, [⟨47, 32, .rc, .live⟩, ⟨31, 0, .rc, .live⟩], 0x0⟩,  -- GRAN.ECC (Table 06-7)
  ⟨.tile, 0xd08, 0, 1, [⟨2, 2, .rw, .boundary⟩, ⟨1, 0, .rw, .boundary⟩], 0x0⟩,  -- UPD.CFG (Table 07-9)
  ⟨.tile, 0xd10, 8, 2, [⟨31, 0, .rc, .live⟩], 0x0⟩,  -- UPD.RESTORED (Table 07-10)
  ⟨.tile, 0xd20, 0, 1, [⟨63, 0, .rc, .live⟩], 0x0⟩]  -- UPD.NONFINITE (Table 07-11)

def regsTile : List RegDef := regsTile0 ++ regsTile1

def regsRepl : List RegDef := [
  ⟨.repl, 0x0, 8, 64, [⟨63, 63, .rw, .idleOnly⟩, ⟨59, 48, .rw, .idleOnly⟩, ⟨47, 6, .rw, .idleOnly⟩, ⟨5, 0, .rw, .idleOnly⟩], 0x0⟩,  -- REPL.GRP_CTRL[i] (Table 08-4)
  ⟨.repl, 0x200, 8, 64, [⟨60, 60, .wo, .live⟩, ⟨59, 59, .wo, .live⟩], 0x0⟩,  -- REPL.GRP_STATUS[i] (Table 08-5)
  ⟨.repl, 0x600, 8, 64, [⟨31, 0, .rc, .live⟩], 0x0⟩,  -- REPL.GRP_STEP[i] (Table 08-6)
  ⟨.repl, 0x800, 8, 64, [⟨31, 0, .rc, .live⟩], 0x0⟩]  -- REPL.GRP_STEP[i] (Table 08-6)

def regsCellar : List RegDef := [
  ⟨.cellar, 0x0, 0, 1, [⟨63, 63, .wo, .live⟩, ⟨3, 0, .rw, .live⟩], 0xc⟩,  -- CELLAR.CFG (Table 09-9)
  ⟨.cellar, 0x8, 0, 1, [⟨18, 16, .rw, .live⟩, ⟨14, 12, .rw, .live⟩, ⟨10, 8, .rw, .live⟩, ⟨6, 4, .rw, .live⟩, ⟨2, 0, .rw, .live⟩], 0x401⟩,  -- CELLAR.HINT_DEFAULT (Table 09-10)
  ⟨.cellar, 0x10, 8, 2, [⟨63, 0, .rc, .live⟩], 0x0⟩,  -- CELLAR.HITS (Table 09-11)
  ⟨.cellar, 0x20, 0, 1, [⟨47, 32, .rc, .live⟩, ⟨31, 0, .rc, .live⟩], 0x0⟩]  -- CELLAR.ECC (Table 09-12)

def regsHbm : List RegDef := [
  ⟨.hbm, 0x8, 0, 1, [⟨47, 32, .rc, .live⟩, ⟨31, 0, .rc, .live⟩], 0x0⟩]  -- CELLAR.ECC (Table 09-12)

def regsDdr : List RegDef := [
  ⟨.ddr, 0x100, 8, 16, [⟨47, 32, .rc, .live⟩, ⟨31, 0, .rc, .live⟩], 0x0⟩,  -- CELLAR.ECC (Table 09-12)
  ⟨.ddr, 0x0, 0, 1, [⟨16, 16, .rw, .boundary⟩, ⟨15, 0, .rw, .boundary⟩], 0x10018⟩]  -- SCRUB.CFG (Table 09-15)

def regsTherm : List RegDef := [
  ⟨.therm, 0x0, 8, 2, [⟨47, 32, .rc, .live⟩, ⟨31, 24, .rc, .live⟩, ⟨23, 16, .rc, .live⟩], 0x0⟩]  -- THERM.STACK[s] (Table 09-14)

def regsScrub : List RegDef := [
  ⟨.scrub, 0x0, 0, 1, [⟨16, 16, .rw, .boundary⟩, ⟨15, 0, .rw, .boundary⟩], 0x10018⟩]  -- SCRUB.CFG (Table 09-15)

def regsClerk : List RegDef := [
  ⟨.clerk, 0x40018, 0, 1, [⟨31, 0, .rc, .live⟩], 0x0⟩,  -- CLERK.ERR_SEQ (Table 18-7)
  ⟨.clerk, 0x40020, 0, 1, [⟨32, 32, .rw, .live⟩, ⟨22, 20, .rw, .live⟩, ⟨19, 18, .rw, .live⟩, ⟨17, 12, .rw, .live⟩, ⟨10, 0, .rw, .live⟩], 0x0⟩,  -- CLERK.ERR_NOTIFY (Table 18-8)
  ⟨.clerk, 0x80, 4096, 64, [⟨63, 63, .wo, .live⟩, ⟨22, 20, .rw, .live⟩, ⟨19, 18, .rw, .live⟩, ⟨17, 12, .rw, .live⟩, ⟨10, 0, .rw, .live⟩], 0x0⟩,  -- CLERK.MB_CTRL[m] (Table 15-9)
  ⟨.clerk, 0x88, 4096, 64, [⟨62, 62, .w1c, .live⟩, ⟨15, 0, .rc, .live⟩], 0x0⟩,  -- CLERK.MB_STATUS[m] (Table 15-10)
  ⟨.clerk, 0x40108, 0, 1, [⟨63, 63, .wo, .live⟩, ⟨61, 61, .w1c, .live⟩, ⟨57, 56, .rw, .idleOnly⟩, ⟨12, 0, .rw, .idleOnly⟩], 0x0⟩,  -- CLERK.FLASH_CTRL (Table 20-9)
  ⟨.clerk, 0x80000, 8, 512, [⟨63, 0, .rw, .idleOnly⟩], 0x0⟩,  -- CLERK.FLASH_BUF[i] (Table 20-10)
  ⟨.clerk, 0x40110, 0, 1, [⟨63, 1, .w1s, .live⟩], 0x0⟩]  -- CLERK.HART_START (Table 20-11)

def regsWatch : List RegDef := [
  ⟨.watch, 0x180, 0, 1, [⟨63, 63, .wo, .live⟩], 0x0⟩,  -- WATCH.CRASH_CLR (Table 18-10)
  ⟨.watch, 0x0, 0, 1, [⟨63, 63, .rw, .live⟩, ⟨47, 32, .rw, .live⟩, ⟨25, 20, .rw, .live⟩, ⟨19, 18, .rw, .live⟩, ⟨17, 15, .rw, .live⟩, ⟨10, 0, .rw, .live⟩], 0x8000000a00000000⟩]  -- WATCH.CFG (Table 17-8)

def regsReeve : List RegDef := [
  ⟨.reeve, 0x0, 0, 1, [⟨2, 1, .rw, .live⟩, ⟨0, 0, .rw, .live⟩], 0x1⟩,  -- REEVE.ROLL_CFG (Table 10-6)
  ⟨.reeve, 0x8, 0, 1, [⟨31, 0, .rc, .live⟩], 0x0⟩,  -- REEVE.HOST_RESET (Table 10-7)
  ⟨.reeve, 0x10008, 4096, 16, [⟨63, 0, .rc, .live⟩], 0x0⟩,  -- REEVE.SLICE_ROLL_EVICT[i] (Table 10-9)
  ⟨.reeve, 0x10010, 4096, 16, [⟨63, 0, .rc, .live⟩], 0x0⟩,  -- REEVE.SLICE_ROLL_EVICT[i] (Table 10-9)
  ⟨.reeve, 0x10018, 4096, 16, [⟨63, 0, .rc, .live⟩], 0x0⟩]  -- REEVE.SLICE_ROLL_EVICT[i] (Table 10-9)

def regsLink : List RegDef := [
  ⟨.link, 0x40, 8, 4, [⟨63, 48, .rc, .live⟩, ⟨47, 24, .rc, .live⟩, ⟨23, 0, .rc, .live⟩], 0x0⟩,  -- LINK.ERR[p] (Table 11-8)
  ⟨.link, 0x80, 0, 1, [⟨16, 16, .rw, .live⟩, ⟨15, 0, .rw, .live⟩], 0x103e8⟩]  -- LINK.CAL_CFG (Table 11-9)

def regsHlink : List RegDef := [
  ⟨.hlink, 0x8, 256, 8, [⟨63, 48, .rc, .live⟩, ⟨47, 24, .rc, .live⟩, ⟨23, 0, .rc, .live⟩], 0x0⟩,  -- LINK.ERR[p] (Table 11-8)
  ⟨.hlink, 0x800, 0, 1, [⟨16, 16, .rw, .live⟩, ⟨15, 0, .rw, .live⟩], 0x103e8⟩]  -- LINK.CAL_CFG (Table 11-9)

def regsCarter : List RegDef := [
  ⟨.carter, 0x0, 0, 1, [⟨63, 16, .rw, .live⟩, ⟨3, 2, .rw, .idleOnly⟩, ⟨1, 0, .rw, .idleOnly⟩], 0x3⟩,  -- CARTER.PORT_CFG (Table 12-13)
  ⟨.carter, 0x80, 8, 8, [⟨63, 40, .rc, .live⟩, ⟨39, 20, .rc, .live⟩, ⟨19, 0, .rc, .live⟩], 0x0⟩,  -- CARTER.LINK_ERR[l] (Table 12-15)
  ⟨.carter, 0x100, 8, 16, [⟨63, 0, .rw, .idleOnly⟩], 0x0⟩,  -- CARTER.IP6_HI[l] (Table 12-16)
  ⟨.carter, 0x200, 0, 1, [⟨63, 52, .rw, .live⟩, ⟨51, 44, .rw, .live⟩, ⟨43, 36, .rw, .live⟩, ⟨35, 28, .rw, .live⟩, ⟨27, 16, .rw, .live⟩, ⟨15, 0, .rw, .live⟩], 0x100480108001388⟩,  -- CARTER.CC_CFG (Table 12-17)
  ⟨.carter, 0x208, 0, 1, [⟨63, 56, .rw, .live⟩, ⟨55, 40, .rw, .live⟩, ⟨39, 32, .rw, .live⟩, ⟨31, 16, .rw, .live⟩, ⟨15, 0, .rw, .live⟩], 0x64003c04006401f4⟩,  -- CARTER.RELY_CFG (Table 12-18)
  ⟨.carter, 0x220, 0, 1, [⟨7, 1, .rw, .live⟩], 0xfe⟩,  -- CARTER.FC_GATE (Table 12-19)
  ⟨.carter, 0x228, 0, 1, [⟨55, 40, .rc, .live⟩, ⟨39, 0, .rc, .live⟩], 0x0⟩,  -- CARTER.VIOL (Table 12-20)
  ⟨.carter, 0x8000, 0, 1, [⟨63, 63, .rw, .live⟩, ⟨62, 62, .rw, .live⟩, ⟨31, 0, .rw, .boundary⟩], 0x1388⟩]  -- CARTER.LEASE_CFG (Table 12-21)

def regsBell0 : List RegDef := [
  ⟨.bell, 0x18, 0, 1, [⟨63, 62, .rw, .live⟩, ⟨57, 42, .rw, .live⟩, ⟨41, 32, .rw, .live⟩, ⟨31, 0, .rw, .live⟩], 0x2ee06400002710⟩,  -- BELL.SRC_CFG (Table 13-4)
  ⟨.bell, 0x20, 0, 1, [⟨31, 0, .rw, .live⟩], 0x0⟩,  -- BELL.RATE (Table 13-5)
  ⟨.bell, 0x28, 0, 1, [⟨63, 0, .wo, .live⟩], 0x0⟩,  -- BELL.RATE (Table 13-5)
  ⟨.bell, 0x30, 0, 1, [⟨63, 0, .wo, .live⟩], 0x0⟩,  -- BELL.RATE (Table 13-5)
  ⟨.bell, 0x38, 0, 1, [⟨63, 0, .rw, .live⟩], 0x0⟩,  -- BELL.RATE (Table 13-5)
  ⟨.bell, 0x40, 0, 1, [⟨55, 48, .rc, .live⟩, ⟨47, 32, .rc, .live⟩], 0x0⟩,  -- BELL.STATUS (Table 13-6)
  ⟨.bell, 0x48, 0, 1, [⟨63, 63, .rw, .live⟩, ⟨47, 16, .rw, .idleOnly⟩], 0x0⟩,  -- BELL.PTP_RING (Table 13-7)
  ⟨.bell, 0x50, 0, 1, [⟨47, 32, .rw, .live⟩, ⟨31, 16, .rw, .live⟩], 0x0⟩,  -- BELL.PTP_RING (Table 13-7)
  ⟨.bell, 0x10000, 32, 4096, [⟨63, 0, .rw, .idleOnly⟩], 0x0⟩,  -- BELL.E_DUE[i], BELL.E_PERIOD[i], BELL.E_ARG[i] (Table 13-8)
  ⟨.bell, 0x10008, 32, 4096, [⟨63, 0, .rw, .idleOnly⟩], 0x0⟩,  -- BELL.E_DUE[i], BELL.E_PERIOD[i], BELL.E_ARG[i] (Table 13-8)
  ⟨.bell, 0x10010, 32, 4096, [⟨63, 63, .rw, .live⟩, ⟨62, 62, .rw, .idleOnly⟩, ⟨55, 44, .rw, .idleOnly⟩, ⟨39, 32, .rw, .idleOnly⟩, ⟨31, 0, .rw, .idleOnly⟩], 0x0⟩,  -- BELL.E_CTRL[i] (Table 13-9)
  ⟨.bell, 0x10018, 32, 4096, [⟨31, 0, .rw, .idleOnly⟩], 0x0⟩]  -- BELL.E_DUE[i], BELL.E_PERIOD[i], BELL.E_ARG[i] (Table 13-8)

def regsBell1 : List RegDef := [
  ⟨.bell, 0x30000, 8, 4096, [⟨63, 48, .rc, .live⟩, ⟨47, 32, .rc, .live⟩, ⟨31, 16, .rc, .live⟩], 0x0⟩]  -- BELL.E_STAT[i] (Table 13-10)

def regsBell : List RegDef := regsBell0 ++ regsBell1

def regsMill : List RegDef := [
  ⟨.mill, 0x1000, 64, 16, [⟨63, 63, .rw, .live⟩, ⟨59, 48, .rw, .idleOnly⟩, ⟨47, 6, .rw, .idleOnly⟩, ⟨5, 0, .rw, .idleOnly⟩], 0x0⟩,  -- MILL.CHUTE_CTRL[c] (Table 14-8)
  ⟨.mill, 0x1010, 64, 16, [⟨63, 32, .rw, .live⟩], 0x0⟩,  -- MILL.RING_IDX[c] (Table 14-10)
  ⟨.mill, 0x1018, 64, 16, [⟨63, 32, .rw, .live⟩], 0x0⟩,  -- MILL.RING_IDX[c] (Table 14-10)
  ⟨.mill, 0x1020, 64, 16, [⟨63, 48, .rc, .live⟩, ⟨47, 32, .rc, .live⟩, ⟨31, 0, .rc, .live⟩], 0x0⟩]  -- MILL.COUNTS[c] (Table 14-11)

def regsPwr : List RegDef := [
  ⟨.pwr, 0x8, 0, 1, [⟨23, 16, .rw, .live⟩, ⟨7, 0, .rw, .live⟩], 0x140028⟩,  -- PWR.SAG_CFG (Table 17-6)
  ⟨.pwr, 0x10, 0, 1, [⟨63, 32, .rc, .live⟩, ⟨31, 0, .rc, .live⟩], 0x0⟩]  -- PWR.SAG_COUNT (Table 17-7)

def regsDobs : List RegDef := [
  ⟨.dobs, 0x1200, 8, 10, [⟨63, 32, .rc, .live⟩, ⟨31, 16, .rc, .live⟩], 0x0⟩,  -- TITHE.WATCH[t][w] (Table 19-9)
  ⟨.dobs, 0x800, 0, 1, [⟨0, 0, .rw, .live⟩], 0x0⟩]  -- OBS.CTR[i] (Table 19-12)

def regsHobs : List RegDef := [
  ⟨.hobs, 0x1000, 0, 1, [⟨0, 0, .rw, .live⟩], 0x0⟩,  -- OBS.CTR[i] (Table 19-12)
  ⟨.hobs, 0x2000, 0, 1, [⟨31, 0, .rw, .live⟩], 0x0⟩,  -- OBS.CHRON_IDX (Table 19-14)
  ⟨.hobs, 0x2008, 0, 1, [⟨61, 0, .rc, .live⟩], 0x0⟩,  -- OBS.CHRON_IDX (Table 19-14)
  ⟨.hobs, 0x2010, 0, 1, [⟨63, 0, .wo, .live⟩], 0x0⟩,  -- OBS.CHRON_IDX (Table 19-14)
  ⟨.hobs, 0x3000, 0, 1, [⟨63, 48, .rw, .live⟩, ⟨47, 11, .rw, .live⟩], 0x0⟩,  -- OBS.CENSUS_AREA (Table 19-15)
  ⟨.hobs, 0x3008, 0, 1, [⟨62, 62, .w1c, .live⟩, ⟨15, 0, .rc, .live⟩], 0x0⟩]  -- OBS.CENSUS_AREA (Table 19-15)

/-- Every register with a stored or acting field. -/
def allRegs : List RegDef := regsTile ++ regsRepl ++ regsCellar ++ regsHbm ++ regsDdr ++ regsTherm ++ regsScrub ++ regsClerk ++ regsWatch ++ regsReeve ++ regsLink ++ regsHlink ++ regsCarter ++ regsBell ++ regsMill ++ regsPwr ++ regsDobs ++ regsHobs

end Sys2Proof.Machine
end

