-- ==== Sys2Proof/Machine/TypesSys.lean ====
section
/-!
DEFINITION. TypesSys.lean: work and completions (15 R366 to R370), residency (16 R378, R479), the chronicle (19 R429),
and messages in flight between units.
-/
namespace Sys2Proof.Machine

/-- Work the steward has taken (15 Table 15-7, 16 R386). -/
structure Work where
  queue    : Nat
  idx      : Nat                -- running index of the descriptor: HEAD when it was taken
  ctx      : Nat
  model    : Nat
  entry    : Nat
  signal   : Bool
  deadline : Nat
  wrid     : Word
  scalar   : Word
  tensors  : List Word
  entries  : List Word          -- the three stream entry addresses
  masks    : List Nat           -- the three MASK_INIT values
  running  : Bool               -- streams started (after any swap)
  energy   : Nat                -- µJ drawn so far (17 R400)
  deriving DecidableEq, Repr

/-- A completion entry waiting to be written into the completion queue of the queue that produced it (15 R366). -/
structure Compl where
  prod  : Nat                   -- producing queue
  bytes : List Byte             -- 32 bytes
  deriving DecidableEq, Repr

/-- What a tile holds for the steward (16 Table 16-7): an entry resident, swapping or running. -/
structure Resid where
  st      : Nat                 -- 0 no resident state, 1 resident, 2 swapping, 3 running
  ctx     : Nat
  model   : Nat
  entry   : Nat
  deriving DecidableEq, Repr

def Resid.init : Resid := ⟨0, 0, 0, 0⟩

/-- A state swap on a tile (16 R379 to R382): what is being saved, the outgoing tag set, the context that last held the
tile, the outgoing image's address and room in sheaves, its phase (0 invalid header written, 1 body written, 2 nothing left
to save), and the rows and sheaves of the body. -/
structure Swap where
  out    : Option (Nat × Nat × Nat)     -- context, model, entry
  tags   : List Nat
  held   : Option Nat
  base   : Nat
  room   : Nat
  phase  : Nat
  rows   : Nat
  len    : Nat
  deriving DecidableEq, Repr

/-- A context (16 R374): its state, the error class and SEQ of its fault, its tile set hint, its energy account in µJ, and
the cause of the teardown it still awaits. -/
structure Ctx where
  st      : Nat                 -- 0 free, 1 active, 2 faulted, 3 tearing down
  fcls    : Nat
  fseq    : Nat
  fwait   : Bool                -- the record of its fault has not reached the collector yet
  hint    : Nat                 -- tile set hint, bit g
  energy  : Nat
  prefs   : SMap Nat            -- preferred operating point per phase (17 R395)
  tdCause : Option Nat          -- 18 Table 18-3, class 0x04
  deriving DecidableEq, Repr

def Ctx.init : Ctx := ⟨0, 0, 0, false, 0, 0, [], none⟩

/-- A registered model (16 R377, 18 R416). -/
structure Model where
  ctx      : Nat
  entries  : Nat
  tabWin   : Nat
  tabOff   : Nat
  saveWin  : Nat
  saveOff  : Nat
  sheaves  : Nat                -- save area length in sheaves
  unusable : Bool
  markSeq  : Nat
  markWait : Bool               -- the record that marked it has not reached the collector yet
  invocs   : Nat
  deriving DecidableEq, Repr

/-- The image stride in sheaves (R377). -/
def Model.stride (m : Model) : Nat := m.sheaves / m.entries

/-- A remote token signal on the mesh (04 R91). Of a bell book entry's (13 R320), `pc` numbers the instance, and `stream` is 1 once that
instance's record is written. -/
structure RemoteSig where
  src    : Nat
  stream : Nat
  pc     : Nat
  ctx    : Nat
  dst    : Nat
  token  : Nat
  count  : Nat
  deriving DecidableEq, Repr

/-- A chronicle event (19 Table 19-3); DATA as (offset, bytes, value). -/
structure ChronEv where
  ns   : Nat
  type : Nat
  die  : Nat
  unit : Nat
  ctx  : Option Nat
  data : List (Nat × Nat × Nat)
  deriving DecidableEq, Repr

/-- The chronicle (19 R429 to R432). -/
structure Chron where
  configured : Bool
  running    : Bool
  base       : Nat
  log2n      : Nat
  dies       : Nat
  classes    : Nat
  write      : Nat
  read       : Nat
  bufs       : SMap (List ChronEv)   -- per die, 8 for the hub
  lost       : SMap Nat
  firstLost  : SMap Nat
  total      : Nat
  turn       : Nat
  deriving DecidableEq, Repr

def Chron.init : Chron :=
  { configured := false, running := false, base := 0, log2n := 0, dies := 0, classes := 0, write := 0, read := 0,
    bufs := [], lost := [], firstLost := [], total := 0, turn := 0 }

/-- A tithe watch (19 Table 19-9). -/
structure Tithe where
  enable : Bool
  once   : Bool
  digest : Bool
  stream : Nat
  ctx    : Nat
  yoff   : Nat
  recOff : Nat
  bell   : List Nat              -- bell book entries whose TITHE action enabled it (R441)
  deriving DecidableEq, Repr

def Tithe.init : Tithe := ⟨false, false, false, 0, 0, 0, 0, []⟩

end Sys2Proof.Machine
end

