-- ==== Sys2Proof/Machine/TypesTile.lean ====
section
/-!
DEFINITION. TypesTile.lean: the state a tile holds (04_tile R78): streams, queues, matrix cores, vector engine, carts,
update command, tokens. The granary's bytes stand in the module's memory under their window address (06 R156).
-/
namespace Sys2Proof.Machine

/-- Stream states of 04 R81. -/
inductive StreamSt where
  | idle
  | running
  | stopping
  | faulted
  deriving DecidableEq, Repr

/-- What a queued command asks of its unit (04 R85), its operand registers already read. -/
inductive QOp where
  | mma (rs1 rs2 rs3 : Word)
  | mdrain (rs1 rs2 rs3 : Word)
  | cart (off : Nat) (sel : Nat)                 -- descriptor offset; rs2 bits [2:0]
  | talloc (mask : Nat)
  | gfence
  | tstep (step : Word)
  | tnop
  | vec (f3 f2 : Nat) (off : Nat) (alpha beta : Nat) (rd : Nat)
  | update (off first count : Nat) (rd : Nat)
  deriving DecidableEq, Repr

/-- A command in a stream's queue: its place in issue order, the address of its instruction, its sync word (R92). -/
structure QCmd where
  seq  : Nat
  pc   : Nat
  sync : Nat
  op   : QOp
  deriving DecidableEq, Repr

/-- One of a tile's three streams. -/
structure Stream where
  st       : StreamSt
  pc       : Nat
  x        : SMap Word            -- x1 to x31; x0 is never written (R80)
  queue    : List QCmd
  issued   : Nat                  -- TILE.ISSUED (R87)
  retired  : Nat                  -- TILE.RETIRED (R87)
  ended    : List Nat             -- commands ended ahead of an earlier one (R87)
  live     : List QCmd            -- commands dispatched and not yet ended
  failed   : Option Nat           -- the first dispatched command of this run that ended faulted (R87, R96)
  granted  : Nat                  -- granted core mask (R93)
  request  : Nat                  -- issue mask of the latest TALLOC, or MASK_INIT (R93)
  startReq : Bool                 -- a START waiting for rows (R94)
  twait    : Option (Nat × Nat × Bool)  -- token, count, peek: a stalled TWAIT (R89)
  tend     : Bool                 -- waiting in TEND (R82)
  pend     : List Nat             -- registers a summary command holds pending (R110)
  stall    : List Nat             -- registers of an instruction that met one of them pending and has not issued (R110)
  full     : Bool                 -- an instruction met the full queue and has not issued (R84)
  step     : Word                 -- step number (05 R135)
  q        : Nat                  -- custom-1 commands dispatched since START or TSTEP, modulo 2^24 (05 R135)
  instret  : Nat                  -- retired instructions since START (R478)
  progress : Nat                  -- local ns of its last progress (R111)
  cause    : Nat
  detail   : Nat
  faultPc  : Nat
  notsup   : Bool
  deriving DecidableEq, Repr

/-- An idle stream that has never been started. -/
def Stream.init : Stream :=
  { st := .idle, pc := 0, x := [], queue := [], issued := 0, retired := 0, ended := [], live := [], failed := none, granted := 0,
    request := 0, startReq := false, twait := none, tend := false, pend := [], stall := [], full := false, step := 0, q := 0, instret := 0,
    progress := 0, cause := 0, detail := 0, faultPc := 0, notsup := false }

/-! ## Matrix cores (02_matrix_cores R28) -/

/-- Which block of which command a plane or an entry holds for the sequencer: row block `i` of A or column tile `i` of B, at
K-step `q`. -/
structure BlockId where
  stream : Nat
  seq    : Nat
  i      : Nat
  q      : Nat
  deriving DecidableEq, Repr

/-- A pen plane or a trough entry: data bytes and the scale beat's bytes, and the block of a command in progress they are. -/
structure Block where
  data  : List Byte
  scale : List Byte
  id    : Option BlockId
  deriving DecidableEq, Repr

def Block.empty : Block := ⟨[], [], none⟩

/-- A slot's kind (R41, R42). -/
inductive SlotKind where
  | none
  | float
  | int
  deriving DecidableEq, Repr

/-- An accumulator slot: 128 entries of 8 bytes; low half the fp32 sum or the int32 value, high half the fp32 error or,
in bit 0, the entry's saturation flag (R41, 03 R67). -/
structure Slot where
  kind : SlotKind
  ent  : SMap Word
  sat  : Bool
  deriving DecidableEq, Repr

def Slot.init : Slot := ⟨.none, [], false⟩

/-- One matrix core. `act` feeds the cells and `load` is the loading plane; `loaded` says a completed block waits there
(R35, R36); `valid` holds the valid bits of the trough entries (R37). An entry is busy only within a K-step, which is one
command here. `bad` and `soft` are the 8-byte words that hold an uncorrectable error, and a correctable one not yet read (R55):
(store, word), the stores being 0 the active and 1 the loading plane, 2 + e a trough entry, 18 + s a slot. `halted`: an
uncorrectable error has stopped the core (R55); it stays stopped until a stream of its tile starts or the tile is reset
(notes/assumptions/91). -/
structure Core where
  act    : Block
  load   : Block
  loaded : Bool
  trough : SMap Block
  valid  : SMap Bool
  slots  : SMap Slot
  drains : Nat                    -- drain count (R48)
  bad    : List (Nat × Nat)
  soft   : List (Nat × Nat)
  halted : Bool
  deriving DecidableEq, Repr

def Core.init : Core :=
  { act := .empty, load := .empty, loaded := false, trough := [], valid := [], slots := [], drains := 0, bad := [], soft := []
    halted := false }

/-- A dispatched MMA or MDRAIN: operand registers, the epilogue read at dispatch (R102), the step in force, and how far
each core has come (indexes count in issue order on the core). -/
structure ArrayCmd where
  stream : Nat
  seq    : Nat
  md     : Bool                   -- MDRAIN
  rs1    : Word
  rs2    : Word
  rs3    : Word
  epi    : List Byte
  step   : Word
  steps  : SMap Nat
  drains : SMap Nat
  tithe  : List Nat               -- watches it matched at dispatch (19 R438)
  outs   : List (Nat × Nat)       -- primary outputs so far, by m × N + n, for those watches
  deriving DecidableEq, Repr

/-- A command running on the vector engine: its descriptor as read at dispatch (05 R117). -/
structure VecRun where
  stream : Nat
  seq    : Nat
  f3     : Nat
  f2     : Nat
  desc   : List Byte
  alpha  : Nat
  beta   : Nat
  rd     : Nat
  step   : Word
  q      : Nat
  done   : Bool
  sum    : Word
  deriving DecidableEq, Repr

/-- A cart (06 R148): the descriptor's fields, the physical base of its far side, pieces issued and outstanding. -/
structure Cart where
  busy   : Bool
  stream : Nat
  seq    : Nat
  op     : Nat
  desc   : List Byte
  ctx    : Nat
  base   : Nat                    -- physical address of the far side's offset 0, fixed at dispatch
  issued : Nat                    -- pieces issued so far
  out    : List Nat               -- outstanding pieces
  total  : Nat
  remain : Nat
  stop   : Nat                    -- 0 running; 1 stopped, its stream already faulted; 5 stopped, to fault with cause 0x05
  done   : Bool
  deriving DecidableEq, Repr

def Cart.init : Cart :=
  { busy := false, stream := 0, seq := 0, op := 0, desc := [], ctx := 0, base := 0, issued := 0, out := [], total := 0, remain := 0,
    stop := 0, done := false }

/-- A sheaf the update command has open in a tally slot (07 R170): its phase and the bytes read in phase 1. -/
structure SheafWork where
  sheaf : Nat
  phase : Nat                     -- 1 journalled, 2 record open, 3 moments written, 4 weights written
  hi    : List Byte
  lo    : List Byte
  m     : List Byte
  v     : List Byte
  g     : List Byte
  deriving DecidableEq, Repr

/-- The update command on the engine (07 R165): descriptor, range, the step in force, the control line it holds. -/
structure UpdRun where
  stream  : Nat
  seq     : Nat
  rd      : Nat
  desc    : List Byte
  ctx     : Nat
  model   : Option Nat            -- the model whose work issued it (R175)
  first   : Nat
  count   : Nat
  step    : Word
  line    : List Byte
  restore : List Nat              -- OPEN records still to be recovered, in order; the first one's body is back in place (R173)
  next    : Nat                   -- next sheaf to be tested
  opens   : SMap (Option SheafWork)
  nonfin  : Nat
  stop    : Nat                   -- 0, or the check code that stopped the walk; 0x100 for an uncorrectable error
  deriving DecidableEq, Repr

/-- A tile. -/
structure Tile where
  strm    : SMap Stream
  last    : Nat                   -- stream that issued last (R80)
  tok     : SMap Nat              -- 64 token registers (R89)
  cores   : SMap Core
  recKind : SMap SlotKind         -- the sequencer's record of slot kinds, keyed 8 core + slot (R109)
  arr     : List ArrayCmd         -- dispatched array commands, in dispatch order
  vec     : Option VecRun
  upd     : Option UpdRun
  vecLast : Nat                   -- stream whose command last took the engine
  carts   : SMap Cart
  rngSeed : Word                  -- seed last applied to the lane generators (05 R133)
  rngN    : Nat                   -- draws from the lane generators
  discard  : Bool                 -- its state discarded by a teardown; faulted streams read idle once all commands ended (R81)
  deriving DecidableEq, Repr

def Tile.init : Tile :=
  { strm := [], last := 2, tok := [], cores := [], recKind := [], arr := [], vec := none, upd := none, vecLast := 2,
    carts := [], rngSeed := 0, rngN := 0, discard := false }

end Sys2Proof.Machine
end

