-- ==== Sys2Proof/Machine/State.lean ====
section
/-!
DEFINITION. State.lean: everything the spec gives the module, as plain data.
-/
namespace Sys2Proof.Machine

/-- What manufacture fixed of a field die: its stepping (00 Table 00-2), how it is strapped (11 Table 11-5: ROT, MIRROR,
ROWPAR from bit 0), its two disabled physical tiles, 0xF where the second is none (11 R271). -/
structure DieMake where
  letter : Nat
  digit  : Nat
  straps : Nat
  dis0   : Nat
  dis1   : Nat
  deriving DecidableEq, Repr

/-- What manufacture and fitting fix (00 R1, R2; notes/assumptions/4). -/
structure Ident where
  tiles80 : Bool
  ddr4T   : Bool
  hub     : Nat × Nat            -- stepping of the hub die
  dies    : List DieMake
  deriving DecidableEq, Repr

/-- The straps of logical die k's position (11 R264). -/
def strapsFor (k : Nat) : Nat := k / 4 + 2 * (k % 4 / 2) + 4 * (k / 4)

def Ident.die (id : Ident) (d : Nat) : DieMake := id.dies.getD d ⟨0x42, 0, strapsFor d, 10, 9⟩

/-- The WZ-CP12-80-1T with dies of steppings A2 and B0, P10 disabled. -/
def Ident.default : Ident :=
  { tiles80 := true, ddr4T := false, hub := (0x41, 2), dies := (List.range 8).map (fun d => ⟨0x42, 0, strapsFor d, 10, 0xF⟩) }

/-- Memory side. -/
structure MemSide where
  mem    : Mem
  slices : SMap Slice           -- keyed 2d + s
  stks : SMap Stack
  roll   : SMap RollLine        -- keyed by line: key address / 64
  clock  : Nat                  -- LRU clock of the roll
  open_  : List Txn             -- ordered and not released (10 R242)
  wait   : List Txn             -- waiting on a busy line or a roll eviction, oldest first
  cacheBad : List (Nat × Nat)   -- uncorrectable words in the caches of the caching agents: (agent, address) (18 R408)
  deriving DecidableEq, Repr

/-- Everything the module holds but its identity, its error ring and the queue. -/
structure Hw where
  memS   : MemSide
  regs   : SMap Word            -- stored register bits, by physical address
  shadow : SMap (Option Word)   -- Boundary fields written and not yet applied (00 R15)
  tiles  : SMap Tile
  dieSt  : SMap Nat             -- HUB.DIE_STATE codes
  ctxs   : SMap Ctx
  models : SMap (Option Model)
  wins   : SMap Window          -- keyed 64 c + w
  resid  : SMap Resid
  work   : SMap (Option Work)
  swaps  : SMap (Option Swap)
  bitmap : SMap Bool            -- doorbell bitmap (15 R368)
  compl  : List Compl
  rsig   : List RemoteSig
  chron  : Chron
  tithe  : SMap Tithe           -- keyed 4 g + w
  errOut : List ErrRec
  bellNs : Nat
  localNs : Nat
  fab    : Fab
  repl   : SMap Group
  sites  : SMap Site            -- keyed 4 d + p for a die's sites, 32 + k for hub sites
  bell   : Bell
  mill   : Mill
  clerk  : Clerk
  power  : Power
  boot   : Boot
  obs    : Obs
  out    : List Outp            -- what left the module in the last command (notes/assumptions/6)
  resp   : Resp
  wiped  : Bool                 -- the module was reset or powered on in the last command (notes/assumptions/6)
  free   : Nat
  deriving DecidableEq, Repr

/-- No command of this block ends in a fault: every error the spec names is an effect on State. -/
inductive Fault where
  deriving DecidableEq, Repr

/-- A command the model does not run. -/
inductive Refusal where
  /-- Raised by Dispatch.exec alone, for a command without a meaning yet; safe. -/
  | notModelled (mnemonic : String)
  deriving DecidableEq, Repr

/-- The module: what fixes it, the error collector, everything else, and the commands that wait. -/
structure State where
  ident   : Ident
  err     : ErrRing
  hw      : Hw
  pending : List Instr
  deriving DecidableEq, Repr

/-- The memory side after power-on: nothing written, cellars invalid, the roll empty (09, 10 R247). -/
def MemSide.init : MemSide :=
  { mem := ⟨[], [], []⟩, slices := [], stks := [], roll := [], clock := 0, open_ := [], wait := [], cacheBad := [] }

/-- Boot state at power-on (20 Table 20-8). -/
def Boot.init : Boot :=
  { phase := 1, cause := 0, retained := false, holdAt := none, bank := 0, iver := 0, entry := 0, booted := false, unverified := false, scopes := 0,
    unlocked := false, fails := 0, challenge := 0, flash := [], repairs := [], busy := false, op := none, harts := [], imsic := [], ifiles := [],
    firstSeq := 1, fallow := 0, wakeBad := false, extest := false, mrst := false, resetAt := [], meas := [], lamps := [],
    dimms := 0, scrub := [] }

/-- Everything but identity, error ring and queue, at power-on (00 R11 and each register's Reset column). -/
def Hw.reset : Hw :=
  { memS := .init, regs := [], shadow := [], tiles := [], dieSt := [], ctxs := [], models := [], wins := [], resid := [],
    work := [], swaps := [], bitmap := [], compl := [], rsig := [], chron := .init, tithe := [], errOut := [], bellNs := 0, localNs := 0,
    fab := .init, repl := [], sites := [], bell := .init, mill := ⟨[], 15⟩, clerk := .init, power := .init,
    boot := .init, obs := ⟨none, [], [], []⟩, out := [], resp := .none, wiped := false, free := 0 }

/-- The module at power-on (20 R445), with a fresh challenge drawn (R457). -/
def State.reset : State :=
  { ident := .default, err := .init, hw := { Hw.reset with boot := { Boot.init with challenge := Config.freeValue 0 }, free := 1 }, pending := [] }

/-- Where a command begins: what the module answered and sent in an earlier one is forgotten. -/
def Hw.fresh (h : Hw) : Hw := { h with resp := .none, out := [], wiped := false }

/-- A command that leaves the error ring as it is. -/
def State.act (s : State) (f : Hw → Hw) : Host.Outcome State Fault Refusal :=
  .next { s with hw := f s.hw.fresh }

/-- A command that reads or changes the error ring. -/
def State.actErr (s : State) (f : ErrRing → Hw → ErrRing × Hw) : Host.Outcome State Fault Refusal :=
  .next { s with err := (f s.err s.hw.fresh).1, hw := (f s.err s.hw.fresh).2 }

/-- A command that may reset the module: the error ring goes with it (18 R410, 20 R445). -/
def State.actReset (s : State) (f : Hw → Hw) : Host.Outcome State Fault Refusal :=
  .next { s with err := if (f s.hw.fresh).wiped then .init else s.err, hw := f s.hw.fresh }

end Sys2Proof.Machine
end

