-- ==== Sys2Proof/Machine/Ops.lean ====
section
/-!
DEFINITION. Ops.lean: the named operations over memory, registers, tiles and records that every meaning uses.
-/
namespace Sys2Proof.Machine

/-! ## Bytes -/

/-- A little-endian number (00 R7). -/
def leNat : List Byte → Nat
  | [] => 0
  | b :: bs => b.toNat + 256 * leNat bs

/-- The n low bytes of a number, little-endian. -/
def toLE : Nat → Nat → List Byte
  | 0, _ => []
  | n + 1, v => BitVec.ofNat 8 v :: toLE n (v / 256)

/-- `n` bytes at offset `o` of a record; bytes past its end read as zero. -/
def subB (b : List Byte) (o n : Nat) : List Byte :=
  let r := (b.drop o).take n
  r ++ List.replicate (n - r.length) 0

/-- A field of a record: `n` bytes at offset `o`. -/
def recN (b : List Byte) (o n : Nat) : Nat := leNat (subB b o n)

/-- A record of `n` bytes from its fields (offset, bytes, value), the rest zero. -/
def mkRec (n : Nat) (fs : List (Nat × Nat × Nat)) : List Byte :=
  toLE n (fs.foldl (fun a f => a + f.2.2 % 256 ^ f.2.1 * 256 ^ f.1) 0)

/-- A record with `new` laid over it at offset `o`. -/
def overlay (b : List Byte) (o : Nat) (new : List Byte) : List Byte :=
  subB b 0 o ++ new ++ b.drop (o + new.length)

/-! ## The address map (09 Table 09-1) -/

def dieLocalBase (d : Nat) : Nat := 0x100000000 + d * 0xC00000000
def granBase (g : Nat) : Nat := 0x40000000 + g * 0x800000
def granSize : Nat := 0x600000
/-- A stack: 24 GiB (09 R207). -/
def stackBytes : Nat := 0x600000000
/-- What one access moves: burst length 8 on the 32 data bits of a pseudo-channel (09 R207), the unit of SECDED (R222). -/
def hbmBurst : Nat := 32
/-- A die's HBM: its two stacks (09 R207). -/
def hbmSize : Nat := 2 * stackBytes
def ddrBase : Nat := 0x40000000000
def ddrBytes (id : Ident) : Nat := if id.ddr4T then 0x40000000000 else 0x10000000000

/-- What an address names. -/
inductive Loc where
  | reg  (blk : Blk) (idx off : Nat)
  | gran (g off : Nat)
  | hbm  (d a : Nat)
  | ddr  (j : Nat)
  | hole
  deriving DecidableEq, Repr

/-- The register block an address of the register ranges lies in, its index and the offset (09 Tables 09-2, 09-3). -/
def locReg (a : Nat) : Loc :=
  if a < 0x100000 then .reg .hub 0 a
  else if a < 0x200000 then .reg .clerk 0 (a - 0x100000)
  else if a < 0x300000 then .reg .reeve 0 (a - 0x200000)
  else if a < 0x400000 then .reg .repl 0 (a - 0x300000)
  else if a < 0x500000 then .reg .bell 0 (a - 0x400000)
  else if a < 0x600000 then .reg .mill 0 (a - 0x500000)
  else if a < 0x700000 then .reg .ddr 0 (a - 0x600000)
  else if a < 0x800000 then .reg .hlink 0 (a - 0x700000)
  else if a < 0x900000 then .reg .watch 0 (a - 0x800000)
  else if a < 0x1000000 then .reg .hobs 0 (a - 0x900000)
  else if a < 0x2000000 then .reg .carter ((a - 0x1000000) / 0x100000) ((a - 0x1000000) % 0x100000)
  else if a < 0x3000000 then .reg .steward 0 (a - 0x2000000)
  else if a < 0x10000000 then .hole
  else if a < 0x20000000 then .reg .imsic 0 (a - 0x10000000)
  else if a < 0x40000000 then
    let d := (a - 0x20000000) / 0x4000000
    let o := (a - 0x20000000) % 0x4000000
    if o < 0x10000 then .reg .die d o
    else if o < 0x20000 then .reg .link d (o - 0x10000)
    else if o < 0x40000 then .reg .hbm (2 * d + (o - 0x20000) / 0x10000) ((o - 0x20000) % 0x10000)
    else if o < 0x60000 then .reg .cellar (2 * d + (o - 0x40000) / 0x10000) ((o - 0x40000) % 0x10000)
    else if o < 0x70000 then .reg .therm d (o - 0x60000)
    else if o < 0x80000 then .reg .scrub d (o - 0x70000)
    else if o < 0x90000 then .reg .pwr d (o - 0x80000)
    else if o < 0x100000 then .reg .dobs d (o - 0x90000)
    else if o < 0x1A0000 then .reg .tile (10 * d + (o - 0x100000) / 0x10000) ((o - 0x100000) % 0x10000)
    else .hole
  else .hole

/-- The base address of a register block. -/
def blkBase (b : Blk) (i : Nat) : Nat :=
  let die (d : Nat) : Nat := 0x20000000 + d * 0x4000000
  match b with
  | .hub => 0
  | .clerk => 0x100000
  | .reeve => 0x200000
  | .repl => 0x300000
  | .bell => 0x400000
  | .mill => 0x500000
  | .ddr => 0x600000
  | .hlink => 0x700000
  | .watch => 0x800000
  | .hobs => 0x900000
  | .carter => 0x1000000 + i * 0x100000
  | .steward => 0x2000000
  | .imsic => 0x10000000
  | .die => die i
  | .link => die i + 0x10000
  | .hbm => die (i / 2) + 0x20000 + i % 2 * 0x10000
  | .cellar => die (i / 2) + 0x40000 + i % 2 * 0x10000
  | .therm => die i + 0x60000
  | .scrub => die i + 0x70000
  | .pwr => die i + 0x80000
  | .dobs => die i + 0x90000
  | .tile => die (i / 10) + 0x100000 + i % 10 * 0x10000

/-- R205: the die-local key of an alias address; every other address is its own key. -/
def keyOf (a : Nat) : Nat :=
  if 0x10000000000 ≤ a ∧ a < 0x16000000000 then
    let i := a - 0x10000000000
    dieLocalBase (fld i 11 3) + i / 0x4000 * 0x800 + fld i 0 11
  else a

/-- What a key address names, before any test of what is in service (09 R201). -/
def locate (id : Ident) (a : Nat) : Loc :=
  if a < 0x40000000 then locReg a
  else if a < 0x68000000 then .gran ((a - 0x40000000) / 0x800000) ((a - 0x40000000) % 0x800000)
  else if 0x100000000 ≤ a ∧ a < 0x6100000000 then
    .hbm ((a - 0x100000000) / 0xC00000000) ((a - 0x100000000) % 0xC00000000)
  else if ddrBase ≤ a ∧ a < ddrBase + ddrBytes id then .ddr (a - ddrBase)
  else .hole

/-! ## Physical tiles (11 R271) -/

/-- The second disabled physical tile of a die: none (0xF) on the 80-tile variants; on a 72-tile variant always one, the highest
other where its fuses name none. -/
def Ident.dis1 (id : Ident) (d : Nat) : Nat :=
  let m := id.die d
  if id.tiles80 then 0xF
  else if m.dis1 < 11 ∧ m.dis1 ≠ m.dis0 then m.dis1
  else if m.dis0 = 10 then 9 else 10

/-- Enabled physical tiles of a die, in ascending order: 11 less its one or two disabled ones. -/
def Ident.enabled (id : Ident) (d : Nat) : List Nat := (List.range 11).filter (fun p => p != (id.die d).dis0 && p != id.dis1 d)

/-- The physical tile of its die that carries a logical tile: 0 to 4 the five lowest enabled of P0 to P5, the rest in
ascending order. -/
def Ident.phys (id : Ident) (g : Nat) : Nat :=
  let low := ((id.enabled (g / 10)).filter (· ≤ 5)).take 5
  (low ++ (id.enabled (g / 10)).filter (fun p => !low.contains p)).getD (g % 10) 11

/-! ## State access -/

def Hw.tile (h : Hw) (g : Nat) : Tile := SMap.get Tile.init h.tiles g
def Hw.modTile (h : Hw) (g : Nat) (f : Tile → Tile) : Hw := { h with tiles := SMap.mod Tile.init h.tiles g f }
def Tile.stream (t : Tile) (s : Nat) : Stream := SMap.get Stream.init t.strm s
def Tile.modStream (t : Tile) (s : Nat) (f : Stream → Stream) : Tile :=
  { t with strm := SMap.mod Stream.init t.strm s f }
def Hw.stream (h : Hw) (g s : Nat) : Stream := (h.tile g).stream s
def Hw.modStream (h : Hw) (g s : Nat) (f : Stream → Stream) : Hw := h.modTile g (fun t => t.modStream s f)
def Tile.core (t : Tile) (c : Nat) : Core := SMap.get Core.init t.cores c
def Tile.modCore (t : Tile) (c : Nat) (f : Core → Core) : Tile := { t with cores := SMap.mod Core.init t.cores c f }
def Core.slot (c : Core) (s : Nat) : Slot := SMap.get Slot.init c.slots s
def Core.modSlot (c : Core) (s : Nat) (f : Slot → Slot) : Core := { c with slots := SMap.mod Slot.init c.slots s f }
def Tile.cart (t : Tile) (i : Nat) : Cart := SMap.get Cart.init t.carts i
def Tile.modCart (t : Tile) (i : Nat) (f : Cart → Cart) : Tile := { t with carts := SMap.mod Cart.init t.carts i f }
def Hw.ctx (h : Hw) (c : Nat) : Ctx := SMap.get Ctx.init h.ctxs c
def Hw.modCtx (h : Hw) (c : Nat) (f : Ctx → Ctx) : Hw := { h with ctxs := SMap.mod Ctx.init h.ctxs c f }
/-- A hart runs (20 R453). -/
def Hw.hartOn (h : Hw) (i : Nat) : Bool := (SMap.get none h.boot.harts i).isSome
def Hw.win (h : Hw) (c w : Nat) : Window := SMap.get Window.init h.wins (64 * c + w)
def Hw.res (h : Hw) (g : Nat) : Resid := SMap.get Resid.init h.resid g
def Hw.modRes (h : Hw) (g : Nat) (f : Resid → Resid) : Hw := { h with resid := SMap.mod Resid.init h.resid g f }
def Hw.workOf (h : Hw) (g : Nat) : Option Work := SMap.get none h.work g
def Hw.setWork (h : Hw) (g : Nat) (w : Option Work) : Hw := { h with work := SMap.set none h.work g w }
def Hw.modelOf (h : Hw) (m : Nat) : Option Model := SMap.get none h.models m
def Hw.chute (h : Hw) (c : Nat) : Chute := SMap.get Chute.init h.mill.chutes c
def Hw.modChute (h : Hw) (c : Nat) (f : Chute → Chute) : Hw :=
  { h with mill := { h.mill with chutes := SMap.mod Chute.init h.mill.chutes c f } }
def Hw.modMemS (h : Hw) (f : MemSide → MemSide) : Hw := { h with memS := f h.memS }
def Stack.init : Stack :=
  { st := .untrained, hppr := 0, repairs := [], sensors := [], temp := 0, level := 0, entering := 0 }
/-- A stack refreshes at the doubled rate: its level is 1 or above (09 R207, R218); HBM.STATUS.DREF shows it. -/
def Stack.doubledRefresh (s : Stack) : Bool := decide (1 ≤ s.level)
/-- Repairs of a kind in force. -/
def Stack.used (s : Stack) (kind : Nat) : Nat := s.repairs.countP (·.kind == kind)
/-- Training reapplies the repair table: hard repairs are permanent, the others as the table has them (R224). -/
def Stack.reapply (s : Stack) (table : List Repair) : Stack :=
  { s with repairs := s.repairs.filter (·.kind == 0) ++ table.filter (·.kind != 0) }
def Hw.stack (h : Hw) (k : Nat) : Stack := SMap.get Stack.init h.memS.stks k
def Hw.modStack (h : Hw) (k : Nat) (f : Stack → Stack) : Hw :=
  h.modMemS (fun m => { m with stks := SMap.mod Stack.init m.stks k f })
def Hw.slice (h : Hw) (k : Nat) : Slice := SMap.get Slice.init h.memS.slices k
def Hw.modSlice (h : Hw) (k : Nat) (f : Slice → Slice) : Hw :=
  h.modMemS (fun m => { m with slices := SMap.mod Slice.init m.slices k f })
def Hw.respond (h : Hw) (r : Resp) : Hw := { h with resp := r }

/-- The module is kept in reset: MRST_N is low, or boundary scan drives the pins. Only the watchman runs on (21 R472, 20 R458). -/
def Hw.inReset (h : Hw) : Bool := h.boot.mrst || h.boot.extest

/-- The accelerator side is held in reset: a fallow reset, fallow, or waking from it (01 R27, 17 R401), or the whole module is. -/
def Hw.accelHeld (h : Hw) : Bool := h.boot.fallow != 0 || h.inReset

/-- Draw a free value (Config.freeValue). -/
def Hw.draw (h : Hw) : Word × Hw := (Config.freeValue h.free, { h with free := h.free + 1 })

/-! ## Roll entries (10 R237 to R239, R247) -/

def Hw.rollLine (h : Hw) (key : Nat) : RollLine := SMap.get RollLine.init h.memS.roll (key / 64)
def Hw.setRoll (h : Hw) (key : Nat) (r : RollLine) : Hw :=
  h.modMemS (fun m => { m with roll := SMap.set RollLine.init m.roll (key / 64) r })
def RollLine.state (r : RollLine) (a : Nat) : Option LineSt := (r.hold.find? (·.1 == a)).map (·.2)

/-- An uncorrectable word that a caching agent's cache holds, of a line it holds, overlapping [key, key + n) (18 R408). -/
def Hw.cacheWord (h : Hw) (agent key n : Nat) : Option Nat :=
  (h.memS.cacheBad.find? (fun e => e.1 == agent && decide (e.2 < key + n ∧ key < e.2 + 8) &&
    ((h.rollLine e.2).state agent).isSome)).map (·.2)

/-- The caching agent whose cache holds the uncorrectable word at an address. -/
def Hw.cacheOf (h : Hw) (a : Nat) : Option Nat :=
  (h.memS.cacheBad.find? (fun e => e.2 == a && ((h.rollLine a).state e.1).isSome)).map (·.1)

/-- A word of a cache takes an uncorrectable error; words of it overlapping [a, a + n) are sound again. -/
def Hw.cacheHurt (h : Hw) (agent a : Nat) : Hw :=
  h.modMemS (fun m => { m with cacheBad := (agent, a) :: m.cacheBad.erase (agent, a) })
def Hw.cacheClean (h : Hw) (agent a n : Nat) : Hw :=
  h.modMemS (fun m => { m with cacheBad := m.cacheBad.filter (fun e => !(e.1 == agent && decide (a ≤ e.2 ∧ e.2 + 8 ≤ a + n))) })

/-- The store of a record about a cache (18 Table 18-3): 2 control core, 3 host, 4 clerk. -/
def cacheStore (agent : Nat) : Nat := if agent < 0x50 then 2 else if agent ≤ 0x60 then 3 else 4

/-! ## Registers as stored -/

/-- The register definition at an offset of a block, and the index within its run. -/
def regFind (b : Blk) (off : Nat) : List RegDef → Option (RegDef × Nat)
  | [] => none
  | r :: rs =>
    if r.blk = b ∧ r.off ≤ off ∧ (off - r.off) % (if r.stride = 0 then 8 else r.stride) < 8 ∧
        (off - r.off) / (if r.stride = 0 then 8 else r.stride) < r.n then
      some (r, (off - r.off) / (if r.stride = 0 then 8 else r.stride))
    else regFind b off rs

/-- The reset value of the register at an aligned address (00 R11). -/
def regDefault (pa : Nat) : Word :=
  match locReg pa with
  | .reg b _ off => match regFind b off allRegs with
    | some (r, _) => BitVec.ofNat 64 r.rst
    | none => 0
  | _ => 0

/-- Stored bits of a register. -/
def Hw.reg (h : Hw) (pa : Nat) : Nat := (SMap.get (regDefault pa) h.regs pa).toNat
def Hw.setReg (h : Hw) (pa v : Nat) : Hw :=
  { h with regs := SMap.set (regDefault pa) h.regs pa (BitVec.ofNat 64 v) }
def Hw.regF (h : Hw) (pa lo len : Nat) : Nat := fld (h.reg pa) lo len
/-- A number with bits [lo + len - 1 : lo] replaced. -/
def putF (w lo len v : Nat) : Nat := w - fld w lo len * 2 ^ lo + v % 2 ^ len * 2 ^ lo
def Hw.setRegF (h : Hw) (pa lo len v : Nat) : Hw := h.setReg pa (putF (h.reg pa) lo len v)
/-- A counting field that stops at its maximum. -/
def Hw.bump (h : Hw) (pa lo len n : Nat) : Hw := h.setRegF pa lo len (min (h.regF pa lo len + n) (2 ^ len - 1))

/-- The bits of a register that belong to fields of an update class. -/
def updMask (u : Upd) (fs : List Field) : Nat :=
  fs.foldl (fun a f => if f.upd = u then a + (2 ^ (f.hi + 1) - 2 ^ f.lo) else a) 0

/-- A boundary of the block at [lo, hi): the Boundary fields written there take effect (00 R15). -/
def Hw.applyShadow (h : Hw) (lo hi : Nat) : Hw :=
  h.shadow.foldl (fun h e => match e.2 with
    | some v =>
      if lo ≤ e.1 ∧ e.1 < hi then
        match locReg e.1 with
        | .reg b _ off => match regFind b off allRegs with
          | some (r, _) =>
            let m := updMask .boundary r.fields
            { h.setReg e.1 (h.reg e.1 - (h.reg e.1 &&& m) + (v.toNat &&& m)) with shadow := SMap.set none h.shadow e.1 none }
          | none => h
        | _ => h
      else h
    | none => h) h

def tileReg (g off : Nat) : Nat := blkBase .tile g + off

/-! ## What is in service -/

/-- HUB.DIE_STATE reads in service (11 Table 11-6). -/
def Hw.dieUp (h : Hw) (d : Nat) : Bool := SMap.get 0 h.dieSt d == 0

/-- A logical tile that exists: its die in service, and not the tile 9 that a 72-tile variant lacks (00 R2). -/
def Hw.present (id : Ident) (h : Hw) (g : Nat) : Bool :=
  decide (g < 80) && h.dieUp (g / 10) && (id.tiles80 || g % 10 != 9)

/-- R206: the alias exists while every die and stack is in service. -/
def Hw.aliasUp (h : Hw) : Bool :=
  (List.range 8).all h.dieUp && (List.range 16).all (fun k => (h.stack k).st != .failed)

/-- The stack of a die-local offset (R204). -/
def stackOf (d a : Nat) : Nat := 2 * d + fld a 11 1

/-- Whether an agent reaches memory at an address (09 R202, R206, R225; 06 R156). DESIGN CHOICE (notes/assumptions/35): a stack in
self-refresh, which the spec neither faults nor serves, answers as an online one. -/
def Hw.reachable (id : Ident) (h : Hw) (a : Nat) : Bool :=
  if 0x10000000000 ≤ a ∧ a < 0x16000000000 then
    h.aliasUp && (match locate id (keyOf a) with
      | .hbm d o => (h.stack (stackOf d o)).st != .offline
      | _ => false)
  else match locate id a with
    | .gran g off => decide (off < granSize) && h.present id g
    | .hbm d o => h.dieUp d && (h.stack (stackOf d o)).st != .offline
    | .ddr _ => true
    | _ => false

/-- The thermal hold of the region a tile lies in (02 R53, 09 R217, R218). -/
def Hw.held (h : Hw) (g : Nat) : Bool := decide (2 ≤ (h.stack (2 * (g / 10) + (if g % 10 < 5 then 0 else 1))).level)

/-! ## Counters, chronicle, error records -/

/-- Count `n` events in a field-die counter of set `set` (19 R427). -/
def Hw.count (h : Hw) (d set i n : Nat) : Hw :=
  if h.regF (blkBase .dobs d + 0x800) 0 1 = set then
    h.setReg (blkBase .dobs d + 8 * i) ((h.reg (blkBase .dobs d + 8 * i) + n) % 2 ^ 64)
  else h

/-- Count in a tile's block of its die's counters (19 Table 19-1). -/
def Hw.countTile (h : Hw) (g set k n : Nat) : Hw := h.count (g / 10) set (24 * (g % 10) + k) n

/-- Count in a hub counter (19 Table 19-2). -/
def Hw.countHub (h : Hw) (set i n : Nat) : Hw :=
  if h.regF (blkBase .hobs 0 + 0x1000) 0 1 = set then
    h.setReg (blkBase .hobs 0 + 8 * i) ((h.reg (blkBase .hobs 0 + 8 * i) + n) % 2 ^ 64)
  else h

/-- The class of a chronicle event type (19 Table 19-5). -/
def chronClass (type : Nat) : Nat :=
  if type ≤ 2 then 0 else if type ≤ 4 then 1 else if type = 5 then 2 else if type ≤ 7 then 3
  else if type ≤ 9 then 4 else if type = 0xA then 5 else if type ≤ 0xC then 6 else type - 6

/-- An event meets the chronicle: taken into its die's buffer, or lost when the buffer is full (19 R430, R431). -/
def Hw.event (h : Hw) (type die unit : Nat) (ctx : Option Nat) (data : List (Nat × Nat × Nat)) : Hw :=
  let c := h.chron
  if c.running && bitAt c.dies die && bitAt c.classes (chronClass type) then
    let buf := SMap.get [] c.bufs die
    if buf.length < (if die = 8 then 256 else 64) then
      { h with chron := { c with bufs := SMap.set [] c.bufs die (buf ++ [⟨h.bellNs, type, die, unit, ctx, data⟩]) } }
    else
      let n := SMap.get 0 c.lost die
      { h with chron := { c with
          lost := SMap.set 0 c.lost die (n + 1)
          firstLost := if n = 0 then SMap.set 0 c.firstLost die h.bellNs else c.firstLost
          total := c.total + 1 } }
  else h

/-- A record's context is faulted, tearing down or free (18 R419). -/
def Hw.ctxGone (h : Hw) (c : Option Nat) : Bool := match c with
  | some c => (h.ctx c).st != 1
  | none => false

/-- An error record as its unit sends it (18 Table 18-2): NESTED where its context is not active (R419). -/
def mkErr (h : Hw) (cls action source : Nat) (ctx addr : Option Nat) (detail : List (Nat × Nat × Nat)) : ErrRec :=
  { bellNs := h.bellNs, cls := cls, action := action, source := source, ctx := ctx, addr := addr, nested := h.ctxGone ctx,
    boot := h.boot.phase != 8, model := 0, detail := detail, faults := false, covers := [], marks := [], awaits := none, rep := 0 }

/-- Send a record to the collector. -/
def Hw.send (h : Hw) (r : ErrRec) : Hw := { h with errOut := h.errOut ++ [r] }
def Hw.err (h : Hw) (cls action source : Nat) (ctx addr : Option Nat) (detail : List (Nat × Nat × Nat)) : Hw :=
  h.send (mkErr h cls action source ctx addr detail)

/-- SOURCE of a record: die, unit kind, index (18 Table 18-4). -/
def srcOf (die unit idx : Nat) : Nat := die * 2 ^ 28 + unit * 2 ^ 20 + idx
def srcStream (g : Nat) : Nat := srcOf (g / 10) 1 (g % 10)
def srcHart (hart : Nat) : Nat := srcOf 8 0x11 hart

/-! ## Memory as stored -/

/-- What a byte nothing has written reads as (notes/assumptions/3). -/
def unwritten : Byte := 0

/-- The canonical form of memory. -/
def Mem.wf (m : Mem) : Bool := SMap.wf unwritten m.cells

def Mem.byte (m : Mem) (a : Nat) : Byte := SMap.get unwritten m.cells a
def Mem.put (m : Mem) (a : Nat) (b : Byte) : Mem := { m with cells := SMap.set unwritten m.cells a b }
def Mem.bytes (m : Mem) (a : Nat) : Nat → List Byte
  | 0 => []
  | n + 1 => m.byte a :: m.bytes (a + 1) n
def Mem.puts (m : Mem) (a : Nat) : List Byte → Mem
  | [] => m
  | b :: bs => (m.put a b).puts (a + 1) bs

/-- The first unit of `u` bytes overlapping [a, a + n) that holds an uncorrectable error. -/
def Mem.firstBad (m : Mem) (u a n : Nat) : Option Nat := m.bad.find? (fun b => decide (b < a + n ∧ a < b + u))

/-- Units of `u` bytes that lie wholly inside [a, a + n) are clean after a write of them. -/
def Mem.clean (m : Mem) (u a n : Nat) : Mem :=
  let kept (b : Nat) : Bool := !decide (a ≤ b ∧ b + u ≤ a + n)
  { m with bad := m.bad.filter kept, soft := m.soft.filter kept }

/-- Units of `u` bytes overlapping [a, a + n) that hold a correctable error. -/
def Mem.softIn (m : Mem) (u a n : Nat) : List Nat := m.soft.filter (fun b => decide (b < a + n ∧ a < b + u))

/-- Those units corrected and written back. -/
def Mem.correct (m : Mem) (u a n : Nat) : Mem := { m with soft := m.soft.filter (fun b => !decide (b < a + n ∧ a < b + u)) }

/-- The unit at `a` takes an error: 1 correctable, 2 uncorrectable; any other value leaves it. -/
def Mem.hurt (m : Mem) (a e : Nat) : Mem :=
  if e = 1 then { m with soft := a :: m.soft.erase a } else if e = 2 then { m with bad := a :: m.bad.erase a } else m

def Hw.modMem (h : Hw) (f : Mem → Mem) : Hw := h.modMemS (fun m => { m with mem := f m.mem })

/-! ## The granary (06) -/

/-- Read a tile's granary; an uncorrectable word's window address where one lies in the range (R144). -/
def Hw.granRead (h : Hw) (g off n : Nat) : Except Nat (List Byte) :=
  match h.memS.mem.firstBad 8 (granBase g + off) n with
  | some b => .error b
  | none => .ok (h.memS.mem.bytes (granBase g + off) n)

/-- Bank grants of an access to [off, off + n): one for each 32-byte beat it touches (R141, R143, 19 Table 19-1). -/
def Hw.granGrants (h : Hw) (g off n : Nat) : Hw :=
  if n = 0 then h else h.countTile g 0 10 ((off + n + 31) / 32 - off / 32)

/-- The correctable errors of [off, off + n) corrected, written back and counted (R144). -/
def Hw.granMend (h : Hw) (g off n : Nat) : Hw :=
  let k := (h.memS.mem.softIn 8 (granBase g + off) n).length
  if k = 0 then h
  else ((h.modMem (fun m => m.correct 8 (granBase g + off) n)).bump (tileReg g 0xCC0) 0 32 k).count (g / 10) 1 242 k

/-- What a read of [off, off + n) leaves: its bank grants counted, its correctable errors mended (R143, R144). -/
def Hw.granFix (h : Hw) (g off n : Nat) : Hw := (h.granMend g off n).granGrants g off n

/-- Clear one guarded tag that a write into [off, off + n) meets (R158). -/
def guardTag (g off n : Nat) (h : Hw) (i : Nat) : Hw :=
  let pa := tileReg g (0xC00 + 8 * i)
  let r := h.reg pa
  let b := fld r 36 12 * 2048
  let l := fld r 48 12 * 2048
  if bitAt r 63 && bitAt r 62 && decide (b < off + n ∧ off < b + l ∧ 0 < l) then
    (h.setRegF pa 63 1 0).bump (tileReg g 0xC80) 0 32 1
  else h

/-- Write a tile's granary: the words wholly written are clean, and guarded tags over the range clear (R158). -/
def Hw.granWrite (h : Hw) (g off : Nat) (b : List Byte) : Hw :=
  if b = [] then h
  else
    let h := h.modMem (fun m => (m.puts (granBase g + off) b).clean 8 (granBase g + off) b.length)
    (List.range 16).foldl (guardTag g off b.length) (h.granGrants g off b.length)

/-! ## Windows (16 R375, 15 R364) -/

/-- The clerk region: the top 256 MiB of the populated DDR5 range (15 R366). -/
def clerkSize : Nat := 0x10000000
def clerkBase (id : Ident) : Nat := ddrBase + ddrBytes id - clerkSize

/-- Whether a window covers the steward doorbell range. -/
def Window.isDoorbell (w : Window) : Bool := decide (0x2800000 ≤ w.base ∧ w.base < 0x3000000)

/-- Rights bits of R364. -/
def rRead : Nat := 0
def rWrite : Nat := 1
def rExec : Nat := 2

/-- A context's windows are usable: it is active (16 Table 16-1). -/
def Hw.ctxActive (h : Hw) (c : Nat) : Bool := (h.ctx c).st == 1

/-- A control core's access of n bytes at an offset of a window with a right: the physical address, or none (R374, R375). -/
def Hw.coreThrough (h : Hw) (c w right off n : Nat) : Option Nat :=
  let win := h.win c w
  if h.ctxActive c && win.valid && bitAt win.rights right && decide (off + n ≤ win.len) then some (win.base + off) else none

/-- The same for every other agent, to which a doorbell window is a window fault (R364). -/
def Hw.through (h : Hw) (c w right off n : Nat) : Option Nat :=
  if (h.win c w).isDoorbell then none else h.coreThrough c w right off n

end Sys2Proof.Machine
end

