-- ==== Sys2Proof/Machine/Rng.lean ====
section
/-!
DEFINITION. Rng.lean: the counter function of 05_vector_engine R134 and the two sources of random bits (R48, R133).
-/
namespace Sys2Proof.Machine

def mix (z : BitVec 64) : BitVec 64 :=
  let z := (z ^^^ (z >>> 32)) * 0x8F3A2C51D6E9B74B#64
  let z := (z ^^^ (z >>> 29)) * 0xE5B19C073A6DF2C5#64
  z ^^^ (z >>> 32)

/-- The counter function (R134). -/
def cf (k0 k1 k2 : BitVec 64) : BitVec 64 := mix (mix (mix (k0 ^^^ 0x6A5D39E10B7CF243#64) ^^^ k1) ^^^ k2)

/-- k1 of a vector command's draws (05 Table 05-9). -/
def vecKey1 (g stream lane : Nat) : BitVec 64 :=
  BitVec.ofNat 64 (1 * 2 ^ 60 + g * 2 ^ 48 + stream * 2 ^ 44 + lane * 2 ^ 32)

/-- k2 of a vector command's draws, its three terms ORed (Table 05-9): u is 0 for the operation draw, 1 for the rounding draw. -/
def vecKey2 (q e u : Nat) : BitVec 64 := BitVec.ofNat 64 (q * 2 ^ 40 ||| e / 256 * 2 ||| u)

/-- k1 of a drain's rounding draws. -/
def drainKey1 (g core entry : Nat) : BitVec 64 := BitVec.ofNat 64 (2 * 2 ^ 60 + g * 2 ^ 48 + core * 2 ^ 32 + entry)

end Sys2Proof.Machine
end

