-- ==== Sys2Proof/Machine/Contain.lean ====
section
/-!
DEFINITION. Contain.lean: retirement and completion of commands, token signals, stream faults, context faults and the
containment of uncorrectable errors (04 R83 to R91, 16 R386, R387, 18 R415 to R419).
-/
namespace Sys2Proof.Machine

/-! ## The context a tile belongs to (16 R479) -/

/-- The context a tile belongs to, if any; a swapping tile is judged after the swap. -/
def Hw.tileCtx (h : Hw) (g : Nat) : Option Nat := if (h.res g).st = 0 then none else some (h.res g).ctx

def Hw.swapping (h : Hw) (g : Nat) : Bool := (h.res g).st == 2

/-! ## Sync words (04 Table 04-1) -/

def syWTok (w : Nat) : Nat := fld w 0 6
def syWen (w : Nat) : Bool := bitAt w 6
def syWKeep (w : Nat) : Bool := bitAt w 7
def syWCnt (w : Nat) : Nat := max 1 (fld w 8 8)
def sySTok (w : Nat) : Nat := fld w 16 6
def sySen (w : Nat) : Bool := bitAt w 22
def syRemote (w : Nat) : Bool := bitAt w 23
def sySCnt (w : Nat) : Nat := max 1 (fld w 24 8)
def sySGT (w : Nat) : Nat := fld w 32 7

def Tile.token (t : Tile) (i : Nat) : Nat := SMap.get 0 t.tok i
def Tile.setToken (t : Tile) (i v : Nat) : Tile := { t with tok := SMap.set 0 t.tok i v }

/-! ## Stopping a tile (R83) -/

/-- The retired count moved over the commands that have ended (R87). -/
def advance : Nat → Nat → List Nat → Nat × List Nat
  | 0, r, e => (r, e)
  | f + 1, r, e => if e.contains r then advance f (r + 1) (e.erase r) else (r, e)

/-- A command ends: retirement advances over every command that has ended. -/
def Stream.endSeq (x : Stream) (seq : Nat) : Stream :=
  let e := seq :: x.ended
  let r := advance (e.length + 1) x.retired e
  { x with live := x.live.filter (·.seq != seq), retired := r.1, ended := r.2 }

/-- A stream that has stopped issuing becomes idle when its last dispatched command has ended (R83). -/
def Stream.quiesce (x : Stream) : Stream := if x.st = .stopping ∧ x.live = [] then { x with st := .idle } else x

/-- The destination register a queued command holds pending (R110). -/
def QOp.rd : QOp → Nat
  | .vec _ _ _ _ _ rd => rd
  | .update _ _ _ rd => rd
  | _ => 0

/-- A stream stops issuing: its queue is discarded, each discarded command ending faulted and releasing its summary
register (R83, R139). -/
def Stream.halt (x : Stream) : Stream :=
  let y := x.queue.foldl (fun z c => { z.endSeq c.seq with pend := z.pend.erase c.op.rd }) x
  let y := { y with queue := [], twait := none, tend := false, startReq := false, stall := [], full := false }
  if y.st = .running then (({ y with st := .stopping } : Stream)).quiesce else y

def Tile.haltAll (t : Tile) : Tile := ((t.modStream 0 Stream.halt).modStream 1 Stream.halt).modStream 2 Stream.halt

/-- Some stream of the tile is faulted. -/
def Tile.faulted (t : Tile) : Bool := (List.range 3).any (fun s => (t.stream s).st == .faulted)

/-- Once a discarded tile's dispatched commands have all ended, a faulted stream reads idle (R81). -/
def Tile.release (t : Tile) : Tile :=
  if t.discard && (List.range 3).all (fun s => (t.stream s).live.isEmpty) then
    let f (x : Stream) : Stream := if x.st = .faulted then { x with st := .idle } else x
    { ((t.modStream 0 f).modStream 1 f).modStream 2 f with discard := false }
  else t

/-! ## Work and context faults (16 R386, R387) -/

/-- A completion entry of work (15 R370). -/
def Work.completion (w : Work) (status now : Nat) : Compl :=
  { prod := w.queue
    bytes := mkRec 32 [(0, 8, w.wrid.toNat), (8, 1, status),
      (9, 1, if w.deadline ≠ 0 ∧ w.deadline < now then 1 else 0), (12, 4, w.queue),
      (16, 4, min (w.energy / 1000) 0xFFFFFFFF), (24, 8, now)] }

/-- The work on a tile ends with a status: its completion is produced (with OK only under SIGNAL), and its entry stays
resident (R386). Work that ends with OK after its model has been marked unusable completes with MODEL_UNUSABLE, and the state is
discarded (18 R416). -/
def Hw.endWork (h : Hw) (g status : Nat) : Hw :=
  match h.workOf g with
  | none => h
  | some w =>
    let lost := status == 0 && (match h.modelOf w.model with
      | some m => m.unusable
      | none => false)
    let status := if lost then 0x4D else status
    let h := if status ≠ 0 ∨ w.signal then { h with compl := h.compl ++ [w.completion status h.bellNs] } else h
    let h := h.setWork g none
    let h := h.event 0x07 8 g (some w.ctx) [(16, 4, w.model), (20, 1, w.entry), (21, 1, status), (24, 8, w.wrid.toNat)]
    h.modRes g (fun r => if r.st = 3 then (if lost then Resid.init else { r with st := 1 }) else r)

/-- A context faults (R387): an active context moves to faulted, and its teardown is due. -/
def Hw.faultCtx (h : Hw) (c cls : Nat) : Hw :=
  h.modCtx c (fun x => if x.st = 1 then { x with st := 2, fcls := cls, fseq := 0, fwait := true, tdCause := some 0 } else x)

/-- ACTION and NESTED of a record that a context's unit raises (18 R415, R419): bit 1 and the context's fault when the
context is active, NESTED when it is not. -/
def Hw.blame (h : Hw) (c : Option Nat) (r : ErrRec) : ErrRec :=
  match c with
  | none => r
  | some c => if (h.ctx c).st = 1 then { r with action := r.action ||| 2, faults := true } else { r with nested := true }

/-- A stream-fault record (18 Table 18-3). -/
def Hw.streamRec (h : Hw) (g s cause detail pc : Nat) : ErrRec :=
  mkErr h 0x03 0 (srcStream g) (h.tileCtx g) none [(40, 1, s), (41, 1, cause), (42, 1, detail), (48, 8, pc)]

/-- A stream faults (R83). `r` is its error record: stream-fault, or the access-fault or uncorrectable record of what it
met. The first fault of the tile stands; a later one changes no stream and writes its stream-fault record, after the record of what
it met (notes/assumptions/11). -/
def Hw.faultWith (h : Hw) (g s cause detail pc : Nat) (r : ErrRec) : Hw :=
  let c := h.tileCtx g
  let h := h.send (h.blame c r)
  if (h.tile g).faulted then if r.cls = 0x03 then h else h.send (h.blame c (h.streamRec g s cause detail pc))
  else
    let h := h.modTile g (fun t =>
      t.haltAll.modStream s (fun x => { x with st := .faulted, cause := cause, detail := detail, faultPc := pc }))
    let h := h.event 0x02 (g / 10) (g % 10) c [(16, 1, s), (17, 1, cause), (24, 8, pc)]
    match c with
    | none => h
    | some c => (h.endWork g 0x4C).faultCtx c r.cls

/-- A stream faults with its own stream-fault record. -/
def Hw.streamFault (h : Hw) (g s cause detail pc : Nat) : Hw :=
  h.faultWith g s cause detail pc (h.streamRec g s cause detail pc)

/-- A stream's access fault (R375): cause 0x04 for a fetch, 0x05 otherwise; kind 0 fetch, 1 load, 2 store; `addr` the keyed physical
address, where the access has one (18 Table 18-2). -/
def Hw.accessFault (h : Hw) (g s kind pc : Nat) (addr : Option Nat) : Hw :=
  h.faultWith g s (if kind = 0 then 0x04 else 0x05) 0 pc
    (mkErr h 0x02 1 (srcStream g) (h.tileCtx g) addr [(40, 1, kind)])

/-! ## Uncorrectable errors (18 R415 to R417) -/

/-- The model whose image in the save area covers an address (R416). -/
def Hw.imageModel (h : Hw) (a : Nat) : Option Nat :=
  (h.models.find? (fun e => match e.2 with
    | some m =>
      let w := h.win m.ctx m.saveWin
      w.valid && decide (keyOf (w.base + m.saveOff) ≤ a ∧ a < keyOf (w.base + m.saveOff) + m.sheaves * 2048)
    | none => false)).map (·.1)

/-- The model a granary address belongs to by a valid KIND 0 tag over it (R416). -/
def Hw.tagModel (h : Hw) (a : Nat) : Option Nat :=
  match (if 0x40000000 ≤ a ∧ a < 0x68000000 then some ((a - 0x40000000) / 0x800000) else none) with
  | none => none
  | some g =>
    let off := (a - 0x40000000) % 0x800000
    ((List.range 16).find? (fun i =>
      let r := h.reg (tileReg g (0xC00 + 8 * i))
      bitAt r 63 && fld r 32 4 == 0 && decide (fld r 36 12 * 2048 ≤ off ∧ off < (fld r 36 12 + fld r 48 12) * 2048))).map
      (fun i => h.regF (tileReg g (0xC00 + 8 * i)) 0 32)

/-- Mark a model unusable (R416): tiles that hold its entries resident, and run no work of it, discard that state. -/
def Hw.markModel (h : Hw) (m : Nat) : Hw :=
  match h.modelOf m with
  | none => h
  | some x =>
    let h := { h with models := SMap.set none h.models m (some { x with unusable := true, markSeq := 0, markWait := true }) }
    { h with resid := h.resid.filterMap (fun e =>
        if e.2.st = 1 ∧ e.2.model = m ∧ !(h.tile e.1).faulted then none
        else some e) }

/-- R417: the active contexts whose valid windows cover a line. -/
def Hw.coverCtxs (h : Hw) (a : Nat) : List Nat :=
  (h.wins.filterMap (fun e =>
    if e.2.valid && decide (keyOf e.2.base ≤ a / 64 * 64 + 63 ∧ a / 64 * 64 < keyOf e.2.base + e.2.len) && h.ctxActive (e.1 / 64) then
      some (e.1 / 64) else none)).eraseDups

/-- They are torn down. -/
def Hw.faultCover (h : Hw) (a cls : Nat) : Hw := (h.coverCtxs a).foldl (fun h c => h.faultCtx c cls) h

/-- An uncorrectable error in a dirty copy leaves memory older than what was written (R417): a cellar line, or a line that a cache
holds in M. -/
def Hw.losesDirty (h : Hw) (cls a : Nat) : Bool :=
  cls == 0x06 || (cls == 0x05 && (match h.cacheOf a with
    | some ag => (h.rollLine a).state ag == some .mod
    | none => false))

/-- An uncorrectable error of a record class met by a reader of context `c` (R415, R416, R417); `shard` is the model whose
running work read a plane, tally or stamp of a shard. The record as sent, and the state with its containment. -/
def Hw.uncorrectable (h : Hw) (cls src : Nat) (c : Option Nat) (a : Nat) (detail : List (Nat × Nat × Nat))
    (shard : Option Nat) : ErrRec × Hw :=
  let m := match h.imageModel a with
    | some m => some m
    | none => match h.tagModel a with
      | some m => some m
      | none => shard
  let r := mkErr h cls 1 src c (some a) (match (if cls = 0x05 then h.cacheOf a else none) with
    | some ag => [(40, 1, cacheStore ag)]
    | none => detail)
  let r := match m with
    | some m => { r with action := r.action ||| 4, model := m, marks := [m] }
    | none => r
  let r := if h.losesDirty cls a then { r with action := r.action ||| 8, covers := h.coverCtxs a } else r
  (r, (match m with | some m => h.markModel m | none => h))

/-- The containment that a record of lost data calls for beyond its reader (R417). -/
def Hw.coverFor (h : Hw) (r : ErrRec) (a : Nat) : Hw := if bitAt r.action 3 then h.faultCover a r.cls else h

/-- A unit that works for context `c` meets an uncorrectable error: its record, and its containment (R415, R417). -/
def Hw.unitBad (h : Hw) (cls src : Nat) (c : Option Nat) (a : Nat) (detail : List (Nat × Nat × Nat)) (shard : Option Nat) : Hw :=
  let (r, h) := h.uncorrectable cls src c a detail shard
  let h := h.send (h.blame c r)
  (match c with
    | some c => h.faultCtx c cls
    | none => h).coverFor r a

/-- A stream meets an uncorrectable error (cause 0x0A, R415). -/
def Hw.streamUncorr (h : Hw) (g s pc cls src a : Nat) (detail : List (Nat × Nat × Nat)) (shard : Option Nat) : Hw :=
  let (r, h) := h.uncorrectable cls src (h.tileCtx g) a detail shard
  (h.faultWith g s 0x0A 0 pc r).coverFor r a

/-! ## Ending and completing commands (R87) -/

/-- A command of a stream ends, faulted or complete: retirement, the halt's quiesce, a discarded tile's release. -/
def Hw.endCmd (h : Hw) (g s seq : Nat) : Hw :=
  let old := (h.stream g s).retired
  let h := h.modTile g (fun t => (t.modStream s (fun x => ((x.endSeq seq).quiesce))).release)
  let h := h.modStream g s (fun x => { x with progress := h.localNs })
  h.countTile g 0 20 ((h.stream g s).retired - old)

/-- A signal added to a token of tile g by stream s of tile `src` (R89, R91). -/
def Hw.signal (h : Hw) (src s pc g tok cnt : Nat) : Hw :=
  let v := (h.tile g).token tok + cnt
  let h := (h.modTile g (fun t => t.setToken tok (min v 65535))).countTile src 1 19 1
  if 65535 < v then h.streamFault src s 0x07 0 pc else h

/-- Fire a completing command's token signal (R87, R91): a remote one goes onto the mesh. -/
def Hw.fire (h : Hw) (g s : Nat) (c : QCmd) : Hw :=
  if sySen c.sync then
    if syRemote c.sync then
      { h with rsig := h.rsig ++ [⟨g, s, c.pc, (h.res g).ctx, sySGT c.sync, sySTok c.sync, sySCnt c.sync⟩] }
    else h.signal g s c.pc g (sySTok c.sync) (sySCnt c.sync)
  else h

/-- Write a stream register; x0 takes nothing (R80). -/
def Stream.setX (x : Stream) (r : Nat) (v : Word) : Stream :=
  if r % 32 = 0 then x else { x with x := SMap.set 0 x.x (r % 32) v }
def Stream.getX (x : Stream) (r : Nat) : Word := if r % 32 = 0 then 0 else SMap.get 0 x.x (r % 32)

/-- DATA of a command's dispatch and completion events (19 Table 19-5): stream, funct3, funct2, custom-0 or custom-1, and
the ISSUED count of the command. -/
def QCmd.eventData (c : QCmd) (s : Nat) : List (Nat × Nat × Nat) :=
  let k : Nat × Nat × Nat := match c.op with
    | .mma _ _ _ => (0, 0, 0)
    | .mdrain _ _ _ => (1, 0, 0)
    | .cart _ _ => (2, 0, 0)
    | .talloc _ => (3, 0, 0)
    | .gfence => (3, 1, 0)
    | .tstep _ => (3, 2, 0)
    | .tnop => (3, 3, 0)
    | .vec f3 f2 _ _ _ _ => (f3, f2, 1)
    | .update _ _ _ _ => (6, 0, 1)
  [(16, 1, s), (17, 1, k.1), (18, 1, k.2.1), (19, 1, k.2.2), (24, 8, c.seq + 1)]

/-- A command completes: its summary is written and its register released (R110), its signal fires, it ends. -/
def Hw.complete (h : Hw) (g s : Nat) (c : QCmd) (sum : Option Word) : Hw :=
  let h := h.modStream g s (fun x =>
    let x := match sum with
      | some v => x.setX c.op.rd v
      | none => x
    { x with pend := x.pend.erase c.op.rd })
  let h := h.event 0x04 (g / 10) (g % 10) (h.tileCtx g) (c.eventData s)
  (h.endCmd g s c.seq).fire g s c

/-- The first command that ended faulted (R87). -/
def Stream.fails (x : Stream) (seq : Nat) : Stream := { x with failed := some (min seq (x.failed.getD seq)) }

/-- A dispatched command ends faulted: no signal, no summary; its register is released (R87). -/
def Hw.endFaulted (h : Hw) (g s seq : Nat) : Hw :=
  let rd := match (h.stream g s).live.find? (·.seq == seq) with
    | some c => c.op.rd
    | none => 0
  (h.modStream g s (fun x => ({ x with pend := x.pend.erase rd } : Stream).fails seq)).endCmd g s seq

end Sys2Proof.Machine
end

