-- ==== Sys2Proof/Machine/Home.lean ====
section
/-!
DEFINITION. Home.lean: the homes of memory: cellar slices and the HBM behind them, and the DDR5 controllers
(09 R204, R209 to R215, R222, R223, R229).
-/
namespace Sys2Proof.Machine

/-! ## Placement (09 R204) -/

/-- The pseudo-channel of a die-local offset. -/
def pchanOf (a : Nat) : Nat := fld a 12 5 ^^^ fld a 17 5

/-- The sheaf's position within its pseudo-channel's 768 MiB. -/
def pchanSheaf (a : Nat) : Nat := a / 2 ^ 17

/-- A line's number within its stack, of a die-local offset. -/
def lineInStack (a : Nat) : Nat := (a / 4096 * 2048 + fld a 0 11) / 64

/-- The die-local key of a line of a stack. -/
def lineKey (k ln : Nat) : Nat :=
  let w := ln * 64
  dieLocalBase (k / 2) + (w / 2048 * 4096 + k % 2 * 2048 + w % 2048)

/-- The DDR5 channel of byte j of the tier (R229). -/
def ddrChan (j : Nat) : Nat := fld j 11 4 ^^^ fld j 15 4

/-! ## The DRAM of a stack (R222, R223) -/

/-- Corrected errors of stack k. -/
def Hw.hbmFixed (h : Hw) (k n : Nat) : Hw :=
  if n = 0 then h else (h.bump (blkBase .hbm k + 8) 0 32 n).count (k / 2) 1 242 n

/-- Write part of one line of stack k to its DRAM. -/
def Hw.dramWrite (h : Hw) (k ln o : Nat) (b : List Byte) : Hw :=
  (h.count (k / 2) 0 (249 + 2 * (k % 2)) b.length).modMem
    (fun m => (m.puts (lineKey k ln + o) b).clean 32 (lineKey k ln + o) b.length)

/-- Write a line's data to DRAM. -/
def Hw.toDram (h : Hw) (k ln : Nat) (b : List Byte) : Hw := h.dramWrite k ln 0 b

/-! ## The cellar (R209 to R215) -/

/-- Lines of a slice in one set (16,384 sets, indexed by line number within the stack: notes/assumptions/7). -/
def Slice.inSet (s : Slice) (ln : Nat) : List (Nat × CellarLine) :=
  s.lines.filterMap (fun e => match e.2 with
    | some l => if e.1 % 16384 = ln % 16384 then some (e.1, l) else none
    | none => none)

/-- The least recently used of a list of lines. -/
def lruOf : List (Nat × CellarLine) → Option (Nat × CellarLine)
  | [] => none
  | e :: es => match lruOf es with
    | none => some e
    | some f => if f.2.stamp < e.2.stamp then some f else some e

def Hw.setLine (h : Hw) (k ln : Nat) (l : Option CellarLine) : Hw :=
  h.modSlice k (fun s => { s with lines := SMap.set none s.lines ln l, flushing := match l with
    | some c => if c.dirty then s.flushing else s.flushing.filter (· != ln)
    | none => s.flushing.filter (· != ln) })

/-- The home of a line loses its bytes `b`: the caching agents that hold the line keep theirs (10 R238). -/
def Hw.keepCopies (h : Hw) (line : Nat) (b : List Byte) : Hw :=
  let r := h.rollLine line
  let new := r.hold.filter (fun e => e.2 != .mod && !r.own.any (·.1 == e.1))
  if new = [] then h else h.setRoll line { r with own := r.own ++ new.map (fun e => (e.1, b)) }

/-- A dirty cellar line with an uncorrectable error is dropped and counted (R215). -/
def Hw.dropBad (h : Hw) (k ln : Nat) (b : List Byte) : Hw :=
  ((h.keepCopies (lineKey k ln) b).setLine k ln none).bump (blkBase .cellar k + 0x20) 32 16 1

/-- A dirty line with an uncorrectable error is dropped unwritten, counted and recorded, and every context whose windows cover it
is torn down (R215, 18 R417). -/
def Hw.cellarLost (h : Hw) (k ln : Nat) : Hw :=
  (h.dropBad k ln (match SMap.get none (h.slice k).lines ln with
    | some l => l.data
    | none => [])).unitBad 0x06 (srcOf (k / 2) 6 (k % 2)) none (lineKey k ln) [] none

/-- Drop a line, writing it back when dirty. -/
def Hw.evict (h : Hw) (k ln : Nat) : Hw :=
  match SMap.get none (h.slice k).lines ln with
  | none => h
  | some l =>
    if l.dirty && l.bad then h.cellarLost k ln
    else (if l.dirty then h.toDram k ln l.data else h).setLine k ln none

/-- Make room for a line of class keep or low (R209): none where a stream allocation finds neither an invalid way nor a
low line. -/
def Hw.makeRoom (h : Hw) (k ln : Nat) (keep : Bool) : Option Hw :=
  let ws := (h.slice k).inSet ln
  let kw := max 1 (h.regF (blkBase .cellar k) 0 4)
  let keeps := ws.filter (·.2.keep)
  let evictLru (l : List (Nat × CellarLine)) : Option Hw := (lruOf l).map (fun e => h.evict k e.1)
  if keep && decide (kw ≤ keeps.length) then evictLru keeps
  else if ws.length < 16 then some h
  else match evictLru (ws.filter (fun e => !e.2.keep)) with
    | some h' => some h'
    | none => if keep then evictLru keeps else none

/-- Allocate a line, as the most recently used of its class. -/
def Hw.alloc (h : Hw) (k ln : Nat) (keep dirty : Bool) (b : List Byte) : Hw :=
  match h.makeRoom k ln keep with
  | none => if dirty then h.toDram k ln b else h
  | some h =>
    let c := (h.slice k).clock + 1
    (h.modSlice k (fun s => { s with clock := c })).setLine k ln
      (some { keep := keep, dirty := dirty, stamp := c, data := b, bad := false, soft := false })

/-- What a memory read gives: bytes, an access fault, or an uncorrectable error of a record class at an address. -/
inductive RdRes where
  | ok (b : List Byte)
  | fault (a : Nat)
  | bad (cls a : Nat)
  deriving DecidableEq, Repr

/-- Hints of 06 Table 06-2: bits [1:0] 0 stream, 1 keep, 2 last-use, 3 as 0; bit 2 SALLOC. -/
def hintKeep (hint : Nat) : Bool := hint % 4 == 1
def hintLast (hint : Nat) : Bool := hint % 4 == 2
def hintAlloc (hint : Nat) : Bool := hintKeep hint || (hint % 4 != 2 && bitAt hint 2)

/-- Hints that a slice's CELLAR.HINT_DEFAULT supplies for its agent (R212). -/
def hintClerk : Nat := 8
def hintOut : Nat := 9
def hintIn : Nat := 10
def hintMill : Nat := 11

/-- The hint in force at a slice. -/
def Hw.hintAt (h : Hw) (k hint : Nat) : Nat :=
  if hint < 8 then hint
  else h.regF (blkBase .cellar k + 8) (if hint = 8 then 16 else if hint = 9 then 12 else if hint = 10 then 8 else 4) 3

/-- A hit or a miss at slice k of die d, in its registers and the die's counters (R233, 19 Table 19-1). -/
def Hw.cellarHit (h : Hw) (d k : Nat) : Hw := ((h.bump (blkBase .cellar k + 0x10) 0 64 1).count d 0 252 1).count d 1 240 1
def Hw.cellarMiss (h : Hw) (d k : Nat) : Hw := ((h.bump (blkBase .cellar k + 0x18) 0 64 1).count d 0 253 1).count d 1 241 1

/-- Read part of one line of stack k from its DRAM: correctable errors are corrected, counted and written back, and the line is
installed where the hint says so (R210, R215, R222). -/
def Hw.dramRead (h : Hw) (hint d k ln o n : Nat) : RdRes × Hw :=
  let m := h.memS.mem
  let h := h.cellarMiss d k
  let whole := hintAlloc hint
  let a := if whole then lineKey k ln else lineKey k ln + o
  let n' := if whole then 64 else n
  match m.firstBad 32 a n' with
  | some b => (.bad 0x07 b, h.bump (blkBase .hbm k + 8) 32 16 1)
  | none =>
    let b := m.bytes (lineKey k ln + o) n
    let h := h.count d 0 (248 + 2 * (k % 2)) n'
    let h := (h.hbmFixed k (m.softIn 32 a n').length).modMem (fun m => m.correct 32 a n')
    (.ok b, if whole then h.alloc k ln (hintKeep hint) false (m.bytes (lineKey k ln) 64) else h)

/-- A correctable error in a cellar line: corrected, written back into the slice and counted (R215). -/
def Hw.cellarFix (h : Hw) (k ln : Nat) (l : CellarLine) : Hw :=
  if l.soft then ((h.setLine k ln (some { l with soft := false })).bump (blkBase .cellar k + 0x20) 0 32 1).count (k / 2) 1 242 1
  else h

/-- Read part of one line at its slice (R210, R215, R223). -/
def Hw.cellarRead (h : Hw) (hint d a n : Nat) : RdRes × Hw :=
  let k := stackOf d a
  let hint := h.hintAt k hint
  let ln := lineInStack a
  let o := a % 64
  let cb := blkBase .cellar k
  match SMap.get none (h.slice k).lines ln with
  | none => h.dramRead hint d k ln o n
  | some l =>
    if l.bad then
      if l.dirty then (.bad 0x06 (lineKey k ln), h.dropBad k ln l.data)
      else ((h.setLine k ln none).bump (cb + 0x20) 0 32 1).dramRead hint d k ln o n
    else
      let h := (h.cellarHit d k).cellarFix k ln l
      let l := { l with soft := false }
      let b := subB l.data o n
      if hintKeep hint then
        let c := (h.slice k).clock + 1
        (.ok b, (h.modSlice k (fun s => { s with clock := c })).setLine k ln (some { l with keep := true, stamp := c }))
      else if hintLast hint then (.ok b, h.evict k ln)
      else (.ok b, h)

/-- A write of part of one line that the slice does not hold, or no longer holds. -/
def Hw.cellarPast (h : Hw) (hint : Nat) (thru : Bool) (k ln o : Nat) (b : List Byte) : Hw :=
  if !thru && b.length = 64 && hintAlloc hint then h.alloc k ln (hintKeep hint) true b else h.dramWrite k ln o b

/-- A write of part of one line that the slice holds as `l`: written through, the whole line where it was dirty, or in place. -/
def Hw.cellarIn (h : Hw) (hint : Nat) (thru : Bool) (k ln o : Nat) (l : CellarLine) (b : List Byte) : Hw :=
  let new := overlay l.data o b
  let l' : CellarLine := { l with data := new, dirty := !thru, bad := l.bad && b.length != 64, soft := l.soft && b.length != 64 }
  if thru then (if l.dirty then h.toDram k ln new else h.dramWrite k ln o b).setLine k ln (some l')
  else if hintLast hint then (h.setLine k ln (some l')).evict k ln
  else h.setLine k ln (some l')

/-- Write part of one line at its slice (R211): `thru` is the update's write-through. A partial write that meets an uncorrectable
error in a clean line drops it; in a dirty line a write-through loses it, and any other write leaves it to its next reader (R215). -/
def Hw.cellarWrite (h : Hw) (hint : Nat) (thru : Bool) (d a : Nat) (b : List Byte) : Hw :=
  let k := stackOf d a
  let hint := h.hintAt k hint
  let ln := lineInStack a
  let o := a % 64
  match SMap.get none (h.slice k).lines ln with
  | none => (h.cellarMiss d k).cellarPast hint thru k ln o b
  | some l =>
    let h := h.cellarHit d k
    if l.bad && b.length != 64 && !l.dirty then
      ((h.setLine k ln none).bump (blkBase .cellar k + 0x20) 0 32 1).dramWrite k ln o b
    else if l.bad && b.length != 64 && thru then (h.cellarLost k ln).dramWrite k ln o b
    else h.cellarIn hint thru k ln o l b

/-! ## Homes (10 R243, R252) -/

/-- Read n bytes of DDR5 at key `a`, byte j of the tier, within one line (R229). -/
def Hw.ddrRead (h : Hw) (j a n : Nat) : RdRes × Hw :=
  let c := ddrChan j
  let ecc := blkBase .ddr 0 + 0x100 + 8 * c
  let h := h.countHub 0 (128 + c) n
  match h.memS.mem.firstBad 64 a n with
  | some b => (.bad 0x08 b, h.bump ecc 32 16 1)
  | none =>
    let k := (h.memS.mem.softIn 64 a n).length
    (.ok (h.memS.mem.bytes a n), if k = 0 then h else (h.bump ecc 0 32 k).modMem (fun m => m.correct 64 a n))

/-- A request of n bytes for memory at a key meets its stack: whole sheaves and shorter ones are counted apart (19 Table 19-1). -/
def Hw.stackReq (id : Ident) (h : Hw) (a n : Nat) : Hw :=
  match locate id a with
  | .hbm d o => h.count d 1 ((if n = 2048 then 245 else 243) + fld o 11 1) 1
  | _ => h

/-- Read part of one line at its home: the cellar for HBM, the memory controller for DDR5. -/
def Hw.homeRead (id : Ident) (h : Hw) (hint a n : Nat) : RdRes × Hw :=
  match locate id a with
  | .hbm d o => h.cellarRead hint d o n
  | .ddr j => h.ddrRead j a n
  | _ => (.fault a, h)

/-- Write part of one line at its home. -/
def Hw.homeWrite (id : Ident) (h : Hw) (hint : Nat) (thru : Bool) (a : Nat) (b : List Byte) : Hw :=
  match locate id a with
  | .hbm d o => h.cellarWrite hint thru d o b
  | .ddr j => (h.countHub 0 (144 + ddrChan j) b.length).modMem (fun m => (m.puts a b).clean 64 a b.length)
  | _ => h

/-- Error detection finds an error in a line where its home holds it (1 correctable, 2 uncorrectable): the cellar's copy where
there is one, else the DRAM burst at the address. -/
def Hw.upset (id : Ident) (h : Hw) (a e : Nat) : Hw :=
  match locate id a with
  | .hbm d o =>
    let k := stackOf d o
    let ln := lineInStack o
    match SMap.get none (h.slice k).lines ln with
    | some l => if e = 1 then h.setLine k ln (some { l with soft := true })
      else if e = 2 then h.setLine k ln (some { l with bad := true }) else h
    | none => h.modMem (fun m => m.hurt (a / 32 * 32) e)
  | .ddr _ => h.modMem (fun m => m.hurt (a / 64 * 64) e)
  | _ => h

/-- What a line holds at its home, without reading it as an access does. -/
def Hw.peekHome (id : Ident) (h : Hw) (line : Nat) : List Byte :=
  match locate id line with
  | .hbm d o => match SMap.get none (h.slice (stackOf d o)).lines (lineInStack o) with
    | some l => l.data
    | none => h.memS.mem.bytes line 64
  | _ => h.memS.mem.bytes line 64

end Sys2Proof.Machine
end

