-- ==== Sys2Proof/Machine/Reeve.lean ====
section
/-!
DEFINITION. Reeve.lean: the reeve (10): line states, transactions, snoops and their release, the roll; and the accesses of
non-caching agents, each a whole transaction (notes/assumptions/15).
-/
namespace Sys2Proof.Machine

/-- The slice of a key (R241). -/
def sliceOf (key : Nat) : Nat := fld key 11 4 ^^^ fld key 15 4

/-- The first byte of a key's line. -/
def lineAt (key : Nat) : Nat := key / 64 * 64

/-- How many of `n` bytes from `a` lie in `a`'s line. -/
def inLine (a n : Nat) : Nat := min n (64 - a % 64)

/-- Lines covered by n bytes from a: (address, bytes) in ascending order. `fuel` bounds the count. -/
def lineCuts : Nat → Nat → Nat → List (Nat × Nat)
  | 0, _, _ => []
  | fuel + 1, a, n => if n = 0 then [] else (a, inLine a n) :: lineCuts fuel (a + inLine a n) (n - inLine a n)

/-- Likewise by 8-byte words. -/
def wordCuts : Nat → Nat → Nat → List (Nat × Nat)
  | 0, _, _ => []
  | fuel + 1, a, n => if n = 0 then [] else (a, min n (8 - a % 8)) :: wordCuts fuel (a + min n (8 - a % 8)) (n - min n (8 - a % 8))

def cutsOf8 (a n : Nat) : List (Nat × Nat) := wordCuts (n / 8 + 2) a n

def cutsOf (a n : Nat) : List (Nat × Nat) := lineCuts (n / 64 + 2) a n

/-! ## Roll entries (R237 to R239, R247) -/

/-- An agent is no longer a holder; an M holder takes its data and reservations with it. -/
def RollLine.drop (r : RollLine) (a : Nat) : RollLine :=
  let hs := r.hold.filter (·.1 != a)
  let r := { r with own := r.own.filter (·.1 != a) }
  if hs = [] then RollLine.init
  else if r.state a = some .mod then { r with hold := hs, data := none, resv := [] }
  else { r with hold := hs }

/-- An agent holds the line in a state; a line that is no longer M keeps no data and no reservation. -/
def RollLine.put (r : RollLine) (a : Nat) (s : LineSt) : RollLine :=
  let hs := r.hold.filter (·.1 != a) ++ [(a, s)]
  if s = .mod then { r with hold := hs, own := r.own.filter (·.1 != a) } else { r with hold := hs, data := none, resv := [] }

/-- The M holder of a line. -/
def RollLine.owner (r : RollLine) : Option Nat := (r.hold.find? (·.2 == .mod)).map (·.1)

/-- The holder that supplies data: M or E, or C when `crier` forwarding is on (R238, R239). -/
def RollLine.supplier (r : RollLine) (crier : Bool) : Option (Nat × LineSt) :=
  r.hold.find? (fun e => e.2 = .mod || e.2 = .exc || (crier && e.2 = .cri))

def Hw.crierEn (h : Hw) : Bool := h.regF (blkBase .reeve 0) 0 1 == 1

/-- The LINE hint of the slice a key belongs to (09 R212); DDR5 has none. -/
def Hw.lineHint (id : Ident) (h : Hw) (key : Nat) : Nat :=
  match locate id key with
  | .hbm d o => h.regF (blkBase .cellar (stackOf d o) + 8) 0 3
  | _ => 0

/-- SOURCE and context of a record about an agent's access; a non-caching agent is a cart, a tile's update, a chute or a queue pair
with its carter. -/
def Hw.agentSrc (h : Hw) (a : Nat) : Nat :=
  let u := (a - 0x80) / 4
  if a < 0x50 then srcStream a
  else if a ≤ 0x60 then srcHart (4 * (a - 0x50))
  else if a = 0x61 then srcOf 8 0x18 0
  else if a < 0x80 then srcOf 8 0x10 0
  else if a % 4 = 0 then srcOf (u / 40) 3 (u % 40)
  else if a % 4 = 1 then srcOf (u / 10) 4 (u % 10)
  else if a % 4 = 2 then srcOf 8 0x14 u
  else srcOf 8 0x13 (match SMap.get none h.fab.qps u with
    | some q => fld (recN q.attr 12 1) 0 4
    | none => 0)
def Hw.agentCtx (h : Hw) (a : Nat) : Option Nat :=
  let u := (a - 0x80) / 4
  if a < 0x50 then h.tileCtx a
  else if a < 0x80 then none
  else if a % 4 = 0 then
    let x := (h.tile (u / 4)).cart (u % 4)
    if x.busy then some x.ctx else h.tileCtx (u / 4)
  else if a % 4 = 1 then (match (h.tile u).upd with
    | some x => some x.ctx
    | none => h.tileCtx u)
  else if a % 4 = 2 then
    let x := SMap.get Chute.init h.mill.chutes u
    if x.on then some x.ctx else none
  else (SMap.get none h.fab.qps u).map (fun q => fld (recN q.attr 0 4) 20 12)

/-- A line that its holder is to write back holds an uncorrectable word: its data is lost, with a record and the containment of
R417 (18 R408). -/
def Hw.cacheLost (h : Hw) (agent a : Nat) : Hw :=
  let (r, h) := h.uncorrectable 0x05 (h.agentSrc agent) none a [] none
  (h.send { r with action := r.action - 1 }).coverFor r a

/-- An M holder writes its line back to the home; a line with an uncorrectable word is lost instead. -/
def Hw.writeBackLine (id : Ident) (h : Hw) (key : Nat) : Hw :=
  let r := h.rollLine key
  match r.data with
  | none => h
  | some d => match r.owner.bind (fun o => (h.cacheWord o (key / 64 * 64) 64).map (fun w => (o, w))) with
    | some x => (h.cacheLost x.1 x.2).setRoll key { r with data := none }
    | none => ((h.stackReq id (lineAt key) 64).homeWrite id (h.lineHint id key) false (lineAt key) d).setRoll key { r with data := none }

/-- Snoops sent, reads answered by a crier, reads answered by the home (R261, 19 Table 19-2). -/
def Hw.snooped (h : Hw) (line n : Nat) : Hw := if n = 0 then h else h.countHub 1 (288 + sliceOf line) n
def Hw.crierFwd (h : Hw) (line : Nat) : Hw :=
  (h.bump (blkBase .reeve 0 + 0x10010 + 0x1000 * sliceOf line) 0 64 1).countHub 1 (304 + sliceOf line) 1
def Hw.homeAnswer (h : Hw) (line : Nat) : Hw :=
  (h.bump (blkBase .reeve 0 + 0x10018 + 0x1000 * sliceOf line) 0 64 1).countHub 1 (320 + sliceOf line) 1

/-- The data of a line that an agent holds: an M holder's own, else its clean copy, which is the home's unless the home has lost
that since. -/
def Hw.copyOf (id : Ident) (h : Hw) (agent line : Nat) : List Byte :=
  let r := h.rollLine line
  r.data.getD (match r.own.find? (·.1 == agent) with
    | some e => e.2
    | none => h.peekHome id line)

/-! ## Agents -/

/-- Cacheable memory (R235). -/
def cacheable (id : Ident) (key : Nat) : Bool :=
  match locate id key with
  | .hbm _ _ => true
  | .ddr _ => true
  | _ => false

/-- A host reset is in progress. -/
def Hw.hostReset (h : Hw) : Bool := h.regF (blkBase .reeve 0 + 8) 63 1 == 1

/-- Caching agents that a slice can snoop: control cores present, sixteen clusters, the L3, the clerk (Table 10-1). -/
def Hw.agentCount (id : Ident) (h : Hw) : Nat := ((List.range 80).filter (h.present id)).length + 18

/-! ## Ordering a transaction (R241, R242, R248) -/

/-- Lines a transaction covers. -/
def Txn.lines (t : Txn) : List Nat := (cutsOf t.key (max t.len 1)).map (fun c => lineAt c.1)

/-- Busy lines. -/
def Hw.busyLine (h : Hw) (line : Nat) : Bool := h.memS.open_.any (fun t => t.lines.contains line)

/-- Lines of one roll set: 16,384 sets a slice, indexed by line number (notes/assumptions/7). -/
def sameSet (a b : Nat) : Bool := sliceOf a == sliceOf b && a / 64 / 512 % 16384 == b / 64 / 512 % 16384

/-- The ways of a line's set that are taken, as line numbers: by entries, and by open transactions that keep theirs (R247, R248). -/
def Hw.rollWays (h : Hw) (line : Nat) : List Nat :=
  (h.memS.roll.map (·.1) ++ h.memS.open_.flatMap (·.ways)).eraseDups.filter (fun k => sameSet (64 * k) line)

/-- Entries of a line's roll set. -/
def Hw.rollSet (h : Hw) (line : Nat) : List (Nat × RollLine) := h.memS.roll.filter (fun e => sameSet (e.1 * 64) line)

/-- The victim of a full set (Table 10-6): least recently used, of all-S entries first where VICTIM = 0b01. -/
def Hw.rollVictim (h : Hw) (es : List (Nat × RollLine)) : Option Nat :=
  let es := es.filter (fun e => !h.busyLine (e.1 * 64))
  let lru (l : List (Nat × RollLine)) : Option Nat :=
    (l.foldl (fun b e => match b with
      | none => some e
      | some f => if e.2.stamp < f.2.stamp then some e else some f) none).map (·.1)
  if h.regF (blkBase .reeve 0) 1 2 = 1 then
    match lru (es.filter (fun e => e.2.hold.all (fun x => x.2 = .shr))) with
    | some k => some k
    | none => lru es
  else lru es

/-- Holders a transaction snoops on a line. -/
def Hw.snoopsOf (h : Hw) (t : Txn) (line : Nat) : List (Nat × Nat) :=
  let r := h.rollLine line
  let others := (r.hold.filter (·.1 != t.agent)).map (·.1)
  match t.kind with
  | 0 => (match r.supplier t.crier with
    | some e => if e.1 = t.agent then [] else [(e.1, line)]
    | none => [])
  | 3 => []
  | 4 => []
  | 5 => []
  | 6 => (match r.supplier t.crier with
    | some e => [(e.1, line)]
    | none => [])
  | _ => others.map (fun a => (a, line))

/-- Whether ordering the transaction needs a roll entry that a full set does not have. -/
def Hw.needsEvict (h : Hw) (t : Txn) : Bool :=
  decide (t.kind ≤ 2) && (h.rollLine t.key).hold.isEmpty && decide (16 ≤ (h.rollWays (lineAt t.key)).length)

/-- The roll entries that a transaction keeps while it is open: the one it needs, and those that stand for its lines. -/
def Hw.waysOf (h : Hw) (t : Txn) : List Nat :=
  (t.lines.filter (fun l => decide (t.kind ≤ 2) || !(h.rollLine l).hold.isEmpty)).map (· / 64)

/-- An uncorrectable roll entry (18 R409): every caching agent is snooped to I for its line, an M holder writing back; the entry is
freed and a record written. -/
def Hw.rollLost (id : Ident) (h : Hw) (line : Nat) : Hw :=
  let h := ((h.writeBackLine id line).setRoll line RollLine.init).snooped line (h.agentCount id)
  h.err 0x09 0 (srcOf 8 0x10 (sliceOf line)) none (some line) []

/-- Slices read the roll for lines: each entry of their sets that holds an uncorrectable error is met there. -/
def Hw.readRoll (id : Ident) (h : Hw) (lines : List Nat) : Hw :=
  let lost := h.memS.roll.filterMap (fun e => if e.2.bad && lines.any (sameSet (e.1 * 64)) then some (e.1 * 64) else none)
  lost.foldl (fun h l => h.rollLost id l) h

/-! ## Answers (R238, R244 to R250) -/

/-- An agent has sent a WriteBack, EvictClean or Transfer of a line that waits to be ordered: the line is in its write-back buffer
(R249). -/
def Hw.buffered (h : Hw) (a line : Nat) : Bool :=
  h.memS.wait.any (fun t => t.agent == a && decide (3 ≤ t.kind ∧ t.kind ≤ 5) && lineAt t.key == line)

/-- A snooped agent keeps the line in S, or ends in I where the line was in its write-back buffer (R249). -/
def Hw.toShared (h : Hw) (a line : Nat) : Hw :=
  let r := h.rollLine line
  h.setRoll line (if h.buffered a line then r.drop a else r.put a .shr)

/-- The caching agent answers a snoop: its state moves, and its data goes to the requester or to the home. A holder whose copy has an
uncorrectable word supplies nothing and keeps its line; the requester meets the error (18 R408). -/
def Hw.answer (id : Ident) (h : Hw) (t : Txn) (a line : Nat) : Txn × Hw :=
  let r := h.rollLine line
  let t := { t with snoops := t.snoops.filter (fun s => !(s.1 == a && s.2 == line)) }
  let full := t.kind = 7 ∧ t.key ≤ line ∧ line + 64 ≤ t.key + t.len
  match r.state a with
  | none => (t, h)
  | some s =>
    let supplies := s = .mod || s = .exc || (s = .cri && t.crier)
    let give (t : Txn) : Txn := if supplies then { t with
        got := t.got ++ [(line, h.copyOf id a line)], src := if s = .mod ∧ t.kind = 1 then t.src ++ [(line, a)] else t.src } else t
    match (if supplies && (t.kind = 0 || t.kind = 1 || t.kind = 6) then h.cacheWord a line 64 else none) with
    | some w => ({ t with lost := t.lost ++ [(line, w)] }, h)
    | none =>
    let h := if s = .cri && t.crier && (t.kind = 0 || t.kind = 1 || t.kind = 6) then h.crierFwd line else h
    match t.kind with
    | 0 =>
      let h := if s = .mod then h.writeBackLine id line else h
      (give t, h.toShared a line)
    | 1 => (give t, h.setRoll line (r.drop a))
    | 6 =>
      let h := if s = .mod then h.writeBackLine id line else h
      (give t, if s = .mod || h.buffered a line then h.toShared a line else h)
    | 7 =>
      let h := if s = .mod && !full then h.writeBackLine id line else h
      (t, h.setRoll line ((h.rollLine line).drop a))
    | 2 => (t, h.setRoll line (r.drop a))
    | _ =>
      let h := if s = .mod then h.writeBackLine id line else h
      (t, h.setRoll line ((h.rollLine line).drop a))

/-! ## What the requester does with the line -/

/-- The access kind of an operation (18 Table 18-3). -/
def CacheOp.kind : CacheOp → Nat
  | .store _ => 2
  | .amo _ _ _ => 3
  | .lr _ _ => 3
  | .sc _ _ => 3

/-- An atomic memory operation of RV64A on n bytes: the new value from the old and the operand. -/
def Amo.eval (f : Amo) (n old x : Nat) : Nat :=
  match f with
  | .swap => x
  | .add => (old + x) % 256 ^ n
  | .xor => old ^^^ x
  | .and => old &&& x
  | .or => old ||| x
  | .min => if sgn (8 * n) old ≤ sgn (8 * n) x then old else x
  | .max => if sgn (8 * n) old ≤ sgn (8 * n) x then x else old
  | .minu => Nat.min old x
  | .maxu => Nat.max old x

/-- An operation at byte o of a line held in M: the line, the harts whose reservation stands, and what the hart gets
(notes/assumptions/14). -/
def CacheOp.on (op : CacheOp) (o : Nat) (d : List Byte) (resv : List Nat) : List Byte × List Nat × Resp :=
  match op with
  | .store b => (overlay d o b, [], .done)
  | .amo f n x => (overlay d o (toLE n (f.eval n (recN d o n) (recN x 0 n))), [], .bytes (subB d o n))
  | .lr hart n => (d, hart :: resv.erase hart, .bytes (subB d o n))
  | .sc hart b => if resv.contains hart then (overlay d o b, [], .value 0) else (d, resv.erase hart, .value 1)

/-- A hart's new load-reserved or its store-conditional ends the reservation it held elsewhere. -/
def Hw.dropResv (h : Hw) (op : CacheOp) (line : Nat) : Hw :=
  let clear (hart : Nat) : Hw := h.modMemS (fun m => { m with
    roll := m.roll.map (fun e => if e.1 = line / 64 then e else (e.1, { e.2 with resv := e.2.resv.erase hart })) })
  match op with
  | .lr hart _ => clear hart
  | .sc hart _ => clear hart
  | _ => h

/-- The requester ends with a line in a state, with data `d`; a clean copy that differs from the home's is kept as its own. DESIGN
CHOICE (notes/assumptions/99): this is the use that makes an entry the most recent; a hit, a snoop or a write-back moves no entry. -/
def Hw.install (id : Ident) (h : Hw) (agent line : Nat) (s : LineSt) (d : List Byte) : Hw :=
  let c := h.memS.clock + 1
  let r := (h.rollLine line).put agent s
  let own := r.own.filter (·.1 != agent)
  (h.setRoll line { r with
    data := if s = .mod then some d else none, own := if s = .mod ∨ d = h.peekHome id line then own else own ++ [(agent, d)]
    resv := [], stamp := c }).modMemS (fun m => { m with clock := c })

/-- The operation that caused a request is performed on the line, held in M with data d (R250). -/
def Hw.performOp (h : Hw) (key : Nat) (op : CacheOp) (d : List Byte) : Hw :=
  let line := lineAt key
  let h := h.dropResv op line
  let r := h.rollLine line
  let x := op.on (key % 64) d r.resv
  (h.setRoll line { r with data := some x.1, resv := x.2.1 }).respond x.2.2

/-! ## Completion (Table 10-3, R244 to R246, R252) -/

/-- A line of a transaction, from a holder or from the home under a hint. -/
def Hw.lineData (id : Ident) (h : Hw) (t : Txn) (hint line n : Nat) : RdRes × Hw :=
  match t.lost.find? (·.1 == line / 64 * 64) with
  | some e => (.bad 0x05 e.2, h)
  | none => match t.got.find? (·.1 == line / 64 * 64) with
    | some e => (.ok (subB e.2 (line % 64) n), h)
    | none => (h.homeAnswer line).homeRead id hint line n

/-- The stream of a tile whose access its control core's request serves: the one that issued last. DESIGN CHOICE
(notes/assumptions/100): the commands of a caching agent name no stream. -/
def Hw.coreStream (h : Hw) (g : Nat) : Option Nat :=
  let s := (h.tile g).last
  if (h.stream g s).st = .running then some s else none

/-- The requester meets an uncorrectable error: the error response, its record, and its containment; the stream of a control core
faults with cause 0x0A (18 R415). -/
def Hw.agentBad (h : Hw) (agent cls a : Nat) : Hw :=
  (match (if agent < 0x50 then h.coreStream agent else none) with
    | some s => h.streamUncorr agent s (h.stream agent s).pc cls (h.agentSrc agent) a [(40, 1, 0)] none
    | none => h.unitBad cls (h.agentSrc agent) (h.agentCtx agent) a [(40, 1, 0)] none).respond .error

/-- The requester's access faults: its record and the answer (09 R202); the stream of a control core faults with cause 0x05 (16 R375). -/
def Hw.agentFault (h : Hw) (agent kind a : Nat) : Hw :=
  (match (if agent < 0x50 then h.coreStream agent else none) with
    | some s => h.accessFault agent s kind (h.stream agent s).pc (some a)
    | none => h.err 0x02 1 (h.agentSrc agent) (h.agentCtx agent) (some a) [(40, 1, kind)]).respond .fault

/-- An operation reads a word that has an uncorrectable error in its agent's cache: any but a store of whole words (18 R408). -/
def Hw.opMeets (h : Hw) (agent key : Nat) (op : CacheOp) : Option Nat :=
  match op with
  | .store b => ((cutsOf8 key b.length).filter (fun c => c.2 != 8)).findSome? (fun c => h.cacheWord agent c.1 c.2)
  | _ => h.cacheWord agent key op.len

/-- A line's bytes wholly written by an operation are sound (18 R408). -/
def Hw.opCleans (h : Hw) (agent key : Nat) (op : CacheOp) : Hw :=
  match op with
  | .store b => h.cacheClean agent key b.length
  | _ => h

/-- A 4- or 8-byte atomic on old bytes: fetch-and-add, or compare-and-swap (compare, then swap, in `opnd`). -/
def atomicNew (op size : Nat) (old opnd : List Byte) : List Byte :=
  if op = 0 then toLE size (leNat old + recN opnd 0 size)
  else if leNat old = recN opnd 0 size then subB opnd size size else old

/-- The home performs an atomic on its own copy (R246): the old bytes. -/
def Hw.homeAtomic (id : Ident) (h : Hw) (hint : Nat) (thru : Bool) (key size op : Nat) (opnd : List Byte) : RdRes × Hw :=
  match (h.stackReq id key size).homeRead id hint key size with
  | (.ok old, h) => (.ok old, h.homeWrite id hint thru key (atomicNew op size old opnd))
  | x => x

/-- The hint of a non-caching agent's request (09 R212): carts and the update carry their own; the mill and the carters take the
slice's field. -/
def ncHint (agent hint : Nat) (write : Bool) : Nat :=
  if agent % 4 = 2 then hintMill else if agent % 4 = 3 then (if write then hintIn else hintOut) else hint % 8

/-- The parts of a snoop-without-allocate read in order; the first fault or error stops it. -/
def ncCollect (id : Ident) (t : Txn) : List (Nat × Nat) → Hw → RdRes × Hw
  | [], h => (.ok [], h)
  | (a, n) :: cs, h => match h.lineData id t (ncHint t.agent t.op false) a n with
    | (.ok d, h) => match ncCollect id t cs h with
      | (.ok b, h) => (.ok (d ++ b), h)
      | x => x
    | x => x

/-- Every answer of a transaction has returned: its effect on requester and home. -/
def Hw.finish (id : Ident) (h : Hw) (t : Txn) : Hw :=
  let line := lineAt t.key
  let r := h.rollLine line
  match t.kind with
  | 0 =>
    match (h.stackReq id line 64).lineData id t (h.lineHint id line) line 64 with
    | (.ok d, h) =>
      let r := h.rollLine line
      let others := r.hold.filter (·.1 != t.agent)
      let s : LineSt := if others = [] then .exc else if t.crier then .cri else .shr
      -- the previous crier moves to S
      let h := h.setRoll line { r with hold := others.map (fun e => if e.2 = .cri && t.crier then (e.1, .shr) else e) }
      ((h.cacheClean t.agent line 64).install id t.agent line s d).respond (.bytes (subB d (t.key % 64) t.len))
    | (.fault a, h) => h.agentFault t.agent 1 a
    | (.bad cls a, h) => h.agentBad t.agent cls a
  | 1 =>
    match (h.stackReq id line 64).lineData id t (h.lineHint id line) line 64 with
    | (.ok d, h) =>
      let h := ((h.cacheClean t.agent line 64).install id t.agent line .mod d).performOp t.key t.cop d
      if t.cop.kind = 2 then h.respond (.bytes d) else h
    | (.fault a, h) => h.agentFault t.agent 2 a
    | (.bad cls a, h) => h.agentBad t.agent cls a
  | 2 =>
    let d := h.copyOf id t.agent line
    let h := h.install id t.agent line .mod d
    match h.opMeets t.agent t.key t.cop with
    | some w => h.agentBad t.agent 0x05 w
    | none => (h.opCleans t.agent t.key t.cop).performOp t.key t.cop d
  | 3 =>
    if r.state t.agent = some .mod then
      let h := h.writeBackLine id line
      (h.setRoll line ((h.rollLine line).drop t.agent)).respond .done
    else h.respond .done
  | 4 => match r.state t.agent with
    | some .exc => (h.setRoll line (r.drop t.agent)).respond .done
    | some .cri => (h.setRoll line (r.drop t.agent)).respond .done
    | _ => h.respond .done
  | 5 => match r.state t.agent with
    | some s =>
      let own := r.own.filter (·.1 != 0x60)
      let h := h.modMemS (fun m => { m with cacheBad := (m.cacheBad.filter (fun e => !(e.1 == 0x60 && lineAt e.2 == line))).map (fun e =>
        if e.1 = t.agent ∧ lineAt e.2 = line then (0x60, e.2) else e) })
      (h.setRoll line { r with
        hold := (r.hold.filter (fun e => e.1 != t.agent && e.1 != 0x60)) ++ [(0x60, s)]
        own := own.map (fun e => if e.1 = t.agent then (0x60, e.2) else e), resv := [] }).respond .done
    | none => h.respond .done
  | 6 =>
    match ncCollect id t (cutsOf t.key t.len) (h.stackReq id t.key t.len) with
    | (.ok b, h) => h.respond (.bytes b)
    | (.fault a, h) => h.agentFault t.agent 1 a
    | (.bad cls a, h) => h.agentBad t.agent cls a
  | 7 => (((cutsOf t.key t.len).foldl (fun (x : Hw × List Byte) c =>
      ((x.1.setRoll (lineAt c.1) RollLine.init).homeWrite id (ncHint t.agent t.op true) (t.agent % 4 == 1) c.1 (x.2.take c.2), x.2.drop c.2))
        (h.stackReq id t.key t.len, t.data)).1).respond .done
  | 8 =>
    let hint := if 2 ≤ t.agent % 4 then ncHint t.agent 0 true else h.lineHint id line
    match h.homeAtomic id hint (t.agent % 4 == 1) t.key t.len t.op t.data with
    | (.ok old, h) => h.respond (.bytes old)
    | (.fault a, h) => h.agentFault t.agent 3 a
    | (.bad cls a, h) => h.agentBad t.agent cls a
  | _ => h.setRoll line RollLine.init

/-- A transaction finishes: its effect, and the answer its requester gets. -/
def Hw.conclude (id : Ident) (h : Hw) (t : Txn) : Hw :=
  let h := h.finish id t
  if t.kind = 9 then h else { h with out := h.out ++ [Outp.answer t.agent t.kind t.key h.resp] }

/-- The eviction of a roll entry, as a transaction of its slice (R248). -/
def Hw.evictTxn (h : Hw) (line : Nat) : Txn :=
  { kind := 9, agent := 0xFF, key := line, len := 64, data := [], op := 0, cop := .store [], crier := false
    snoops := (h.rollLine line).hold.map (fun e => (e.1, line)), got := [], src := [], lost := [], ways := [line / 64]
    born := h.localNs, roll := false }

/-- An eviction is counted. -/
def Hw.evicting (h : Hw) (line : Nat) : Hw := h.bump (blkBase .reeve 0 + 0x10008 + 0x1000 * sliceOf line) 0 64 1

/-- A transaction meets its slice: it waits on a busy line or a roll eviction, or is ordered; with no snoop to send it
finishes at once. One that waits on an eviction goes on waiting while that is open. -/
def Hw.order (id : Ident) (h : Hw) (t : Txn) : Hw :=
  let later (h : Hw) (roll : Bool) : Hw := h.modMemS (fun m => { m with wait := m.wait ++ [{ t with roll := roll }] })
  if t.lines.any h.busyLine then later h t.roll
  else
    let h := h.readRoll id t.lines
    if h.needsEvict t then
      if t.roll && h.memS.open_.any (fun v => v.kind == 9 && sameSet v.key t.key) then later h true
      else match h.rollVictim (h.rollSet (lineAt t.key)) with
      | none => later h t.roll
      | some k =>
        let v := h.evictTxn (64 * k)
        later (((h.evicting t.key).snooped (64 * k) v.snoops.length).modMemS (fun m => { m with open_ := m.open_ ++ [v] })) true
    else
      let t := if t.kind = 2 ∧ ((h.rollLine t.key).state t.agent).isNone then { t with kind := 1 } else t
      let t := { t with crier := h.crierEn, roll := false, ways := h.waysOf t }
      let sn := t.lines.flatMap (h.snoopsOf t)
      let h := (h.countHub 0 (48 + sliceOf t.key) 1).snooped t.key sn.length
      if sn = [] then h.conclude id t else h.modMemS (fun m => { m with open_ := m.open_ ++ [{ t with snoops := sn }] })

/-- Waiting transactions are ordered oldest first once a line frees (R242). -/
def Hw.drainWaits (id : Ident) (h : Hw) : Hw :=
  let ws := h.memS.wait
  ws.foldl (fun h t => h.order id t) (h.modMemS (fun m => { m with wait := [] }))

def mkTxn (h : Hw) (kind agent key len : Nat) (data : List Byte) (op : Nat) (cop : CacheOp) : Txn :=
  { kind := kind, agent := agent, key := key, len := len, data := data, op := op, cop := cop, crier := h.crierEn, snoops := [], got := []
    src := [], lost := [], ways := [], born := h.localNs, roll := false }

/-! ## Whole accesses (notes/assumptions/15) -/

/-- Every outstanding snoop of an open transaction is answered, and it is released (R242, R250). -/
def Hw.release (id : Ident) (h : Hw) (t : Txn) : Hw :=
  let h := h.modMemS (fun m => { m with open_ := m.open_.filter (· != t) })
  let x := t.snoops.foldl (fun (x : Txn × Hw) s => x.2.answer id x.1 s.1 s.2) (t, h)
  (x.2.conclude id x.1).drainWaits id

/-- A line frees: what is open on it, and what waits for it, is completed first, oldest first. -/
def settleLoop (id : Ident) (line : Nat) : Nat → Hw → Hw
  | 0, h => h
  | f + 1, h => match h.memS.open_.find? (fun t => t.lines.contains line) with
    | some t => settleLoop id line f (h.release id t)
    | none =>
      if h.memS.wait.any (fun t => t.lines.contains line) then match h.memS.open_ with
        | t :: _ => settleLoop id line f (h.release id t)
        | [] => h
      else h

/-- A whole access claims a line: every transaction ordered or waiting there completes before it (R242), and its roll entry is
read (18 R409). -/
def Hw.claim (id : Ident) (h : Hw) (line : Nat) : Hw :=
  let r := h.resp
  let h := settleLoop id line (h.memS.open_.length + 2 * h.memS.wait.length + 2) h
  (h.readRoll id [line]).respond r

/-- The roll entry that a whole access of kind 0 to 2 needs: a full set loses its victim (R248). -/
def Hw.makeWay (id : Ident) (h : Hw) (t : Txn) : Hw :=
  if h.needsEvict t then match (h.rollWays (lineAt t.key)).head? with
    | none => h
    | some e =>
      let h := if (h.rollVictim (h.rollSet (lineAt t.key))).isSome then h else h.claim id (e * 64)
      match h.rollVictim (h.rollSet (lineAt t.key)) with
      | some k =>
        let n := (h.rollLine (64 * k)).hold.length
        (((h.evicting t.key).snooped (64 * k) n).writeBackLine id (64 * k)).setRoll (64 * k) RollLine.init
      | none => h
  else h

/-- Order a transaction on a free line and have every holder answer. -/
def Hw.perform (id : Ident) (h : Hw) (t : Txn) : Hw :=
  let h := (h.claim id (lineAt t.key)).makeWay id t
  let t := { t with crier := h.crierEn }
  let sn := t.lines.flatMap (h.snoopsOf t)
  let h := (h.countHub 0 (48 + sliceOf t.key) 1).snooped t.key sn.length
  let x := sn.foldl (fun (x : Txn × Hw) s => x.2.answer id x.1 s.1 s.2) ({ t with snoops := sn }, h)
  x.2.finish id x.1

/-- R244: a non-caching read of part of one line, from its M, E or C holder, else from the home; the only state it changes is M to S,
with the line written back. -/
def Hw.ncReadLine (id : Ident) (h : Hw) (hint key n : Nat) : RdRes × Hw :=
  let line := lineAt key
  let h := h.claim id line
  match (h.rollLine line).supplier h.crierEn with
  | some e => match h.cacheWord e.1 line 64 with
    | some w => (.bad 0x05 w, h.snooped line 1)
    | none =>
    let d := h.copyOf id e.1 line
    let h := h.snooped line 1
    let h := if e.2 = .cri then h.crierFwd line else h
    (.ok (subB d (key % 64) n), if e.2 = .mod then (h.writeBackLine id line).toShared e.1 line else h)
  | none => (h.homeAnswer line).homeRead id hint key n

/-- R245: a non-caching write of part of one line: every holder goes to I, an M holder of a partly written line writes
back first. -/
def Hw.ncWriteLine (id : Ident) (h : Hw) (hint : Nat) (thru : Bool) (key : Nat) (b : List Byte) : Hw :=
  let h := h.claim id (lineAt key)
  let h := h.snooped key (h.rollLine key).hold.length
  let h := if b.length = 64 then h else h.writeBackLine id key
  (h.setRoll key RollLine.init).homeWrite id hint thru key b

/-- R246: a non-caching agent's atomic as one transaction: every holder goes to I, an M holder writing back, and the home performs it on
its own copy. -/
def Hw.ncAtomic (id : Ident) (h : Hw) (hint key size op : Nat) (opnd : List Byte) : RdRes × Hw :=
  let line := lineAt key
  let h := h.claim id line
  let h := (h.countHub 0 (48 + sliceOf line) 1).snooped line (h.rollLine line).hold.length
  ((h.writeBackLine id line).setRoll line RollLine.init).homeAtomic id hint false key size op opnd

/-- The requests of a non-caching access, one a sheaf: counted at their slices and stacks (R243). -/
def Hw.ordered (id : Ident) (h : Hw) (a n : Nat) : Hw :=
  ((cutsOf a n).filter (fun c => c.1 == a || c.1 % 2048 == 0)).foldl (fun h c =>
    if h.reachable id c.1 then
      (h.countHub 0 (48 + sliceOf (keyOf c.1)) 1).stackReq id (keyOf c.1) (min (2048 - c.1 % 2048) (a + n - c.1))
    else h) h

/-- Read through the lines in order; the first fault or error stops it. -/
def ncReadCuts (id : Ident) (hint : Nat) : List (Nat × Nat) → Hw → RdRes × Hw
  | [], h => (.ok [], h)
  | (a, n) :: cs, h =>
    if !h.reachable id a then (.fault (keyOf a), h)
    else match h.ncReadLine id hint (keyOf a) n with
      | (.ok b, h) => match ncReadCuts id hint cs h with
        | (.ok b', h) => (.ok (b ++ b'), h)
        | r => r
      | r => r

/-- A non-caching read of n bytes of HBM, DDR5 or a granary window at a physical address. -/
def Hw.ncRead (id : Ident) (h : Hw) (hint a n : Nat) : RdRes × Hw :=
  match locate id a with
  | .gran g off =>
    if h.reachable id a && decide (off + n ≤ granSize) then
      match h.granRead g off n with
      | .ok b => (.ok b, h.granFix g off n)
      | .error e => (.bad 0x05 e, h.bump (tileReg g 0xCC0) 32 16 1)
    else (.fault a, h)
  | _ => ncReadCuts id hint (cutsOf a n) (h.ordered id a n)

/-- The clerk region: no agent but the clerk, and the steward, writes it (15 R366). -/
def closedTo (id : Ident) (agent key : Nat) : Bool := agent != 0x61 && decide (clerkBase id ≤ key ∧ key < ddrBase + ddrBytes id)

/-- The parts of a write in order. The clerk and the steward write their region by operations of their own (Hw.setQ); any other agent's
write of it is an access fault (15 R366). -/
def ncWriteCuts (id : Ident) (hint : Nat) (thru : Bool) : List (Nat × Nat) → List Byte → Hw → Option Nat × Hw
  | [], _, h => (none, h)
  | (a, n) :: cs, b, h =>
    if !h.reachable id a || closedTo id 0 (keyOf a) then (some (keyOf a), h)
    else ncWriteCuts id hint thru cs (b.drop n) (h.ncWriteLine id hint thru (keyOf a) (b.take n))

/-- A non-caching write; the address of the first unreachable byte where it faults. -/
def Hw.ncWrite (id : Ident) (h : Hw) (hint : Nat) (thru : Bool) (a : Nat) (b : List Byte) : Option Nat × Hw :=
  match locate id a with
  | .gran g off =>
    if h.reachable id a && decide (off + b.length ≤ granSize) then (none, h.granWrite g off b) else (some a, h)
  | _ => ncWriteCuts id hint thru (cutsOf a b.length) b (h.ordered id a b.length)

/-- What memory holds at an address of DDR5, the supplier's data of each line before its home's: what a coherent read that changes
nothing gives. -/
def Hw.cohBytes (id : Ident) (h : Hw) (a n : Nat) : List Byte :=
  (cutsOf a n).flatMap (fun c =>
    let line := lineAt c.1
    subB (match (h.rollLine line).supplier h.crierEn with
      | some e => h.copyOf id e.1 line
      | none => h.peekHome id line) (c.1 % 64) c.2)

end Sys2Proof.Machine
end

