-- ==== Sys2Proof/Machine/Streams.lean ====
section
/-!
DEFINITION. Streams.lean: starting, stopping and ending the streams of a tile, the immediate token instructions, tokens
from outside, the watchdog (04 R81 to R96, R111).
-/
namespace Sys2Proof.Machine

/-! ## Starting and stopping -/

/-- Rows granted to the other streams of a tile (R93). -/
def Tile.others (t : Tile) (s : Nat) : Nat :=
  ((List.range 3).filter (· != s)).foldl (fun a k => a ||| (t.stream k).granted) 0

/-- Cores in the rows of a mask have their drain counts return to zero (02 R48). -/
def Tile.zeroDrains (t : Tile) (mask : Nat) : Tile :=
  { t with cores := SMap.remap .init (fun c x => if bitAt mask (c / 32) then { x with drains := 0 } else x) t.cores }

/-- A stream's start once its rows are free: the mask is granted whole and it begins running (R81, R94). -/
def Hw.grantStart (h : Hw) (g s : Nat) : Hw :=
  let x := h.stream g s
  if x.startReq ∧ (h.tile g).others s &&& x.request = 0 then
    (h.modTile g (fun t =>
      (t.modStream s (fun x => { x with granted := x.request, startReq := false })).zeroDrains x.request)).event
        0x01 (g / 10) (g % 10) (h.tileCtx g) [(16, 1, s), (24, 8, x.pc)]
  else h

/-- Cores that an uncorrectable error stopped go on with a new run (notes/assumptions/91). -/
def Tile.resumeCores (t : Tile) : Tile := { t with cores := SMap.remap .init (fun _ x => { x with halted := false }) t.cores }

/-- START of a stream at an entry with a mask (R81): ignored unless idle. DESIGN CHOICE (notes/assumptions/95): rows the stream held
from its earlier run are free from the START on, before the new mask is granted. -/
def Hw.startStream (h : Hw) (g s entry mask : Nat) : Hw :=
  if (h.stream g s).st ≠ .idle then h
  else
    let h := (h.modTile g Tile.resumeCores).modStream g s (fun x =>
      { Stream.init with
        st := .running, pc := entry, x := x.x, request := mask, startReq := true, progress := h.localNs })
    let h := if s = 2 then h.setRegF (tileReg g 0xD00) 32 8 0 else h
    h.grantStart g s

/-- STREAM_START: a write of 1 to START (R81, R94). -/
def streamStart (id : Ident) (g s : Nat) (h : Hw) : Hw :=
  if h.present id g && decide (s < 3) && !h.accelHeld then
    h.startStream g s (h.regF (tileReg g (0x40 + 8 * s)) 1 47 * 2) (h.regF (tileReg g (0xE0 + 8 * s)) 0 32)
  else h

/-- STREAM_START_GRANTED: a waiting START is granted once its rows are free (R94). -/
def streamStartGranted (g s : Nat) (h : Hw) : Hw := h.grantStart g s

/-- STOP of a tile (R83): as a fault's stop, without a fault; every stream ends idle. -/
def Hw.stopTile (h : Hw) (g : Nat) : Hw := h.modTile g Tile.haltAll

def tileStop (id : Ident) (g : Nat) (h : Hw) : Hw := if h.present id g then h.stopTile g else h

/-! ## Issuing -/

/-- Registers of a list that a summary command holds pending (R110). -/
def Stream.waitsOn (x : Stream) (regs : List Nat) : List Nat := regs.filter (fun r => r % 32 != 0 && x.pend.contains (r % 32))

/-- The stream can issue an instruction now that reads or writes the given registers (R80, R110). -/
def Stream.ready (x : Stream) (regs : List Nat) : Bool :=
  x.st == .running && !x.startReq && x.twait.isNone && !x.tend && (x.waitsOn regs).isEmpty

/-- The stream is ready to issue, as far as the control core knows: its next instruction has not met a pending register or a full
queue that still stalls it (R80). -/
def Stream.willing (x : Stream) : Bool := x.ready x.stall && !(x.full && x.queue.length == 32)

/-- It is the stream's turn to issue: of the streams that are ready none comes before it in rotating order (R80). -/
def Tile.turn (t : Tile) (s : Nat) : Bool :=
  match ([t.last + 1, t.last + 2, t.last + 3].map (· % 3)).find? (fun k => k == s || (t.stream k).willing) with
  | some k => k == s
  | none => false

/-- The stream issues an instruction now that reads or writes the given registers. -/
def Hw.mayIssue (h : Hw) (g s : Nat) (regs : List Nat) : Bool := (h.tile g).turn s && (h.stream g s).ready regs

/-- Issue of an instruction that touches the given registers: `k` where the stream has its turn and may issue it; an instruction
that touches a pending register stalls (R110). -/
def Hw.issue (h : Hw) (g s : Nat) (regs : List Nat) (k : Hw → Hw) : Hw :=
  if h.mayIssue g s regs then k h
  else if h.mayIssue g s [] then h.modStream g s (fun x => { x with stall := x.waitsOn regs })
  else h

/-- Book the issue of an instruction of `len` bytes (R80, R111, R478). -/
def Hw.issued (h : Hw) (g s len : Nat) : Hw :=
  (h.modTile g (fun t => { t with last := s })).modStream g s (fun x =>
    { x with pc := (x.pc + len) % 2 ^ 64, instret := (x.instret + 1) % 2 ^ 64, progress := h.localNs, stall := [], full := false })

/-- Issue checks of a queued command and its place in the queue (R84): the sync word first, then the command's own check,
which gives a reject reason or the queue entry; a full queue stalls the instruction. -/
def Hw.queueCmd (h : Hw) (g s : Nat) (regs : List Nat) (sy : Nat)
    (check : Stream → Except Nat (QOp × (Tile → Tile))) : Hw :=
  let x := h.stream g s
  h.issue g s (sy :: regs) (fun h =>
    let w := (x.getX sy).toNat
    if w / 2 ^ 39 ≠ 0 then h.streamFault g s 0x02 0x0E x.pc
    else match check x with
      | .error r => h.streamFault g s 0x02 r x.pc
      | .ok (op, upd) =>
        if x.queue.length = 32 then h.modStream g s (fun x => { x with full := true })
        else
          (h.modTile g (fun t => (upd t).modStream s (fun x =>
            { x with queue := x.queue ++ [⟨x.issued, x.pc, w, op⟩], issued := x.issued + 1
                     pend := if op.rd = 0 then x.pend else op.rd :: x.pend }))).issued g s 4)

/-- TALLOC issue (R93): the mask becomes the issue mask of later commands. DESIGN CHOICE (notes/assumptions/75): bits of an operand
register outside the fields of Table 04-3 are ignored. -/
def talloc (g s rs1 sy : Nat) (h : Hw) : Hw :=
  h.queueCmd g s [rs1] sy (fun x =>
    let m := fld (x.getX rs1).toNat 0 32
    .ok (.talloc m, fun t => t.modStream s (fun x => { x with request := m })))

/-- GFENCE issue (R96). -/
def gfence (g s sy : Nat) (h : Hw) : Hw := h.queueCmd g s [] sy (fun _ => .ok (.gfence, fun t => t))

/-- TSTEP issue (R96). -/
def tstepIssue (g s rs1 sy : Nat) (h : Hw) : Hw :=
  h.queueCmd g s [rs1] sy (fun x => .ok (.tstep (x.getX rs1), fun t => t))

/-- TNOP issue (R96). -/
def tnopIssue (g s sy : Nat) (h : Hw) : Hw := h.queueCmd g s [] sy (fun _ => .ok (.tnop, fun t => t))

/-- CART issue (06 R145). -/
def cartIssue (g s rs1 rs2 sy : Nat) (h : Hw) : Hw :=
  h.queueCmd g s [rs1, rs2] sy (fun x =>
    let a := (x.getX rs1).toNat
    let b := (x.getX rs2).toNat
    if a / 2 ^ 23 ≠ 0 ∨ a % 32 ≠ 0 ∨ 0x5FFFE0 < a then .error 0x0D
    else if b / 8 ≠ 0 then .error 0x0D
    else .ok (.cart a b, fun t => t))

/-- Issue of a vector command (05 R116). -/
def vecIssue (f3 f2 : Nat) (g s rs1 rs2 rs3 sy : Nat) (h : Hw) : Hw :=
  h.queueCmd g s [rs1, rs2, rs3] sy (fun x =>
    let a := (x.getX rs1).toNat
    let b := (x.getX rs2).toNat
    if a % 32 ≠ 0 ∨ granSize - 160 < fld a 0 23 ∨ a / 2 ^ 23 ≠ 0 then .error 0x0D
    else if rs3 % 32 ≠ 0 ∧ f3 = 3 ∧ (f2 = 1 ∨ f2 = 2) then .error 0x0D
    else .ok (.vec f3 f2 a (fld b 0 32) (fld b 32 32) (rs3 % 32), fun t => t))

/-- Issue of the update command (07 R164). -/
def updateIssue (g s rs1 rs2 rs3 sy : Nat) (h : Hw) : Hw :=
  h.queueCmd g s [rs1, rs2, rs3] sy (fun x =>
    let a := (x.getX rs1).toNat
    let b := (x.getX rs2).toNat
    if a / 2 ^ 23 ≠ 0 ∨ a % 32 ≠ 0 ∨ granSize - 128 < a then .error 0x0D
    else .ok (.update a (fld b 0 32) (fld b 32 32) (rs3 % 32), fun t => t))

/-! ## Token instructions (R89 to R91, R96) -/

/-- TSIG to this tile (R96). -/
def tsig (g s rs1 rs2 : Nat) (h : Hw) : Hw :=
  let x := h.stream g s
  h.issue g s [rs1, rs2] (fun h =>
    (h.issued g s 4).signal g s x.pc g (fld (x.getX rs1).toNat 0 6) (max 1 (fld (x.getX rs2).toNat 0 16)))

/-- TSIG to a named global tile: the signal goes onto the mesh (R91). -/
def tsigRemote (g s rs1 rs2 rs3 : Nat) (h : Hw) : Hw :=
  let x := h.stream g s
  h.issue g s [rs1, rs2, rs3] (fun h =>
    let h := h.issued g s 4
    { h with rsig := h.rsig ++ [⟨g, s, x.pc, (h.res g).ctx, fld (x.getX rs3).toNat 0 7, fld (x.getX rs1).toNat 0 6,
        max 1 (fld (x.getX rs2).toNat 0 16)⟩] })

/-- TEND: the stream waits until every command it issued has retired (R82). -/
def tend (g s : Nat) (h : Hw) : Hw :=
  h.issue g s [] (fun h => (h.issued g s 4).modStream g s (fun x => { x with tend := true }))

/-- Every stream the work started has ended (R386). -/
def Hw.workDone (h : Hw) (g : Nat) : Bool := (List.range 3).all (fun s => (h.stream g s).st == .idle)

/-- TEND_RETIRE: the stream becomes idle and the tile reports stream-done; the work ends with its last stream (R82, R386). -/
def tendRetire (g s : Nat) (h : Hw) : Hw :=
  let x := h.stream g s
  if x.tend ∧ x.retired = x.issued then
    let h := (h.modStream g s (fun x => { x with st := .idle, tend := false })).event 0x02 (g / 10) (g % 10) (h.tileCtx g)
      [(16, 1, s), (24, 8, x.pc)]
    match h.workOf g with
    | some w => if w.running && h.workDone g then h.endWork g 0 else h
    | none => h
  else h

/-- Sources of token signals that are no tile: bell book entry e, chute c, the replica unit. -/
def srcBell (e : Nat) : Nat := 1024 + e
def srcMill (c : Nat) : Nat := 8192 + c
def srcRepl : Nat := 9000

/-- The waiting signals of an instance of a bell book entry, once its record is written. -/
def Hw.told (h : Hw) (src inst : Nat) : Hw :=
  { h with rsig := h.rsig.map (fun r => if r.src = src ∧ r.pc = inst then { r with stream := 1 } else r) }

/-- A refused signal of such a source, whose instance is `inst` and is recorded already where `told` is 1: counted and recorded once an
instance as 13 R320 gives, counted as 14 R340 gives, or dropped. -/
def Hw.refusedFor (h : Hw) (src c g inst told : Nat) : Hw :=
  if 1024 ≤ src ∧ src < 5120 then
    let h := h.bump (blkBase .bell 0 + 0x30000 + 8 * (src - 1024)) 16 16 1
    if told = 1 then h else (h.err 0x14 0 (srcOf 8 0x16 (src - 1024)) (some c) none [(40, 1, 2), (44, 4, g)]).told src inst
  else if 8192 ≤ src ∧ src < 8208 then h.bump (blkBase .mill 0 + 0x1020 + 0x40 * (src - 8192)) 32 16 1
  else h

/-- A signal from outside the tile's streams for context `c`: waiting while the tile swaps, refused where the tile is not
the context's (R479). True unless refused; the token saturates without a fault. -/
def Hw.signalFor (id : Ident) (h : Hw) (src c g tok cnt inst : Nat) : Bool × Hw :=
  if h.present id g && h.swapping g then (true, { h with rsig := h.rsig ++ [⟨src, 0, inst, c, g, tok, cnt⟩] })
  else if h.present id g && h.tileCtx g == some c then
    (true, h.modTile g (fun t => t.setToken tok (min (t.token tok + cnt) 65535)))
  else (false, h)

/-- The first remote signal from one tile to another, and the rest. -/
def takeSig (src dst : Nat) : List RemoteSig → Option (RemoteSig × List RemoteSig)
  | [] => none
  | r :: rs =>
    if r.src = src ∧ r.dst = dst then some (r, rs)
    else (takeSig src dst rs).map (fun p => (p.1, r :: p.2))

/-- A remote signal faults the stream that sent it: cause 0x08 where it is refused, 0x07 where it overflows its token (R91). DESIGN
CHOICE (notes/assumptions/8): where its tile has left the signal's context meanwhile, the signal's stream-fault record is written and
no stream changes. -/
def Hw.signalFaults (h : Hw) (r : RemoteSig) (cause : Nat) : Hw :=
  if h.tileCtx r.src = some r.ctx then h.streamFault r.src r.stream cause 0 r.pc
  else h.send (h.blame (some r.ctx) (mkErr h 0x03 0 (srcStream r.src) (some r.ctx) none [(40, 1, r.stream), (41, 1, cause), (48, 8, r.pc)]))

/-- A remote signal is added to its target token, which stops at 65,535 (R91). -/
def Hw.signalArrives (h : Hw) (r : RemoteSig) : Hw :=
  let v := (h.tile r.dst).token r.token + r.count
  let h := (h.modTile r.dst (fun t => t.setToken r.token (min v 65535))).countTile r.src 1 19 1
  if 65535 < v then h.signalFaults r 0x07 else h

/-- REMOTE_TOKEN_SIGNAL: the oldest signal from `src` arrives at `dst`, which adds it or refuses it; a swapping tile keeps
it waiting (R91, R479). -/
def remoteTokenSignal (id : Ident) (src dst : Nat) (h : Hw) : Hw :=
  match takeSig src dst h.rsig with
  | none => h
  | some (r, rest) =>
    if h.present id dst && h.swapping dst then h
    else
      let h := { h with rsig := rest }
      if 80 ≤ src then match h.signalFor id src r.ctx dst r.token r.count r.pc with
        | (true, h) => h
        | (false, h) => h.refusedFor src r.ctx dst r.pc r.stream
      else if h.present id dst && h.tileCtx dst == some r.ctx then h.signalArrives r
      else h.signalFaults r 0x08

/-- TOKEN_WRITE: a register write replaces the token's value (R90). -/
def tokenWrite (id : Ident) (g tok v : Nat) (h : Hw) : Hw :=
  if h.present id g && decide (tok < 64) && !h.accelHeld then h.modTile g (fun t => t.setToken tok (v % 65536)) else h

/-! ## TALLOC's grant (R93) -/

/-- Rows of a matrix command's region (04 Table 04-6). -/
def regionRows (rs3 : Nat) : Nat := (2 ^ (fld rs3 5 5 + 1) - 1) * 2 ^ fld rs3 0 5

/-- A TALLOC's rows are free, and the stream's earlier array commands on rows it gives up are complete. -/
def Tile.tallocOk (t : Tile) (s mask : Nat) : Bool :=
  (t.others s &&& mask == 0) &&
    !(t.arr.any (fun a => a.stream == s &&
        (regionRows a.rs3.toNat &&& ((t.stream s).granted &&& (mask ^^^ 0xFFFFFFFF)) != 0)))

end Sys2Proof.Machine
end

