-- ==== Sys2Proof/Machine/Array.lean ====
section
/-!
DEFINITION. Array.lean: the matrix commands: fields, layouts, mapping, issue checks (04 R97 to R109), and what the cores do
with them: pen loads, trough fills, K-steps, drains (02, 03), with the tithe that taps the drain path (19 R438).
-/
namespace Sys2Proof.Machine

/-! ## Fields (04 Tables 04-4 to 04-6) -/

structure Mma where
  aoff : Nat
  boff : Nat
  yoff : Nat
  m : Nat
  n : Nat
  k : Nat
  split : Nat
  afmt : Nat
  bfmt : Nat
  ofmt : Nat
  rnd : Nat
  row0 : Nat
  nrows : Nat
  col0 : Nat
  ncols : Nat
  q : Nat
  slotp : Nat
  drain : Bool
  acc : Bool
  order : Nat
  ta : Bool
  bias : Bool
  clamp : Bool
  second : Bool
  stride : Bool
  eoff : Nat
  deriving DecidableEq, Repr

def Mma.of (rs1 rs2 rs3 : Nat) : Mma :=
  { aoff := fld rs1 0 18, boff := fld rs1 18 18, yoff := fld rs1 36 18
    m := fld rs2 0 16, n := fld rs2 16 16, k := fld rs2 32 16, split := 2 ^ fld rs2 48 2
    afmt := fld rs2 50 4, bfmt := fld rs2 54 4, ofmt := fld rs2 58 4, rnd := fld rs2 62 2
    row0 := fld rs3 0 5, nrows := fld rs3 5 5 + 1, col0 := fld rs3 10 5, ncols := fld rs3 15 5 + 1
    q := fld rs3 20 10 + 1, slotp := fld rs3 30 2, drain := bitAt rs3 32, acc := bitAt rs3 33, order := fld rs3 34 2
    ta := bitAt rs3 36, bias := bitAt rs3 37, clamp := bitAt rs3 38, second := bitAt rs3 39, stride := bitAt rs3 40
    eoff := fld rs3 41 18 }

def ArrayCmd.f (a : ArrayCmd) : Mma := Mma.of a.rs1.toNat a.rs2.toNat a.rs3.toNat

def cdiv (a b : Nat) : Nat := (a + b - 1) / b

/-! ## Formats (03 Tables 03-1 to 03-3) -/

/-- The row of Table 03-2 a format code belongs to; 0 for none. -/
def fmtRow (c : Nat) : Nat :=
  if c ≤ 1 then 1 else if c ≤ 3 then 2 else if c ≤ 7 then 3 else if c = 8 then 5
  else if c ≤ 0xA then 4 else if c ≤ 0xC then 6 else 0

def pairRow (a b : Nat) : Nat := if fmtRow a = fmtRow b then fmtRow a else 0
def rowKs (r : Nat) : Nat := if r = 1 then 8 else if r = 5 ∨ r = 6 then 32 else 16
def rowKind (r : Nat) : SlotKind := if r = 4 ∨ r = 6 then .int else .float
def isMx (c : Nat) : Bool := decide (4 ≤ c ∧ c ≤ 8)
def isSix (c : Nat) : Bool := c == 6 || c == 7

/-- The float format of an element code. -/
def elemFmt (c : Nat) : Fmt :=
  match c with
  | 0 => .bf16
  | 1 => .f16
  | 2 => .e4m3
  | 3 => .e5m2
  | 4 => .e4m3
  | 5 => .e5m2
  | 6 => .e3m2
  | 7 => .e2m3
  | _ => .e2m1

/-- An integer element's value. -/
def elemInt (c w : Nat) : Int :=
  if c = 9 then sgn 8 w else if c = 0xB then sgn 4 w else (w : Int)

/-- Bytes of a pen block, and of a chunk (Table 02-1). -/
def penBytes (c : Nat) : Nat := if isSix c then 96 else 128
def chunkBytes (c : Nat) : Nat := 2 * penBytes c

/-- The bits of element k of row (or column) r (Table 02-2). -/
def elemBits (c : Nat) (data : List Byte) (r k : Nat) : Nat :=
  if fmtRow c = 1 then recN data (16 * r + 2 * k) 2
  else if isSix c then fld (recN data (12 * r) 12) (6 * k) 6
  else if rowKs (fmtRow c) = 32 then fld (recN data (16 * r + k / 2) 1) (4 * (k % 2)) 4
  else recN data (16 * r + k) 1

/-- The slot kind of an output code; none where it is reserved (Table 03-3). -/
def outKind (c : Nat) : SlotKind := if c ≤ 5 then .float else if 8 ≤ c ∧ c ≤ 0xA then .int else .none

/-- Bytes per output entry (Table 02-4). -/
def outBytes (c : Nat) : Nat :=
  if c = 0 ∨ c = 8 then 4 else if c = 1 ∨ c = 2 then 2 else if c = 5 then 8 else 1

def outFmt (c : Nat) : Fmt :=
  match c with
  | 0 => .f32
  | 1 => .bf16
  | 2 => .f16
  | 3 => .e4m3
  | 4 => .e5m2
  | _ => .f32

/-! ## Layouts (R98 to R101) and mapping (R104, R105) -/

def Mma.row (f : Mma) : Nat := pairRow f.afmt f.bfmt
def Mma.ks (f : Mma) : Nat := rowKs f.row
def Mma.t (f : Mma) : Nat := cdiv f.k f.ks
def Mma.pitch (f : Mma) : Nat := if f.row = 1 then 2 * cdiv f.t 2 else f.t

/-- Block (u, v) of a band layout (R98). -/
def bandAt (base u v pitch : Nat) : Nat := base + ((u / 2 * pitch + v) * 2 + u % 2) * 128

def mxPen (c : Nat) : Nat := if isSix c then 128 else 160
def mxChunk (c : Nat) : Nat := if isSix c then 224 else 288

/-- Where pen block (i, q) of A starts: with TA it is block (q, i) of the stored transpose (R98 to R100). -/
def Mma.penAt (f : Mma) (i q : Nat) : Nat :=
  if isMx f.afmt then f.aoff * 32 + (i * f.t + q) * mxPen f.afmt
  else if f.ta then bandAt (f.aoff * 32) q i (2 * cdiv f.m 16)
  else bandAt (f.aoff * 32) i q f.pitch

/-- Where chunk (j, q) of B starts. -/
def Mma.chunkAt (f : Mma) (j q : Nat) : Nat :=
  if isMx f.bfmt then f.boff * 32 + (j * f.t + q) * mxChunk f.bfmt else bandAt (f.boff * 32) (2 * j) q f.pitch

def Mma.perRow (f : Mma) : Nat := f.ncols / f.split
def Mma.groups (f : Mma) : Nat := f.nrows * f.perRow
def Mma.rBlocks (f : Mma) : Nat := cdiv f.m 8
def Mma.cTiles (f : Mma) : Nat := cdiv f.n 16
def Mma.rowSlots (f : Mma) : Nat := f.groups / f.q
def Mma.rb (f : Mma) : Nat := cdiv f.rBlocks f.rowSlots
def Mma.waves (f : Mma) : Nat := f.rb * cdiv f.cTiles f.q
def Mma.single (f : Mma) : Bool := decide (f.rBlocks ≤ f.rowSlots ∧ f.cTiles ≤ f.q)

/-- The output tile group g takes in wave w; none where it is idle (R104). -/
def Mma.tileAt (f : Mma) (w g : Nat) : Option (Nat × Nat) :=
  let i := w % f.rb * f.rowSlots + g / f.q
  let j := w / f.rb * f.q + g % f.q
  if g / f.q < f.rowSlots ∧ i < f.rBlocks ∧ j < f.cTiles then some (i, j) else none

/-- A group's output tiles in the order of its busy waves. -/
def Mma.tilesOf (f : Mma) (g : Nat) : List (Nat × Nat) := (List.range f.waves).filterMap (fun w => f.tileAt w g)

/-- The leader core of a group. -/
def Mma.leader (f : Mma) (g : Nat) : Nat := (f.row0 + g / f.perRow) * 32 + f.col0 + g % f.perRow * f.split

/-- The group and member index of a core of the region. -/
def Mma.groupOf (f : Mma) (c : Nat) : Option (Nat × Nat) :=
  let r := c / 32
  let k := c % 32
  if f.row0 ≤ r ∧ r < f.row0 + f.nrows ∧ f.col0 ≤ k ∧ k < f.col0 + f.ncols then
    some ((r - f.row0) * f.perRow + (k - f.col0) / f.split, (k - f.col0) % f.split)
  else none

/-- First K-step of member j's range; its end is member j + 1's first (R49, R76). -/
def Mma.aj (f : Mma) (j : Nat) : Nat := j * f.t / f.split

/-- The n-th K-step of a core in issue order: output tile, K-step index, wave index, first of its tile. -/
structure KStep where
  i : Nat
  j : Nat
  q : Nat
  wave : Nat
  first : Bool
  deriving DecidableEq, Repr

def Mma.kstep (f : Mma) (c n : Nat) : Option KStep :=
  match f.groupOf c with
  | none => none
  | some (g, j) =>
    let len := f.aj (j + 1) - f.aj j
    match (f.tilesOf g)[n / len]? with
    | none => none
    | some (i, jt) => if len = 0 then none else some ⟨i, jt, f.aj j + n % len, n / len, n % len == 0⟩

/-- The slot of a group's wave: 2p first, then 2p + 1 and 2p in turn (R104). -/
def Mma.slot (f : Mma) (wave : Nat) : Nat := 2 * f.slotp + wave % 2

/-- K-steps a core has in a command; none for an MDRAIN (R106). -/
def ArrayCmd.steps' (a : ArrayCmd) (c : Nat) : Nat :=
  if a.md then 0
  else match a.f.groupOf c with
    | none => 0
    | some (g, j) => (a.f.tilesOf g).length * (a.f.aj (j + 1) - a.f.aj j)

/-- Drains a group's leader performs in a command. -/
def ArrayCmd.drains' (a : ArrayCmd) (c : Nat) : Nat :=
  if a.md || a.f.drain then
    match a.f.groupOf c with
    | some (g, 0) => (a.f.tilesOf g).length
    | _ => 0
  else 0

/-! ## Extents and issue checks (R109) -/

/-- The output extent of an order at a base (R101). -/
def Mma.yExtent (f : Mma) (order base stride : Nat) : Nat × Nat :=
  let w := outBytes f.ofmt
  if order = 0 then (base, base + (f.m - 1) * stride + f.n * w)
  else if order = 1 then
    (base, base + cdiv f.m 16 * (if w = 2 then 2 * cdiv f.n 16 else cdiv f.n 16) * 256)
  else (base, base + cdiv f.n 16 * (2 * cdiv f.m 16) * 256)

def Mma.defStride (f : Mma) : Nat := cdiv (f.n * outBytes f.ofmt) 32 * 32

/-- Operand extents; an MDRAIN has none (R106). -/
def Mma.operands (f : Mma) (md : Bool) : List (Nat × Nat) :=
  if md then []
  else
    let a := f.aoff * 32
    let b := f.boff * 32
    [ if isMx f.afmt then (a, a + f.rBlocks * f.t * mxPen f.afmt)
      else if f.ta then (a, a + cdiv f.k 16 * (2 * cdiv f.m 16) * 256)
      else (a, a + cdiv f.m 16 * f.pitch * 256),
      if isMx f.bfmt then (b, b + f.cTiles * f.t * mxChunk f.bfmt)
      else (b, b + cdiv f.n 16 * f.pitch * 256) ]

def Mma.usesEpi (f : Mma) : Bool := f.bias || f.clamp || f.second || f.stride

def overlaps (x y : Nat × Nat) : Bool := decide (x.1 < y.2 ∧ y.1 < x.2)

/-- Cores of a group. -/
def Mma.members (f : Mma) (g : Nat) : List Nat := (List.range f.split).map (fun j => f.leader g + j)

/-- Slot 2p of every busy group of a single-wave mapping has the pair's kind on record (R42, R109). -/
def Mma.kindsMatch (f : Mma) (t : Tile) : Bool :=
  (List.range f.groups).all (fun g => (f.tileAt 0 g).isNone ||
    (f.members g).all (fun c => SMap.get .none t.recKind (8 * c + 2 * f.slotp) == rowKind f.row))

/-- The issue checks of MMA and MDRAIN in the order of R109: the reason of the first that fails. -/
def mmaCheck (t : Tile) (issueMask rs1 rs2 rs3 : Nat) (md : Bool) : Option Nat :=
  let f := Mma.of rs1 rs2 rs3
  let yDep := f.order = 0 && f.stride
  let y := f.yExtent f.order (f.yoff * 32) f.defStride
  let ops := f.operands md
  if f.m = 0 ∨ f.n = 0 ∨ f.k = 0 then some 0x01
  else if f.row = 0 then some 0x02
  else if f.rnd = 3 ∨ outKind f.ofmt ≠ rowKind f.row then some 0x03
  else if f.order = 3 ∨ (f.order = 1 ∧ !([1, 2, 3, 4, 9, 0xA].contains f.ofmt)) ∨
      ((f.order = 2 ∨ f.second) ∧ !([1, 2].contains f.ofmt)) ∨ (f.second ∧ f.order = 0) then some 0x04
  else if f.ta ∧ f.row ≠ 1 ∧ !md then some 0x05
  else if f.t < f.split ∨ f.col0 % f.split ≠ 0 ∨ f.ncols % f.split ≠ 0 then some 0x06
  else if 32 < f.row0 + f.nrows ∨ 32 < f.col0 + f.ncols then some 0x07
  else if regionRows rs3 &&& (issueMask ^^^ 0xFFFFFFFF) ≠ 0 then some 0x07
  else if f.groups < f.q then some 0x08
  else if !f.single ∧ (md ∨ !f.drain ∨ f.acc) then some 0x09
  else if (md ∨ f.acc) ∧ !f.kindsMatch t then some 0x03
  else if ((f.bias ∨ f.clamp) ∧ f.ofmt = 5) ∨ (f.stride ∧ f.order ≠ 0) then some 0x0B
  else if (ops ++ (if f.usesEpi then [(f.eoff * 32, f.eoff * 32 + 32)] else []) ++ (if yDep then [] else [y])).any
      (fun e => decide (granSize < e.2)) then some 0x0A
  else if !yDep ∧ ops.any (fun e => overlaps y e) then some 0x0A
  else if rs1 / 2 ^ 54 ≠ 0 ∨ rs3 / 2 ^ 59 ≠ 0 then some 0x01
  else none

/-- The sequencer's record of the kinds a command leaves in the slots it writes (R109). DESIGN CHOICE (notes/assumptions/72): the
spec does not say what becomes of the record when a stop or a fault discards the command; it stays. -/
def Tile.record (t : Tile) (f : Mma) : Tile :=
  { t with recKind := (List.range f.groups).foldl (fun m g =>
      let n := (f.tilesOf g).length
      (f.members g).foldl (fun m c =>
        let m := if 1 ≤ n then SMap.set .none m (8 * c + 2 * f.slotp) (rowKind f.row) else m
        if 2 ≤ n then SMap.set .none m (8 * c + 2 * f.slotp + 1) (rowKind f.row) else m) m) t.recKind }

def matrixIssue (md : Bool) (g s r1 r2 r3 sy : Nat) (h : Hw) : Hw :=
  h.queueCmd g s [r1, r2, r3] sy (fun x =>
    let a := x.getX r1
    let b := x.getX r2
    let c := x.getX r3
    match mmaCheck (h.tile g) x.request a.toNat b.toNat c.toNat md with
    | some r => .error r
    | none =>
      if md then .ok (.mdrain a b c, fun t => t)
      else .ok (.mma a b c, fun t => t.record (Mma.of a.toNat b.toNat c.toNat)))

/-! ## Dispatch: the epilogue (R102, R103) -/

/-- Epilogue fields (Table 04-7). -/
def epiStride (e : List Byte) : Nat := recN e 0 4
def epiBias (e : List Byte) : Nat := fld (recN e 4 4) 0 18 * 32
def epiLo (e : List Byte) : Nat := recN e 8 4
def epiHi (e : List Byte) : Nat := recN e 12 4
def epiShift (e : List Byte) : Nat := fld (recN e 16 1) 0 5
def epiSecond (e : List Byte) : Nat := fld (recN e 20 4) 0 18 * 32

/-- A clamp bound that a format holds and that is no NaN (R45, R103). -/
def clampOk (ofmt b : Nat) : Bool :=
  decide (b < 2 ^ (8 * outBytes ofmt)) && (outKind ofmt == .int || !((outFmt ofmt).decode b).isNan)

/-- The dispatch check of an epilogue (R103). -/
def epiOk (f : Mma) (md : Bool) (e : List Byte) : Bool :=
  let ops := f.operands md
  let row := f.yExtent 0 (f.yoff * 32) (epiStride e)
  let first := f.yExtent f.order (f.yoff * 32) f.defStride
  let second := f.yExtent (if f.order = 2 then 1 else 2) (epiSecond e) 0
  let inside (x : Nat × Nat) : Bool := decide (x.2 ≤ granSize) && !(ops.any (fun o => overlaps x o))
  (recN e 4 4 / 2 ^ 18 == 0) && (recN e 16 1 / 32 == 0) && (recN e 17 3 == 0) && (recN e 20 4 / 2 ^ 18 == 0) &&
    (recN e 24 8 == 0) &&
    (!f.stride || (epiStride e != 0 && epiStride e % 32 == 0 && inside row)) &&
    (!f.bias || decide (epiBias e + 4 * f.n ≤ granSize)) &&
    (!f.clamp || (clampOk f.ofmt (epiLo e) && clampOk f.ofmt (epiHi e))) &&
    (!f.second || (inside second && !overlaps second first))

/-- Watches that match a draining command at its dispatch (19 R438). -/
def Hw.titheMatch (h : Hw) (g s : Nat) (f : Mma) (md : Bool) : List Nat :=
  if (h.res g).st = 3 ∧ (md || f.drain) then
    (List.range 4).filter (fun w =>
      let x := SMap.get Tithe.init h.tithe (4 * g + w)
      x.enable && x.stream == s && x.yoff == f.yoff && x.ctx == (h.res g).ctx)
  else []

/-- An array command dispatches: the epilogue is read and checked, and the sequencer holds it (R102, R103). -/
def Hw.startArray (h : Hw) (g s : Nat) (c : QCmd) (md : Bool) (r1 r2 r3 : Word) : Hw :=
  let f := Mma.of r1.toNat r2.toNat r3.toNat
  let hold (h : Hw) (e : List Byte) : Hw :=
    (h.modTile g (fun t => { t with arr := t.arr ++ [{
      stream := s, seq := c.seq, md := md, rs1 := r1, rs2 := r2, rs3 := r3, epi := e, step := (t.stream s).step, steps := [], drains := [], tithe := h.titheMatch g s f md, outs := [] }] })).countTile g 1
        (if md then 7 else 6) 1
  if !f.usesEpi then hold h []
  else match h.granRead g (f.eoff * 32) 32 with
    | .error b => ((h.bump (tileReg g 0xCC0) 32 16 1).streamUncorr g s c.pc 0x05 (srcOf (g / 10) 2 (g % 10 * 1024)) b
        [(40, 1, 0)] none).endFaulted g s c.seq
    | .ok e =>
    let h := h.granFix g (f.eoff * 32) 32
    if epiOk f md e then hold h e else (h.streamFault g s 0x03 0x0C c.pc).endFaulted g s c.seq

/-! ## Fills (02 R35 to R39) -/

/-- The destination set of a fill pass (R38). -/
def destCores (r0 nr rstep c0 nc cstep : Nat) : List Nat :=
  (List.range nr).flatMap (fun i => (List.range nc).map (fun j => (r0 + i * rstep) * 32 + (c0 + j * cstep)))

/-- A legal destination set: one core, or a strided rectangle of at most 256 cores inside the grid. -/
def destOk (r0 nr rstep c0 nc cstep : Nat) : Bool :=
  let st (x : Nat) : Bool := x == 1 || x == 2 || x == 4 || x == 8 || x == 16
  decide (1 ≤ nr) && decide (1 ≤ nc) && st rstep && st cstep && decide (nr * nc ≤ 256) &&
    decide (r0 + (nr - 1) * rstep < 32) && decide (c0 + (nc - 1) * cstep < 32)

/-- The first of `fuel` numbers from `n` on that gives an answer. -/
def seek {α : Type} (f : Nat → Option α) : Nat → Nat → Option α
  | 0, _ => none
  | fuel + 1, n => match f n with
    | some x => some x
    | none => seek f fuel (n + 1)

/-- The first K-step of a stream's commands that a core has still to issue and that `p` wants. -/
def nextWanted (arr : List ArrayCmd) (s c : Nat) (p : ArrayCmd → KStep → Bool) : Option (ArrayCmd × KStep) :=
  arr.findSome? (fun a =>
    if a.stream = s then
      seek (fun n => match a.f.kstep c n with
        | some k => if p a k then some (a, k) else none
        | none => none) (a.steps' c - SMap.get 0 a.steps c) (SMap.get 0 a.steps c)
    else none)

/-- The pen block and the chunk of a K-step. -/
def ArrayCmd.penId (a : ArrayCmd) (k : KStep) : BlockId := ⟨a.stream, a.seq, k.i, k.q⟩
def ArrayCmd.chunkId (a : ArrayCmd) (k : KStep) : BlockId := ⟨a.stream, a.seq, k.j, k.q⟩

/-- The valid trough entry that holds a chunk (R37). -/
def Core.entryOf (x : Core) (b : BlockId) : Option Nat :=
  (List.range 16).find? (fun e => SMap.get false x.valid e && (SMap.get .empty x.trough e).id == some b)

/-- The next pen load of a core is for its first K-step whose block the active plane does not hold: the sequencer reuses the
active plane where it can (R35; notes/assumptions/9). -/
def Tile.nextPen (t : Tile) (s c : Nat) : Option (ArrayCmd × KStep) :=
  nextWanted t.arr s c (fun a k => (t.core c).act.id != some (a.penId k))

/-- The next fill of a core is for its first K-step whose chunk no valid trough entry holds (R37). -/
def Tile.nextFill (t : Tile) (s c : Nat) : Option (ArrayCmd × KStep) :=
  nextWanted t.arr s c (fun a k => ((t.core c).entryOf (a.chunkId k)).isNone)

/-- A command that has ended leaves blocks in the cores' planes and entries that no later K-step uses; a loading plane that holds
one is free (R36). -/
def Core.forget (x : Core) (s seq : Nat) : Core :=
  let mine (b : Block) : Bool := b.id.any (fun i => i.stream == s && i.seq == seq)
  let drop (b : Block) : Block := if mine b then { b with id := none } else b
  { x with act := drop x.act, load := drop x.load, loaded := x.loaded && !mine x.load
           trough := SMap.remap .empty (fun _ b => drop b) x.trough }

/-- An array command ends: the sequencer holds it no longer. -/
def Tile.dropCmd (t : Tile) (s seq : Nat) : Tile :=
  { t with arr := t.arr.filter (fun a => !(a.stream == s && a.seq == seq)), cores := SMap.remap .init (fun _ x => x.forget s seq) t.cores }

/-- Change an array command of the tile. -/
def Tile.modArr (t : Tile) (s seq : Nat) (f : ArrayCmd → ArrayCmd) : Tile :=
  { t with arr := t.arr.map (fun a => if a.stream = s ∧ a.seq = seq then f a else a) }

/-- The transpose of an 8 × 8 block of 16-bit elements (R100). -/
def transpose16 (b : List Byte) : List Byte :=
  (List.range 8).flatMap (fun r => (List.range 8).flatMap (fun k => subB b (16 * k + 2 * r) 2))

/-- Cores an uncorrectable error stops (R55). -/
def Tile.haltCores (t : Tile) (cs : List Nat) : Tile := cs.foldl (fun t c => t.modCore c (fun x => { x with halted := true })) t

/-- An array command stops for an uncorrectable error that the cores `cs` met (R55): they stop and the stream faults. DESIGN CHOICE
(notes/assumptions/91): the command ends faulted at once on every core of its region, and the other cores are free. -/
def Hw.dropArray (h : Hw) (g s seq : Nat) (cs : List Nat) (cls src a : Nat) (detail : List (Nat × Nat × Nat)) : Hw :=
  let pc := match (h.stream g s).live.find? (·.seq == seq) with
    | some c => c.pc
    | none => 0
  ((h.modTile g (fun t => (t.dropCmd s seq).haltCores cs)).streamUncorr g s pc cls src a detail none).endFaulted g s seq

/-- A core's window address for records: the matrix cores have none, so the tile's register block names them. -/
def coreAddr (g : Nat) : Nat := tileReg g 0

/-- Errors corrected in a die's stores, other than those a register counts (19 Table 19-1). -/
def Hw.corrected (h : Hw) (g n : Nat) : Hw := if n = 0 then h else h.count (g / 10) 1 242 n

/-- PEN_LOAD: one fill pass delivers a pen block, and its scale beat in an MX format, to the loading plane of every core of
its destination set; all of them are to want that block next, and their loading planes to be free (R35, R36, R38). A load may
begin under the thermal hold (notes/assumptions/73). -/
def penLoad (g s r0 nr rstep c0 nc cstep : Nat) (h : Hw) : Hw :=
  let t := h.tile g
  let cs := destCores r0 nr rstep c0 nc cstep
  match t.nextPen s (r0 * 32 + c0) with
  | none => h
  | some (a, k) =>
    let f := a.f
    let same (c : Nat) : Bool := match t.nextPen s c with
      | some (b, k') => b.penId k' == a.penId k && !(t.core c).loaded && !(t.core c).halted
      | none => false
    if destOk r0 nr rstep c0 nc cstep && cs.all same then
      let off := f.penAt k.i k.q
      let n := penBytes f.afmt + if isMx f.afmt then 32 else 0
      match h.granRead g off n with
      | .error b => (h.bump (tileReg g 0xCC0) 32 16 1).dropArray g s a.seq cs 0x05 (srcOf (g / 10) 2 (g % 10 * 1024 + r0 * 32 + c0))
          b [(40, 1, 0)]
      | .ok d =>
        let data := d.take (penBytes f.afmt)
        let blk : Block := ⟨if f.ta then transpose16 data else data, d.drop (penBytes f.afmt), some (a.penId k)⟩
        ((h.granFix g off n).modTile g (fun t => cs.foldl (fun t c => t.modCore c (fun x =>
          { x with load := blk, loaded := true, bad := x.bad.filter (·.1 != 1), soft := x.soft.filter (·.1 != 1) })) t)).countTile
            g 0 12 (cdiv n 32)
    else h

/-- TROUGH_FILL: one fill pass delivers a chunk into trough entry `e` of every core of its destination set, all of which are to
want that chunk next, and sets its valid bit (R37, R38). A fill may begin under the thermal hold (notes/assumptions/73). -/
def troughFill (g s e r0 nr rstep c0 nc cstep : Nat) (h : Hw) : Hw :=
  let t := h.tile g
  let cs := destCores r0 nr rstep c0 nc cstep
  match t.nextFill s (r0 * 32 + c0) with
  | none => h
  | some (a, k) =>
    let f := a.f
    let same (c : Nat) : Bool := match t.nextFill s c with
      | some (b, k') => b.chunkId k' == a.chunkId k && !(t.core c).halted
      | none => false
    if destOk r0 nr rstep c0 nc cstep && decide (e < 16) && cs.all same then
      let off := f.chunkAt k.j k.q
      let n := chunkBytes f.bfmt + if isMx f.bfmt then 32 else 0
      match h.granRead g off n with
      | .error b => (h.bump (tileReg g 0xCC0) 32 16 1).dropArray g s a.seq cs 0x05 (srcOf (g / 10) 2 (g % 10 * 1024 + r0 * 32 + c0))
          b [(40, 1, 0)]
      | .ok d =>
        let blk : Block := ⟨d.take (chunkBytes f.bfmt), d.drop (chunkBytes f.bfmt), some (a.chunkId k)⟩
        ((h.granFix g off n).modTile g (fun t => cs.foldl (fun t c => t.modCore c (fun x =>
          { x with trough := SMap.set .empty x.trough e blk, valid := SMap.set false x.valid e true
                   bad := x.bad.filter (·.1 != 2 + e), soft := x.soft.filter (·.1 != 2 + e) })) t)).countTile g 0 12 (cdiv n 32)
    else h

/-! ## K-steps (02 R30 to R32, 03 R60 to R67) -/

/-- The exact sum of products over the unmasked k of row r and column n (R60, R61). -/
def dotF (afmt bfmt : Nat) (pen chunk : List Byte) (r n kv : Nat) : FVal :=
  let prod (k : Nat) : FVal :=
    ((elemFmt afmt).decode (elemBits afmt pen r k)).mul ((elemFmt bfmt).decode (elemBits bfmt chunk n k))
  (List.range (kv - 1)).foldl (fun a k => a.add (prod (k + 1))) (prod 0)

/-- The exact integer sum (R63). -/
def dotI (afmt bfmt : Nat) (pen chunk : List Byte) (r n kv : Nat) : Int :=
  (List.range kv).foldl (fun a k =>
    a + elemInt afmt (elemBits afmt pen r k) * elemInt bfmt (elemBits bfmt chunk n k)) 0

/-- The step result P[r, n] of a floating-point step (R60, R62). -/
def stepF (f : Mma) (pen chunk : Block) (r n kv : Nat) : Nat :=
  if isMx f.afmt then
    let sx := recN pen.scale r 1
    let sw := recN chunk.scale n 1
    if sx = 0xFF ∨ sw = 0xFF then cnan32
    else fl32 ((dotF f.afmt f.bfmt pen.data chunk.data r n kv).scale ((sx : Int) + sw - 254))
  else fl32 (dotF f.afmt f.bfmt pen.data chunk.data r n kv)

/-- A slot entry's halves. -/
def entLo (w : Word) : Nat := fld w.toNat 0 32
def entHi (w : Word) : Nat := fld w.toNat 32 32
def mkEnt (lo hi : Nat) : Word := BitVec.ofNat 64 (lo + hi * 2 ^ 32)

/-- One entry's new value under INIT or ACC, and whether an integer addition saturated (R41, R64, R67). -/
def entryStep (f : Mma) (init : Bool) (pen chunk : Block) (kv : Nat) (w : Word) (r n : Nat) : Word × Bool :=
  match rowKind f.row with
  | .int =>
    let p := dotI f.afmt f.bfmt pen.data chunk.data r n kv
    if init then (mkEnt (unsgn 32 p) 0, false)
    else
      let (v, sat) := sat32 (sgn 32 (entLo w) + p)
      (mkEnt (unsgn 32 v) (if sat then 1 else entHi w), sat)
  | _ =>
    let p := stepF f pen chunk r n kv
    if init then (mkEnt p 0, false)
    else
      let y := (Pair.mk (entLo w) (entHi w)).acc p
      (mkEnt y.s y.e, false)

/-- Valid rows, columns and elements of a K-step (R32, R74). -/
def Mma.rowsOf (f : Mma) (i : Nat) : Nat := min 8 (f.m - 8 * i)
def Mma.colsOf (f : Mma) (j : Nat) : Nat := min 16 (f.n - 16 * j)
def Mma.kvalid (f : Mma) (q : Nat) : Nat := if q + 1 = f.t then f.k - q * f.ks else f.ks

/-- A K-step over the unmasked entries of a slot, and the entries that saturated. -/
def slotStep (f : Mma) (k : KStep) (init : Bool) (pen chunk : Block) (sl : Slot) : Slot × Nat :=
  let cells := (List.range (f.rowsOf k.i)).flatMap (fun r => (List.range (f.colsOf k.j)).map (fun n => (r, n)))
  let res := cells.foldl (fun (m, c) rn =>
    let e := rn.1 * 16 + rn.2
    let (v, sat) := entryStep f init pen chunk (f.kvalid k.q) (SMap.get 0 m e) rn.1 rn.2
    (SMap.set 0 m e v, if sat then c + 1 else c)) (sl.ent, 0)
  ({ kind := if init then rowKind f.row else sl.kind, ent := res.1, sat := sl.sat || decide (0 < res.2) }, res.2)

/-- The stream's next K-step on a core, in issue order. -/
def nextStep (arr : List ArrayCmd) (s c : Nat) : Option (ArrayCmd × KStep) := nextWanted arr s c (fun _ _ => true)

/-- Drains still owed by commands up to and before this K-step that read its slot (Table 02-3): its own command's tile two
waves before, and earlier commands' drains of that slot by the core's group leader. -/
def slotOwed (arr : List ArrayCmd) (a : ArrayCmd) (c wave : Nat) : Bool :=
  let owed (b : ArrayCmd) (upto : Nat) : Bool :=
    match b.f.groupOf c with
    | some (g, _) =>
      let l := b.f.leader g
      (List.range (min upto (b.drains' l))).any (fun w =>
        decide (SMap.get 0 b.drains l ≤ w) && b.f.slot w == a.f.slot wave)
    | none => false
  arr.any (fun b => if b.stream = a.stream ∧ b.seq = a.seq then owed b wave
    else b.stream == a.stream && decide (b.seq < a.seq) && owed b (b.drains' (match b.f.groupOf c with
      | some (g, _) => b.f.leader g
      | none => 0)))

/-- Entries of output tile (i, j) that a slot word of store 18 + sl lies in (R32). -/
def Mma.slotWord (f : Mma) (i j sl : Nat) (b : Nat × Nat) : Bool :=
  b.1 == 18 + sl && decide (b.2 / 16 < f.rowsOf i ∧ b.2 % 16 < f.colsOf j)

/-- 8-byte words of a core's stores: a plane's 16 of data and 4 of scale beat, a trough entry's 32 and 4, a slot's 128 (R33, R34, R41). -/
def storeWords (store : Nat) : Nat := if store < 2 then 20 else if store < 18 then 36 else if store < 26 then 128 else 0

/-- Words a K-step reads: the data of its pen plane and its trough entry, in an MX format the words of their scale beats that hold
scales, and, with ACC, the slot's unmasked entries (R33, R34, R55). -/
def stepReads (f : Mma) (k : KStep) (init : Bool) (plane e sl : Nat) (b : Nat × Nat) : Bool :=
  (b.1 == plane && (decide (b.2 < penBytes f.afmt / 8) || (isMx f.afmt && b.2 == 16))) ||
    (b.1 == 2 + e && (decide (b.2 < chunkBytes f.bfmt / 8) || (isMx f.bfmt && (b.2 == 32 || b.2 == 33)))) ||
    (!init && f.slotWord k.i k.j sl b)

/-- The planes swap: the loading plane becomes active, and the old active plane is free for a load (R35, R36). -/
def Core.swap (x : Core) : Core :=
  let mark (b : Nat × Nat) : Nat × Nat := if b.1 = 0 then (1, b.2) else if b.1 = 1 then (0, b.2) else b
  { x with act := x.load, load := { x.act with id := none }, loaded := false, bad := x.bad.map mark, soft := x.soft.map mark }

/-- K_STEP: the next K-step of a core, its chunk valid and its pen block in the active plane, or complete in the loading plane, when
the planes swap: the 16 columns stream into the slot (R30 to R41, R53). -/
def kStep (g s c : Nat) (h : Hw) : Hw :=
  let t := h.tile g
  match nextStep t.arr s c with
  | none => h
  | some (a, k) =>
    let f := a.f
    let x := t.core c
    let sl := f.slot k.wave
    let init := k.first && !f.acc
    let swap := x.act.id != some (a.penId k)
    match x.entryOf (a.chunkId k) with
    | none => h
    | some e =>
      if h.held g || x.halted || (swap && !(x.loaded && x.load.id == some (a.penId k))) || slotOwed t.arr a c k.wave then h
      else
        let used := stepReads f k init (if swap then 1 else 0) e sl
        if x.bad.any used then h.dropArray g s a.seq [c] 0x05 (srcOf (g / 10) 2 (g % 10 * 1024 + c)) (coreAddr g) [(40, 1, 1)]
        else
          let (slot, nsat) := slotStep f k init (if swap then x.load else x.act) (SMap.get .empty x.trough e) (x.slot sl)
          let fresh (b : Nat × Nat) : Bool := f.slotWord k.i k.j sl b
          let h := (h.corrected g (x.soft.countP used)).modTile g (fun t => (t.modCore c (fun x =>
            let x := { x with soft := x.soft.filter (fun b => !fresh b), bad := x.bad.filter (fun b => !fresh b) }
            (if swap then x.swap else x).modSlot sl (fun _ => slot))).modArr s a.seq (fun a =>
              { a with steps := SMap.set 0 a.steps c (SMap.get 0 a.steps c + 1) }))
          ((((h.countTile g 1 (f.row - 1) 1).countTile g 0 7 16).countTile g 1 14 nsat).countTile g 1 16
            (if f.rowsOf k.i < 8 then 16 else 0))

/-! ## Drains (02 R43 to R49, 03 R66 to R73) -/

/-- The leader's entry combined with its partners', and the combinations that saturated (R49, R66, R67). DESIGN CHOICE
(notes/assumptions/74): an entry clamped at several partners' additions counts once for each; R70 does not say. -/
def combine (kind : SlotKind) (ws : List Word) : Word × Nat :=
  match ws with
  | [] => (0, 0)
  | w :: rest => match kind with
    | .int => rest.foldl (fun (a, n) b =>
        let (v, sat) := sat32 (sgn 32 (entLo a) + sgn 32 (entLo b))
        (mkEnt (unsgn 32 v) 0, if sat then n + 1 else n)) (w, 0)
    | _ =>
      let p := rest.foldl (fun p b => p.comb ⟨entLo b, entHi b⟩) (Pair.mk (entLo w) (entHi w))
      (mkEnt p.s p.e, 0)

/-- min(max(x, lo), hi) on encodings of a float output; a NaN passes (R45). -/
def clampF (ft : Fmt) (lo hi x : Nat) : Nat :=
  let v := ft.decode x
  if v.isNan then x else ft.encode .zero 0 ((v.max (ft.decode lo)).min (ft.decode hi))

/-- The exact value a floating drain rounds: sum + error + bias, its zero signed by s and the bias alone (R45, R72). -/
def drainVal (s e bias : Nat) : FVal :=
  let sb := (v32 s).add (v32 bias)
  match sb.add (v32 e) with
  | .fin n 0 x => match v32 s, v32 bias with
    | .fin a 0 _, .fin b 0 _ => .fin (a && b) 0 x
    | _, _ => .fin (n && false) 0 x
  | v => v

/-- One output entry's encoding, and whether the drain saturated it (R45, R47, R71, R72). -/
def drainEntry (f : Mma) (epi : List Byte) (r16 bias : Nat) (w : Word) : Nat × Bool :=
  let rm := rndOf f.rnd
  match outKind f.ofmt with
  | .int =>
    let (v, s1) := sat32 (sgn 32 (entLo w) + sgn 32 bias)
    if f.ofmt = 8 then
      let v := if f.clamp then min (max v (sgn 32 (epiLo epi))) (sgn 32 (epiHi epi)) else v
      (unsgn 32 v, s1)
    else
      let q := shiftRound rm r16 v (if f.usesEpi then epiShift epi else 0)
      let (y, s2) := if f.ofmt = 9 then satRange (-128) 127 q else satRange 0 255 q
      let b (x : Nat) : Int := if f.ofmt = 9 then sgn 8 x else (x : Int)
      let y := if f.clamp then min (max y (b (epiLo epi))) (b (epiHi epi)) else y
      (unsgn 8 y, s1 || s2)
  | _ =>
    if f.ofmt = 5 then
      (match v32 (entLo w) with
        | .nan => cnan32
        | _ => entLo w + entHi w * 2 ^ 32, false)
    else
      let ft := outFmt f.ofmt
      let y := ft.encode rm r16 (drainVal (entLo w) (entHi w) bias)
      (if f.clamp then clampF ft (epiLo epi) (epiHi epi) y else y, false)

/-- Write an output tile in an order at a base; `out r n` gives valid entries, masked ones are +0 in pen order (R46, R101). -/
def writeTile (g : Nat) (f : Mma) (order base stride i j : Nat) (out : Nat → Nat → Nat) (h : Hw) : Hw :=
  let w := outBytes f.ofmt
  let rows := f.rowsOf i
  let cols := f.colsOf j
  let cell (r n : Nat) : List Byte := toLE w (if r < rows ∧ n < cols then out r n else 0)
  let block (at_ : Nat) (e : Nat → Nat → List Byte) (cs : Nat) (h : Hw) : Hw :=
    h.granWrite g at_ ((List.range 8).flatMap (fun r => (List.range cs).flatMap (fun c => e r c)))
  if order = 0 then
    (List.range rows).foldl (fun h r =>
      h.granWrite g (base + (8 * i + r) * stride + 16 * j * w) ((List.range cols).flatMap (fun n => cell r n))) h
  else if order = 1 then
    if w = 2 then
      let p := 2 * cdiv f.n 16
      block (bandAt base i (2 * j + 1) p) (fun r c => cell r (8 + c)) 8
        (block (bandAt base i (2 * j) p) (fun r c => cell r c) 8 h)
    else block (bandAt base i j (cdiv f.n 16)) (fun r c => cell r c) 16 h
  else
    let p := 2 * cdiv f.m 16
    block (bandAt base (2 * j + 1) i p) (fun r c => cell c (8 + r)) 8
      (block (bandAt base (2 * j) i p) (fun r c => cell c r) 8 h)

/-- The random 16 bits of one drained entry (R48): the counter function in reproducible mode, a free value otherwise. DESIGN CHOICE
(notes/assumptions/92): the step is the one in force at the command's dispatch, the drain count the one at the drain, also where a
later TSTEP has zeroed it meanwhile. -/
def drainR16 (h : Hw) (g core e cnt : Nat) (step : Word) : Nat :=
  if h.regF (tileReg g 8) 0 1 = 1 then (cf step (drainKey1 g core e) (BitVec.ofNat 64 cnt)).toNat % 65536
  else (Config.freeValue (h.free + e)).toNat % 65536

/-! ### The tithe (19 R438 to R440) -/

/-- digest(0, 0, w, N) of 08 R185. -/
def digestP : Nat := 0xFFFFFFFFFFFFFFC5
def digestK : Nat := 0x7C3A91E64D2FB58D
def digestFrom (h0 : Nat) (ws : List Nat) : Nat := ws.foldl (fun h w => (h * digestK + w % digestP) % digestP) h0

/-- Bytes cut into little-endian doubles, the last padded with zeros. -/
def wordsOf : Nat → List Byte → List Nat
  | 0, _ => []
  | n + 1, b => if b = [] then [] else leNat (b.take 8) :: wordsOf n (b.drop 8)

/-- The integer an output encoding of code 8 to 0xA stands for. -/
def intOut (ofmt x : Nat) : Int := if ofmt = 0xA then (x : Int) else sgn (8 * outBytes ofmt) x

/-- The histogram bin of an output value (R439). -/
def titheBin (f : Mma) (x : Nat) : Nat :=
  match outKind f.ofmt with
  | .int =>
    let v := (intOut f.ofmt x).natAbs
    if v = 0 then 0 else min (Nat.log2 v + 1) 30
  | _ =>
    let ft := outFmt f.ofmt
    let ex := fld x ft.mb ft.eb
    match ft.decode x with
    | .fin _ _ _ => if ex = 0 then 0 else min (max ((ex : Int) - ft.bias + 15) 1).toNat 30
    | _ => 31

/-- The 256-byte tithe record of a command's primary outputs, in row-major order (R439, R440). -/
def titheRecord (f : Mma) (digest : Bool) (step now : Nat) (outs : List Nat) : List Byte :=
  let head := [(0, 4, 0x48544954), (4, 1, 1), (5, 1, if digest then 1 else 0), (6, 1, f.ofmt), (8, 8, step),
    (16, 8, outs.length), (48, 8, now)]
  if digest then
    let b := outs.flatMap (fun x => toLE (outBytes f.ofmt) x)
    mkRec 256 (head ++ [(40, 8, digestFrom 0 (wordsOf (b.length / 8 + 1) b))])
  else
    let xs := if f.ofmt = 5 then outs.map (fun x => fld x 0 32) else outs
    let hist := (List.range 32).map (fun b => (64 + 4 * b, 4, min (xs.countP (fun x => titheBin f x == b)) 0xFFFFFFFF))
    match outKind f.ofmt with
    | .int =>
      let vs := xs.map (intOut f.ofmt)
      let lo := vs.foldl min (vs.headD 0)
      let hi := vs.foldl max (vs.headD 0)
      let (q, st) := divVal (FVal.ofInt (vs.foldl (· + ·) 0)) (FVal.ofInt vs.length)
      mkRec 256 (head ++ [(24, 4, unsgn 32 lo), (28, 4, unsgn 32 hi), (32, 4, Fmt.f32.encodeS .nearest 0 st q)] ++ hist)
    | _ =>
      let vs := xs.map (outFmt f.ofmt).decode
      let num := vs.filter (fun v => !v.isNan)
      let fin := vs.filter FVal.isFinite
      let lo := if num = [] then cnan32 else fl32 (num.foldl FVal.min (num.headD .zero))
      let hi := if num = [] then cnan32 else fl32 (num.foldl FVal.max (num.headD .zero))
      let (q, st) := divVal (fin.tail.foldl FVal.add (fin.headD .zero)) (FVal.ofInt fin.length)
      mkRec 256 (head ++ [(24, 4, lo), (28, 4, hi),
        (32, 4, if fin = [] then cnan32 else Fmt.f32.encodeS .nearest 0 st q), (36, 4, vs.length - fin.length)] ++ hist)

/-- Write the records of the watches a finished command matched (R438); a ONCE watch disables itself. -/
def Hw.titheWrite (h : Hw) (g : Nat) (a : ArrayCmd) : Hw :=
  a.tithe.foldl (fun h w =>
    let x := SMap.get Tithe.init h.tithe (4 * g + w)
    let st := blkBase .dobs (g / 10) + 0x1200 + 8 * (g % 10)
    let h := if granSize < x.recOff * 32 + 256 then h.bump st 16 16 1
      else ((h.granWrite g (x.recOff * 32) (titheRecord a.f x.digest a.step.toNat h.bellNs (a.outs.map (·.2)))).bump st 32 32 1).countTile
        g 1 20 1
    if x.once && decide (x.recOff * 32 + 256 ≤ granSize) then
      { h with tithe := SMap.set Tithe.init h.tithe (4 * g + w) { x with enable := false, bell := [] } } else h) h

/-- A command whose K-steps and drains are all done. -/
def ArrayCmd.done (a : ArrayCmd) : Bool :=
  (List.range a.f.groups).all (fun g => (a.f.members g).all (fun c =>
    decide (a.steps' c ≤ SMap.get 0 a.steps c) && decide (a.drains' c ≤ SMap.get 0 a.drains c)))

/-- The stream's oldest command that still owes drains on a leader. -/
def nextDrain (arr : List ArrayCmd) (s c : Nat) : Option ArrayCmd :=
  arr.find? (fun a => a.stream == s && decide (SMap.get 0 a.drains c < a.drains' c))

/-- A command has K-steps into a slot still to issue on a core. -/
def ArrayCmd.owesSlot (a : ArrayCmd) (c sl : Nat) : Bool :=
  match a.f.groupOf c with
  | some (g, j) =>
    let len := a.f.aj (j + 1) - a.f.aj j
    !a.md && (List.range (a.f.tilesOf g).length).any (fun w =>
      a.f.slot w == sl && decide (SMap.get 0 a.steps c < (w + 1) * len))
  | none => false

/-- Every K-step into a drain's slot issued before it has written (Table 02-3): its own tile's, and earlier commands' into that
slot of the group's cores. -/
def drainReady (arr : List ArrayCmd) (a : ArrayCmd) (g wave : Nat) : Bool :=
  (a.f.members g).all (fun c =>
    arr.all (fun b => !(b.stream == a.stream && decide (b.seq < a.seq)) || !b.owesSlot c (a.f.slot wave)) &&
    (a.md || (match a.f.groupOf c with
      | some (_, j) => decide ((wave + 1) * (a.f.aj (j + 1) - a.f.aj j) ≤ SMap.get 0 a.steps c)
      | none => true)))

/-- The outputs of a group's next tile (i, j): each valid entry with its encoding, whether it saturated, and how often the combination did
(R43 to R49). The partners' entries combine in ascending core index. -/
def Hw.drainRes (h : Hw) (g c : Nat) (a : ArrayCmd) (gr i j : Nat) (bias : List Byte) : List ((Nat × Nat) × (Nat × Bool) × Nat) :=
  let t := h.tile g
  let f := a.f
  let sl := f.slot (SMap.get 0 a.drains c)
  let cells := (List.range (f.rowsOf i)).flatMap (fun r => (List.range (f.colsOf j)).map (fun n => (r, n)))
  cells.map (fun (r, n) =>
    let e := r * 16 + n
    let (w, nc) := combine (outKind f.ofmt) ((f.members gr).map (fun m => SMap.get 0 ((t.core m).slot sl).ent e))
    ((r, n), drainEntry f a.epi (drainR16 h g c e (t.core c).drains a.step) (recN bias (4 * (16 * j + n)) 4) w, nc))

/-- The outputs of a tile written in the command's order at its output address, and a second time in the other order where it asks for
one (R46, R47). -/
def drainWrite (g : Nat) (a : ArrayCmd) (i j : Nat) (res : List ((Nat × Nat) × (Nat × Bool) × Nat)) (h : Hw) : Hw :=
  let f := a.f
  let outs : SMap Nat := res.foldl (fun m x => SMap.ins m (x.1.1 * 16 + x.1.2) x.2.1.1) []
  let out (r n : Nat) : Nat := SMap.get 0 outs (r * 16 + n)
  let h := writeTile g f f.order (f.yoff * 32) (if f.stride then epiStride a.epi else f.defStride) i j out h
  if f.second then writeTile g f (if f.order = 2 then 1 else 2) (epiSecond a.epi) 0 i j out h else h

/-- SLOT_DRAIN: a group's leader drains its next output tile: partners combined in ascending core index, bias, one rounding,
clamp, and the output written (R43 to R49). The slot keeps its contents. A drain may begin under the thermal hold
(notes/assumptions/73); an output that saturates only in the combination counts no drain event (notes/assumptions/74). DESIGN CHOICE
(notes/assumptions/93): every drain reads the whole bias vector, so a bad word of another column's bias stops it. -/
def slotDrain (g s c : Nat) (h : Hw) : Hw :=
  let t := h.tile g
  match nextDrain t.arr s c with
  | none => h
  | some a =>
    let f := a.f
    let wave := SMap.get 0 a.drains c
    match f.groupOf c with
    | none => h
    | some (gr, _) =>
    match (f.tilesOf gr)[wave]? with
    | none => h
    | some (i, j) =>
      let sl := f.slot wave
      let ms := f.members gr
      if !drainReady t.arr a gr wave || ms.any (fun m => (t.core m).halted) then h
      else if ms.any (fun m => (t.core m).bad.any (f.slotWord i j sl)) then
        h.dropArray g s a.seq (ms.filter (fun m => (t.core m).bad.any (f.slotWord i j sl))) 0x05 (srcOf (g / 10) 2 (g % 10 * 1024 + c)) (coreAddr g) [(40, 1, 1)]
      else match (if f.bias then h.granRead g (epiBias a.epi) (4 * f.n) else .ok []) with
      | .error b => (h.bump (tileReg g 0xCC0) 32 16 1).dropArray g s a.seq [c] 0x05 (srcOf (g / 10) 2 (g % 10 * 1024 + c)) b
          [(40, 1, 0)]
      | .ok bias =>
        let res := h.drainRes g c a gr i j bias
        let h := if f.bias then h.granFix g (epiBias a.epi) (4 * f.n) else h
        let h := drainWrite g a i j res h
        let h := h.corrected g (ms.foldl (fun n m => n + (t.core m).soft.countP (f.slotWord i j sl)) 0)
        let nsat := res.countP (fun x => x.2.1.2)
        let ncomb := res.foldl (fun n x => n + x.2.2) 0
        let met := ms.any (fun m => ((t.core m).slot sl).sat) || decide (0 < nsat + ncomb)
        let h := if f.rnd = 2 ∧ h.regF (tileReg g 8) 0 1 = 0 then { h with free := h.free + 128 } else h
        let h := if met then h.setRegF (tileReg g 0x600) s 1 1 else h
        let h := ((h.countTile g 1 15 nsat).countTile g 1 14 ncomb).countTile g 0 13 ((if f.second then 8 else 4) * outBytes f.ofmt)
        let h := h.modTile g (fun t => (t.modCore c (fun x =>
          ({ x with drains := x.drains + 1 }).modSlot sl (fun y => { y with sat := y.sat || decide (0 < nsat + ncomb) }))).modArr s
            a.seq (fun a => { a with
              drains := SMap.set 0 a.drains c (wave + 1)
              outs := if a.tithe = [] then a.outs
                else res.foldl (fun m x => SMap.ins m ((8 * i + x.1.1) * f.n + 16 * j + x.1.2) x.2.1.1) a.outs }))
        match (h.tile g).arr.find? (fun b => b.stream == s && b.seq == a.seq) with
        | some b => if b.done then h.titheWrite g b else h
        | none => h

end Sys2Proof.Machine
end

