-- ==== Sys2Proof/Machine/Vector.lean ====
section
/-!
DEFINITION. Vector.lean: the vector engine (05): descriptors and their dispatch checks, streams, element-wise operations,
reductions, macros, gather and scatter, MX packing, the lane generators.
-/
namespace Sys2Proof.Machine

/-! ## Descriptors (R117 to R121) -/

/-- A stream descriptor (05 Table 05-5). -/
structure VStr where
  base : Nat
  fmt : Nat
  resv : Bool
  ext : Nat × Nat × Nat × Nat
  str : Int × Int × Int × Int
  deriving DecidableEq, Repr

def at4 {α : Type} (x : α × α × α × α) (d : Nat) : α :=
  match d with
  | 0 => x.1
  | 1 => x.2.1
  | 2 => x.2.2.1
  | _ => x.2.2.2

/-- Stream descriptor n of a command descriptor. -/
def VStr.of (desc : List Byte) (n : Nat) : VStr :=
  let b := subB desc (32 + 32 * n) 32
  let e (d : Nat) : Nat := recN b (4 + 2 * d) 2
  let st (d : Nat) : Int := sgn 32 (recN b (12 + 4 * d) 4)
  { base := fld (recN b 0 4) 0 23, fmt := fld (recN b 0 4) 24 4
    resv := bitAt (recN b 0 4) 23 || fld (recN b 0 4) 28 4 != 0 || recN b 28 4 != 0
    ext := (e 0, e 1, e 2, e 3), str := (st 0, st 1, st 2, st 3) }

/-- Element width in bits of a format code (Table 05-4). -/
def vecW (c : Nat) : Nat :=
  if c ≤ 1 then 16 else if c ≤ 5 then 8 else if isSix c then 6 else if c = 8 then 4
  else if c ≤ 0xA then 8 else if c ≤ 0xC then 4 else if c ≤ 0xE then 32 else 1

/-- A floating format. -/
def isFlt (c : Nat) : Bool := decide (c ≤ 8) || c == 0xD

/-- The stride in use along a dimension: an extent of 1 is read at index 0 (R120). -/
def VStr.step (v : VStr) (d : Nat) : Int := if at4 v.ext d = 1 then 0 else at4 v.str d

/-- Lowest and highest bit offset of a stream's elements, in elements of its base. -/
def VStr.reach (v : VStr) : Int × Int :=
  (List.range 4).foldl (fun (lo, hi) d =>
    let x := (((at4 v.ext d : Nat) : Int) - 1) * v.step d
    (lo + min x 0, hi + max x 0)) (0, 0)

/-- The footprint in bytes, lowest and highest (R121). -/
def VStr.foot (v : VStr) : Int × Int :=
  ((8 * (v.base : Int) + vecW v.fmt * v.reach.1) / 8, (8 * (v.base : Int) + vecW v.fmt * v.reach.2 + vecW v.fmt - 1) / 8)

def meets (x y : Int × Int) : Bool := decide (x.1 ≤ y.2 ∧ y.1 ≤ x.2)

/-- Index along dimension d of the iteration point e over extents I (R120). -/
def idxOf (i : Nat × Nat × Nat × Nat) (e d : Nat) : Nat :=
  match d with
  | 0 => e % i.1
  | 1 => e / i.1 % i.2.1
  | 2 => e / (i.1 * i.2.1) % i.2.2.1
  | _ => e / (i.1 * i.2.1 * i.2.2.1)

def prod4 (i : Nat × Nat × Nat × Nat) : Nat := i.1 * i.2.1 * i.2.2.1 * i.2.2.2

/-- Bit address of a stream's element at iteration point e over extents I (R119). -/
def VStr.bit (v : VStr) (i : Nat × Nat × Nat × Nat) (e : Nat) : Nat :=
  (8 * (v.base : Int) + (vecW v.fmt : Nat) * ((List.range 4).foldl (fun (a : Int) d => a + ((idxOf i e d : Nat) : Int) * v.step d) 0)).toNat

/-- Bit address of element j of a table by the flattening of its own extents (R131). -/
def VStr.tabBit (v : VStr) (j : Nat) : Nat := v.bit v.ext j

/-- Header fields (Table 05-3). -/
def vhOp (d : List Byte) : Nat := recN d 0 1
def vhRound (d : List Byte) : Nat := fld (recN d 1 1) 0 2
def vhSum (d : List Byte) : Nat := fld (recN d 1 1) 2 3
def vhDim (d : List Byte) : Nat := fld (recN d 2 1) 0 2
def vhBias (d : List Byte) : Bool := bitAt (recN d 2 1) 2
def vhGamma (d : List Byte) : Bool := bitAt (recN d 2 1) 3
def vhEps (d : List Byte) : Nat := recN d 4 4
def vhStat (d : List Byte) : Nat := fld (recN d 8 4) 0 23
def vhStatEn (d : List Byte) : Bool := bitAt (recN d 8 4) 31

/-- Inputs of a VMAP operation (Table 05-6). -/
def vmapIns (op : Nat) : Nat :=
  if op = 4 ∨ op = 5 ∨ op = 0x10 then 3
  else if op = 1 ∨ op = 2 ∨ op = 3 ∨ op = 7 ∨ op = 8 ∨ op = 9 ∨ op = 0xD ∨ op = 0xE ∨ op = 0xF then 2
  else 1

/-- The input streams a command uses. -/
def vecIns (f3 f2 : Nat) (d : List Byte) : List Nat :=
  match f3 with
  | 0 => List.range (vmapIns (vhOp d))
  | 1 => [0]
  | 2 => match f2 with
    | 0 => if vhBias d then [0, 1] else [0]
    | 1 => [0] ++ (if vhGamma d then [1] else []) ++ (if vhBias d then [2] else [])
    | _ => if vhGamma d then [0, 1] else [0]
  | 3 => [0, 1]
  | 4 => []
  | _ => [0]

/-- The streams whose extents the iteration follows (R120, R131, R132). -/
def vecIter (f3 f2 : Nat) (d : List Byte) : List Nat :=
  match f3 with
  | 3 => if f2 = 0 then [1, 3] else [0, 1]
  | 5 => [0]
  | _ => vecIns f3 f2 d ++ [3]

/-- The iteration extents I (R120). -/
def vecExt (f3 f2 : Nat) (d : List Byte) : Nat × Nat × Nat × Nat :=
  let m (k : Nat) : Nat := (vecIter f3 f2 d).foldl (fun a n => max a (at4 (VStr.of d n).ext k)) 0
  if f3 = 5 then (m 0, m 1, 1, 1) else (m 0, m 1, m 2, m 3)

/-- Lines of a reduction or macro: how many, and iteration point j of line k along DIM. -/
def lineCount (i : Nat × Nat × Nat × Nat) (dim : Nat) : Nat := prod4 i / at4 i dim
def dimStep (i : Nat × Nat × Nat × Nat) (dim : Nat) : Nat :=
  (List.range dim).foldl (fun a d => a * at4 i d) 1
def linePoint (i : Nat × Nat × Nat × Nat) (dim k j : Nat) : Nat :=
  let p := dimStep i dim
  k / p * (p * at4 i dim) + j * p + k % p
def lineOf (i : Nat × Nat × Nat × Nat) (dim e : Nat) : Nat :=
  let p := dimStep i dim
  e / (p * at4 i dim) * p + e % p

/-- Bytes of the MX layout that VMXPACK writes (R99, R132). -/
def mxSize (f2 fmt k rows : Nat) : Nat :=
  let t := cdiv k (rowKs (fmtRow fmt))
  if f2 = 0 then cdiv rows 8 * t * mxPen fmt else cdiv rows 16 * t * mxChunk fmt

/-- Formats legal for the operation (R118; Tables 05-4, 05-6; R127, R131, R132). -/
def vecFmtsOk (f3 f2 : Nat) (d : List Byte) : Bool :=
  let f (n : Nat) : Nat := (VStr.of d n).fmt
  let used := vecIns f3 f2 d
  used.all (fun n => !isMx (f n)) && (if f3 = 5 then isMx (f 3) else !isMx (f 3)) &&
    (f3 != 0 || !decide (0x11 ≤ vhOp d ∧ vhOp d ≤ 0x15) || isFlt (f 0)) &&
    (f3 != 1 || vhOp d != 5 || f 3 == 0xE) &&
    (f3 != 3 || (f 1 == 0xE && (f2 != 2 || f 3 == 0xD))) && (f3 != 5 || isFlt (f 0))

/-- The header's own fields, and the formats and alignment of its streams (R118). -/
def vecHeadOk (f3 f2 rd : Nat) (d : List Byte) : Bool :=
  let all := vecIns f3 f2 d ++ [3]
  fld (recN d 1 1) 5 3 == 0 && fld (recN d 2 1) 4 4 == 0 && recN d 3 1 == 0 && fld (recN d 8 4) 23 8 == 0 &&
    recN d 12 20 == 0 && vhRound d != 3 && (rd == 0 || decide (vhSum d ≤ 4)) &&
    (match f3 with
      | 0 => decide (vhOp d ≤ 0x17)
      | 1 => decide (vhOp d ≤ 5)
      | _ => vhOp d == 0) &&
    all.all (fun n => !(VStr.of d n).resv) && vecFmtsOk f3 f2 d &&
    all.all (fun n => vecW (VStr.of d n).fmt < 8 || (VStr.of d n).base % (vecW (VStr.of d n).fmt / 8) == 0)

/-- Its extents: none zero, those of the iteration equal or broadcast (R118, R120). -/
def vecExtOk (f3 f2 : Nat) (d : List Byte) : Bool :=
  let i := vecExt f3 f2 d
  (vecIns f3 f2 d ++ [3]).all (fun n => (n == 3 && f3 == 5) || (List.range 4).all (fun k => at4 (VStr.of d n).ext k != 0)) &&
    (vecIter f3 f2 d).all (fun n => (n == 3 && f3 != 3) || f3 == 5 || (List.range 4).all (fun k =>
      at4 (VStr.of d n).ext k == at4 i k || (at4 (VStr.of d n).ext k == 1 && n != 3))) &&
    (f3 == 3 || f3 == 5 || (List.range 4).all (fun k =>
      at4 (VStr.of d 3).ext k == (if f3 = 1 ∧ k = vhDim d then 1 else at4 i k)))

/-- The bytes of its output, first and last. -/
def vecOut (f3 f2 : Nat) (d : List Byte) : Int × Int :=
  let out := VStr.of d 3
  let i := vecExt f3 f2 d
  if f3 = 5 then ((out.base : Int), (out.base : Int) + mxSize f2 out.fmt i.1 i.2.1 - 1) else out.foot

/-- Its footprints: inside the granary, and an input meets the output only as the same elements (R118). -/
def vecFootOk (f3 f2 : Nat) (d : List Byte) : Bool :=
  let used := vecIns f3 f2 d
  let out := VStr.of d 3
  let outFoot := vecOut f3 f2 d
  used.all (fun n => decide (0 ≤ (VStr.of d n).foot.1 ∧ (VStr.of d n).foot.2 < granSize)) &&
    decide (0 ≤ outFoot.1 ∧ outFoot.2 < granSize) &&
    used.all (fun n => !meets (VStr.of d n).foot outFoot ||
      ((f3 == 0 || f3 == 2) && (VStr.of d n).base == out.base && (VStr.of d n).fmt == out.fmt && (VStr.of d n).ext == out.ext &&
        (List.range 4).all (fun k => (VStr.of d n).step k == out.step k)))

/-- The statistics a macro writes, clear of everything else (R130). -/
def vecStatOk (f3 f2 : Nat) (d : List Byte) : Bool :=
  let stat : Int × Int := ((vhStat d : Int), (vhStat d : Int) + 8 * lineCount (vecExt f3 f2 d) (vhDim d) - 1)
  !(f3 == 2 && f2 != 0 && vhStatEn d) || (vhStat d % 8 == 0 && decide (stat.2 < granSize) && !meets stat (vecOut f3 f2 d) &&
    (vecIns f3 f2 d).all (fun n => !meets stat (VStr.of d n).foot))

/-- The dispatch check of a vector command (R118); the scale of VSOFTMAX is a positive number (R129). -/
def vecOk (f3 f2 alpha rd : Nat) (d : List Byte) : Bool :=
  vecHeadOk f3 f2 rd d && vecExtOk f3 f2 d && vecFootOk f3 f2 d && vecStatOk f3 f2 d &&
    (!(f3 == 2 && f2 == 0) || (match v32 alpha with
      | .fin n m _ => !n && m != 0
      | _ => false))

/-! ## Elements -/

/-- Read `w` bits at a bit address of the granary. -/
def Hw.vecBits (h : Hw) (g bit w : Nat) : Except Nat Nat :=
  match h.granRead g (bit / 8) ((bit % 8 + w + 7) / 8) with
  | .ok b => .ok (fld (leNat b) (bit % 8) w)
  | .error e => .error e

/-- The exact value of an element's encoding. -/
def vecVal (c w : Nat) : FVal :=
  if c = 0xD then v32 w else if c = 0xE then FVal.ofInt (sgn 32 w) else if c = 0xF then FVal.ofInt w
  else if c ≤ 8 then (elemFmt c).decode w else FVal.ofInt (elemInt c w)

/-- Range of an integer format. -/
def intRange (c : Nat) : Int × Int :=
  if c = 9 then (-128, 127) else if c = 0xA then (0, 255) else if c = 0xB then (-8, 7) else if c = 0xC then (0, 15)
  else if c = 0xF then (0, 1) else (-2147483648, 2147483647)

/-- An exact result, a little more in magnitude when `more` (a quotient cut short). -/
structure VRes where
  v : FVal
  more : Bool
  deriving DecidableEq, Repr

def VRes.widen (r : VRes) : FVal :=
  match r.v, r.more with
  | .fin n m e, true => .fin n (2 * m + 1) (e - 1)
  | v, _ => v

/-- The open bit of an exact result (notes/assumptions/13): a fixed function of it, so that equal commands agree (01 R25). -/
def maskOf (rm : Rnd) : FVal → Nat
  | .nan => (Config.maskBit rm.code true false false 0 0).toNat
  | .inf n => (Config.maskBit rm.code false true n 0 0).toNat
  | .fin n m e => (Config.maskBit rm.code false false n m e).toNat

/-- One conversion into an output format (R123, R124): the encoding and whether it saturated. A mixed-format command's
result other than 0 and 1 in a bit mask is open. -/
def vecConv (c : Nat) (rm : Rnd) (r16 : Nat) (allInt : Bool) (r : VRes) : Nat × Bool :=
  if c = 0xD then (fl32m rm r16 r.widen, false)
  else if c ≤ 8 then ((elemFmt c).encode rm r16 r.widen, false)
  else if c = 0xF && !allInt && !(r.widen.eq (FVal.ofInt 0) || r.widen.eq (FVal.ofInt 1)) then (maskOf rm r.widen, false)
  else
    let (lo, hi) := intRange c
    let (x, s) := satRange lo hi (r.widen.toInt rm r16)
    (unsgn (vecW c) x, s)
where
  fl32m (rm : Rnd) (r16 : Nat) (v : FVal) : Nat := Fmt.f32.encode rm r16 v

/-! ## Draws (R133 to R136) -/

/-- A draw for iteration point e; u is 0 for the operation draw, 1 for the rounding draw. -/
def vecDraw (h : Hw) (g : Nat) (r : VecRun) (e u : Nat) : BitVec 64 :=
  if r.stream = 2 ∨ h.regF (tileReg g 8) 0 1 = 1 then cf r.step (vecKey1 g r.stream (e % 256)) (vecKey2 r.q e u)
  else Config.laneBits (h.tile g).rngSeed (e % 256) ((h.tile g).rngN + (e / 256 * 2 + u))

/-- n of R136. -/
def normalN (d : BitVec 64) : Nat :=
  let w := d.toNat
  let c : Int := ((fld w 0 16 + fld w 16 16 + fld w 32 16 + fld w 48 16 : Nat) : Int) - 131070
  fl32 ((FVal.ofInt c).mul (v32 0x37DDB3D7))

/-- u of R136. -/
def uniformU (d : BitVec 64) : FVal := .fin false (fld d.toNat 40 24) (-24)

/-! ## VMAP (R122 to R125) -/

def fBool (b : Bool) : FVal := if b then .fin false 1 0 else .zero

/-- SELECT's truth (R123). -/
def fTrue : FVal → Bool
  | .fin _ m _ => m != 0
  | _ => true

/-- An approximation's input as fp32: every floating input converts exactly. -/
def approxOf (op x : Nat) : Nat :=
  if op = 0x11 then exp32 x else if op = 0x12 then log32 x else if op = 0x13 then rcp32 x
  else if op = 0x14 then rsqrt32 x else tanh32 x

/-- The exact result of one element (Table 05-6). -/
def vmapVal (op : Nat) (a b c al be : FVal) (drop : Bool) (n : Nat) : FVal :=
  match op with
  | 0x00 => a
  | 0x01 => a.add b
  | 0x02 => a.sub b
  | 0x03 => a.mul b
  | 0x04 => (a.mul b).add c
  | 0x05 => c.sub (a.mul b)
  | 0x06 => (al.mul a).add be
  | 0x07 => (al.mul a).add b
  | 0x08 => a.max b
  | 0x09 => a.min b
  | 0x0A => a.abs
  | 0x0B => a.neg
  | 0x0C => (a.max al).min be
  | 0x0D => fBool (a.eq b)
  | 0x0E => fBool (a.lt b)
  | 0x0F => fBool (a.lt b || a.eq b)
  | 0x10 => if fTrue a then b else c
  | 0x16 => if drop then .zero else a.mul be
  | 0x17 => a.add (al.mul (v32 n))
  | _ => v32 (approxOf op (fl32 a))

/-! ## The line rule (R126) -/

/-- Partial j over the line: every sixteenth element from j. -/
def linePartial (xs : List Nat) (j : Nat) : Pair :=
  match (List.range xs.length).filterMap (fun i => if i % 16 = j then xs[i]? else none) with
  | [] => ⟨0, 0⟩
  | x :: rest => rest.foldl Pair.acc ⟨x, 0⟩

def lineRule (xs : List Nat) : Pair :=
  match (List.range (min xs.length 16)).map (linePartial xs) with
  | [] => ⟨0, 0⟩
  | p :: ps => ps.foldl Pair.comb p

/-- (s + e) / n as an exact quotient. -/
def Pair.overN (p : Pair) (n : Nat) : VRes :=
  match v32 p.s with
  | .fin _ _ _ => match divVal p.val (FVal.ofInt n) with
    | (v, st) => ⟨v, st⟩
  | v => ⟨v, false⟩

def fl32r (r : VRes) : Nat := fl32 r.widen

/-- Index of the first NaN, or else of the first largest value (Table 05-7). DESIGN CHOICE (notes/assumptions/77): where the largest
values are −0 and +0, the +0 is the larger, as for MAX (R123). -/
def argMax (vs : List FVal) : Nat :=
  match vs.findIdx? FVal.isNan with
  | some i => i
  | none => match vs with
    | [] => 0
    | v :: _ =>
      let m := vs.foldl FVal.max v
      (vs.findIdx? (fun x => x.eq m && (x.isNeg == m.isNeg))).getD 0

def isIntFmt (c : Nat) : Bool := !isFlt c

/-- VRED's exact result for a line of encodings (R126, R127). -/
def vredVal (op c : Nat) (ws : List Nat) : VRes :=
  let vs := ws.map (vecVal c)
  let is : List Int := ws.map (fun w => (vecVal c w).toInt .nearest 0)
  let n := ws.length
  match op with
  | 1 => ⟨(vs.drop 1).foldl FVal.max (vs.headD .zero), false⟩
  | 2 => ⟨(vs.drop 1).foldl FVal.min (vs.headD .zero), false⟩
  | 5 => ⟨FVal.ofInt (argMax vs), false⟩
  | _ =>
    if isIntFmt c then
      let s := is.foldl (fun a x => a + (if op = 3 then x * x else x)) 0
      if op = 4 then match divVal (FVal.ofInt s) (FVal.ofInt n) with
        | (v, st) => ⟨v, st⟩
      else ⟨FVal.ofInt s, false⟩
    else
      let xs := vs.map fl32
      let p := lineRule (if op = 3 then xs.map (fun x => fmul x x) else xs)
      if op = 4 then p.overN n
      else ⟨(match v32 p.s with
        | .fin _ _ _ => p.val
        | v => v), false⟩

/-! ## Macros (R129, R130) -/

/-- What pass 1 and 2 leave for a line: for softmax m and RCP(s); for the normalisations μ and r. -/
def softmaxLine (ts : List Nat) : Nat × Nat :=
  let m := (ts.drop 1).foldl fmax (ts.headD 0)
  let es := ts.map (fun t => exp32 (fsub t m))
  (m, rcp32 (lineRule es).round32)

def softmaxOut (m rc t : Nat) : FVal :=
  if m = 0xFF800000 then .zero
  else if m = 0x7F800000 ∨ (v32 m).isNan then .nan
  else (v32 (exp32 (fsub t m))).mul (v32 rc)

def normLine (rms : Bool) (eps : Nat) (xs : List Nat) : Nat × Nat :=
  let n := xs.length
  let mu := if rms then 0 else fl32r ((lineRule xs).overN n)
  let ds := if rms then xs else xs.map (fun x => fsub x mu)
  let v := fl32r ((lineRule (ds.map (fun d => fmul d d))).overN n)
  (mu, rsqrt32 (fadd v eps))

def normOut (rms : Bool) (mu r x : Nat) (ga be : FVal) : FVal :=
  if rms then (v32 (fmul x r)).mul ga else ((v32 (fmul (fsub x mu) r)).mul ga).add be

/-! ## Running a command -/

/-- A run of bytes being gathered for the write port: where it starts, its bytes in reverse, how many. -/
structure VBuf where
  start : Nat
  rev : List Byte
  len : Nat

def VBuf.flush (g : Nat) (b : VBuf) (h : Hw) : Hw := h.granWrite g b.start b.rev.reverse

/-- Put one element of w bits at a bit address; the other bits of its bytes stay (R121). -/
def vecPut (g : Nat) (x : VBuf × Hw) (bit w v : Nat) : VBuf × Hw :=
  let (b, h) := x
  let k := bit / 8
  if 8 ≤ w then
    let bs := (toLE (w / 8) v).reverse
    if k = b.start + b.len then (⟨b.start, bs ++ b.rev, b.len + w / 8⟩, h)
    else (⟨k, bs, w / 8⟩, b.flush g h)
  else
    let lay (old : Byte) : Byte := BitVec.ofNat 8 (putF old.toNat (bit % 8) w v)
    match b.rev with
    | y :: ys =>
      if k + 1 = b.start + b.len then (⟨b.start, lay y :: ys, b.len⟩, h)
      else if k = b.start + b.len then (⟨b.start, lay (h.memS.mem.byte (granBase g + k)) :: y :: ys, b.len + 1⟩, h)
      else
        let h := b.flush g h
        (⟨k, [lay (h.memS.mem.byte (granBase g + k))], 1⟩, h)
    | [] => (⟨k, [lay (h.memS.mem.byte (granBase g + k))], 1⟩, h)

/-- Write elements (bit address, width, encoding) in order. -/
def Hw.vecStore (h : Hw) (g : Nat) (ws : List (Nat × Nat × Nat)) : Hw :=
  let r := ws.foldl (fun x w => vecPut g x w.1 w.2.1 w.2.2) (⟨0, [], 0⟩, h)
  r.1.flush g r.2

/-- What a command's element loop has so far: writes, their encodings for the summary, saturations, index faults. -/
structure VAcc where
  ws : List (Nat × Nat × Nat)
  encs : List Nat
  nsat : Nat
  oor : Bool
  deriving DecidableEq, Repr

def VAcc.init : VAcc := ⟨[], [], 0, false⟩

/-- Run `f` over the points in order until one meets an uncorrectable word. Writes gather in reverse. -/
def vecLoop (f : Nat → Except Nat (List (Nat × Nat × Nat) × Option Nat × Bool × Bool)) :
    List Nat → VAcc → VAcc × Option Nat
  | [], a => (a, none)
  | e :: es, a => match f e with
    | .error x => (a, some x)
    | .ok (w, enc, sat, oor) =>
      vecLoop f es ⟨w.reverse ++ a.ws, (match enc with
        | some v => v :: a.encs
        | none => a.encs), if sat then a.nsat + 1 else a.nsat, a.oor || oor⟩

/-- Read a list of elements. -/
def readAll (rd : Nat → Except Nat Nat) : List Nat → Except Nat (List Nat)
  | [] => .ok []
  | e :: es => match rd e with
    | .error x => .error x
    | .ok v => match readAll rd es with
      | .error x => .error x
      | .ok vs => .ok (v :: vs)

/-- The summary of the encodings written, in e order (R128). -/
def vecSummary (kind c : Nat) (val : Nat → FVal) (encs : List Nat) : Word :=
  let vs := encs.map val
  let is := vs.map (fun v => v.toInt .nearest 0)
  BitVec.ofNat 64 (match kind with
    | 0 => if isFlt c then fl32 ((vs.drop 1).foldl FVal.max (vs.headD .zero)) else unsgn 64 (is.foldl max (is.headD 0))
    | 1 => if isFlt c then (lineRule (vs.map fl32)).round32 else unsgn 64 (is.foldl (· + ·) 0)
    | 2 => vs.countP (fun v => !v.isFinite)
    | 3 => argMax vs
    | _ => if encs.all (fun x => x == encs.headD 0) then 1 else 0)

/-- The bytes of the granary a command's elements are read from, as (offset, bytes). -/
def Hw.vecReads (h : Hw) (g f3 f2 : Nat) (d : List Byte) : List (Nat × Nat) :=
  let i := vecExt f3 f2 d
  let at_ (v : VStr) (b : Nat) : Nat × Nat := (b / 8, (b % 8 + vecW v.fmt + 7) / 8)
  let all (n : Nat) : List (Nat × Nat) := (List.range (prod4 i)).map (fun e => at_ (VStr.of d n) ((VStr.of d n).bit i e))
  let tab (n : Nat) : List (Nat × Nat) := (List.range (prod4 i)).filterMap (fun e =>
    match h.vecBits g ((VStr.of d 1).bit i e) 32 with
    | .ok w => if 0 ≤ sgn 32 w ∧ sgn 32 w < (prod4 (VStr.of d n).ext : Nat) then
        some (at_ (VStr.of d n) ((VStr.of d n).tabBit (sgn 32 w).toNat)) else none
    | .error _ => none)
  if f3 = 3 then (if f2 = 0 then all 1 ++ tab 0 else if f2 = 1 then all 0 ++ all 1 else all 0 ++ all 1 ++ tab 3)
  else (vecIns f3 f2 d).flatMap all

/-- Correctable errors its elements meet are corrected (06 R144). -/
def Hw.vecFix (h : Hw) (g : Nat) (r : VecRun) : Hw :=
  if h.memS.mem.soft = [] then h else (h.vecReads g r.f3 r.f2 r.desc).foldl (fun h x => h.granFix g x.1 x.2) h

/-- The end of a run: what was written before an uncorrectable word stays and the stream faults with cause 0x0A (R139);
otherwise the command's effects are in place, to complete by COMMAND_COMPLETE. -/
def Hw.vecEnd (h : Hw) (g : Nat) (r : VecRun) (a : VAcc) (err : Option Nat) (n set1 : Nat) (sum : Word) : Hw :=
  let h := (h.vecFix g r).vecStore g a.ws.reverse
  let st := tileReg g (0x708 + 8 * r.stream)
  let h := if 0 < a.nsat then (h.setRegF st 1 1 1).countTile g 1 15 a.nsat else h
  let h := if a.oor then h.setRegF st 0 1 1 else h
  let h := (h.countTile g 0 8 n).countTile g 1 set1 n
  let h := h.modTile g (fun t => { t with rngN := t.rngN + 2 * (n / 256 + 1) })
  match err with
  | none => h.modTile g (fun t => { t with vec := some { r with done := true, sum := sum } })
  | some x =>
    let pc := match (h.stream g r.stream).live.find? (·.seq == r.seq) with
      | some c => c.pc
      | none => 0
    (((h.bump (tileReg g 0xCC0) 32 16 1).modTile g (fun t => { t with vec := none })).streamUncorr g r.stream pc 0x05
      (srcOf (g / 10) 5 (g % 10)) x [(40, 1, 0)] none).endFaulted g r.stream r.seq

/-- An exact result converted to an output element's encoding, and whether it saturated (R124, R134). -/
def Hw.vecElem (h : Hw) (g : Nat) (r : VecRun) (allInt : Bool) (e : Nat) (v : VRes) : Nat × Bool :=
  let rm := rndOf (vhRound r.desc)
  vecConv (VStr.of r.desc 3).fmt rm (if rm = .stochastic then (vecDraw h g r e 1).toNat % 65536 else 0) allInt v

/-- A command over points with one output element each: VMAP, VRED, macros, VRAND, VGATHER. `val` gives the exact result
at a point and whether an index was out of range. -/
def Hw.vecOut (h : Hw) (g : Nat) (r : VecRun) (i : Nat × Nat × Nat × Nat) (n : Nat) (pre : List (Nat × Nat × Nat))
    (allInt : Bool) (elems set1 : Nat) (val : Nat → Except Nat (VRes × Bool)) : Hw :=
  let out := VStr.of r.desc 3
  let f (e : Nat) : Except Nat (List (Nat × Nat × Nat) × Option Nat × Bool × Bool) :=
    match val e with
    | .error x => .error x
    | .ok (v, oor) =>
      let (enc, sat) := h.vecElem g r allInt e v
      .ok ([(out.bit i e, vecW out.fmt, enc)], some enc, sat, oor)
  let (a, err) := vecLoop f (List.range n) { VAcc.init with ws := pre }
  h.vecEnd g r a err elems set1 (vecSummary (vhSum r.desc) out.fmt (vecVal out.fmt) a.encs.reverse)

/-- The command on the engine, when its opcode is the one named and it has not run yet. -/
def Hw.vecCur (h : Hw) (g f3 f2 : Nat) : Option VecRun :=
  match (h.tile g).vec with
  | some r => if r.f3 = f3 ∧ r.f2 = f2 ∧ !r.done then some r else none
  | none => none

/-- An input element's value at a point. -/
def Hw.vecIn (h : Hw) (g : Nat) (st : VStr) (i : Nat × Nat × Nat × Nat) (e : Nat) : Except Nat FVal :=
  match h.vecBits g (st.bit i e) (vecW st.fmt) with
  | .ok w => .ok (vecVal st.fmt w)
  | .error x => .error x

/-- All streams of a VMAP are integer (R122). -/
def vmapInt (d : List Byte) : Bool := (vecIns 0 0 d ++ [3]).all (fun k => isIntFmt (VStr.of d k).fmt)

/-- VMAP's exact result at a point (R122, R123). -/
def vmapAt (h : Hw) (g : Nat) (r : VecRun) (e : Nat) : Except Nat (VRes × Bool) :=
  let d := r.desc
  let op := vhOp d
  let sc (w : Nat) : FVal := if vmapInt d then FVal.ofInt (sgn 32 w) else v32 w
  let inp (k : Nat) : Except Nat FVal := if k < vmapIns op then h.vecIn g (VStr.of d k) (vecExt 0 0 d) e else .ok .zero
  match inp 0, inp 1, inp 2 with
  | .ok a, .ok b, .ok c =>
    let dr := vecDraw h g r e 0
    .ok (⟨vmapVal op a b c (sc r.alpha) (sc r.beta) (decide (fld dr.toNat 0 32 < r.alpha)) (normalN dr), false⟩, false)
  | .error x, _, _ => .error x
  | _, .error x, _ => .error x
  | _, _, .error x => .error x

/-- VMAP (R122 to R124). -/
def runVmap (g : Nat) (h : Hw) : Hw :=
  match h.vecCur g 0 0 with
  | none => h
  | some r =>
    let i := vecExt 0 0 r.desc
    h.vecOut g r i (prod4 i) [] (vmapInt r.desc) (prod4 i) 8 (vmapAt h g r)

/-- The extents of VRED's output: 1 along the reduced dimension (R127). -/
def vredExt (d : List Byte) : Nat × Nat × Nat × Nat :=
  let i := vecExt 1 0 d
  let dim := vhDim d
  (if dim = 0 then 1 else i.1, if dim = 1 then 1 else i.2.1, if dim = 2 then 1 else i.2.2.1, if dim = 3 then 1 else i.2.2.2)

def vredInt (d : List Byte) : Bool := isIntFmt (VStr.of d 0).fmt && isIntFmt (VStr.of d 3).fmt

/-- VRED's exact result of a line (R127). -/
def vredAt (h : Hw) (g : Nat) (r : VecRun) (k : Nat) : Except Nat (VRes × Bool) :=
  let d := r.desc
  let i := vecExt 1 0 d
  let st := VStr.of d 0
  match readAll (fun j => h.vecBits g (st.bit i (linePoint i (vhDim d) k j)) (vecW st.fmt)) (List.range (at4 i (vhDim d))) with
  | .ok ws => .ok (vredVal (vhOp d) st.fmt ws, false)
  | .error x => .error x

/-- VRED (R127). -/
def runVred (g : Nat) (h : Hw) : Hw :=
  match h.vecCur g 1 0 with
  | none => h
  | some r =>
    let i := vecExt 1 0 r.desc
    h.vecOut g r (vredExt r.desc) (lineCount i (vhDim r.desc)) [] (vredInt r.desc) (prod4 i) 9 (vredAt h g r)

/-- The fp32 value a macro's line holds at a point: x, or softmax's t (R129, R130). -/
def macroIn (h : Hw) (g f2 : Nat) (r : VecRun) (e : Nat) : Except Nat Nat :=
  let d := r.desc
  let i := vecExt 2 f2 d
  match h.vecIn g (VStr.of d 0) i e with
  | .error y => .error y
  | .ok v =>
    if f2 = 0 then
      if vhBias d then match h.vecIn g (VStr.of d 1) i e with
        | .error y => .error y
        | .ok b => .ok (fl32 (((v32 r.alpha).mul v).add b))
      else .ok (fl32 (((v32 r.alpha).mul v).add .zero))
    else .ok (fl32 v)

/-- The statistics pass 1 leaves of a macro's line (R129, R130). -/
def macroLine (h : Hw) (g f2 : Nat) (r : VecRun) (k : Nat) : Except Nat (Nat × Nat) :=
  let d := r.desc
  let i := vecExt 2 f2 d
  match readAll (macroIn h g f2 r) ((List.range (at4 i (vhDim d))).map (linePoint i (vhDim d) k)) with
  | .error y => .error y
  | .ok xs => .ok (if f2 = 0 then softmaxLine xs else normLine (f2 == 2) (vhEps d) xs)

/-- The statistics a norm writes, where its descriptor asks for them (R130). -/
def macroStats (f2 : Nat) (r : VecRun) (left : Nat → Nat × Nat) : List (Nat × Nat × Nat) :=
  if f2 ≠ 0 ∧ vhStatEn r.desc = true then
    (List.range (lineCount (vecExt 2 f2 r.desc) (vhDim r.desc))).map (fun k =>
      (8 * (vhStat r.desc + 8 * k), 64, (left k).1 + (left k).2 * 2 ^ 32))
  else []

/-- A macro's exact result at a point of a line with these statistics (R129, R130). -/
def macroAt (h : Hw) (g f2 : Nat) (r : VecRun) (left : Nat → Nat × Nat) (e : Nat) : Except Nat (VRes × Bool) :=
  let d := r.desc
  let i := vecExt 2 f2 d
  let p := left (lineOf i (vhDim d) e)
  let ga := if f2 ≠ 0 ∧ vhGamma d = true then h.vecIn g (VStr.of d 1) i e else .ok (.fin false 1 0)
  let be := if f2 = 1 ∧ vhBias d = true then h.vecIn g (VStr.of d 2) i e else .ok .zero
  match macroIn h g f2 r e, ga, be with
  | .ok t, .ok ga, .ok be => .ok (⟨if f2 = 0 then softmaxOut p.1 p.2 t else normOut (f2 == 2) p.1 p.2 t ga be, false⟩, false)
  | .error y, _, _ => .error y
  | _, .error y, _ => .error y
  | _, _, .error y => .error y

/-- A macro: pass 1 over its lines, then the statistics and the outputs (R128 to R130). -/
def runMacro (f2 g : Nat) (h : Hw) : Hw :=
  match h.vecCur g 2 f2 with
  | none => h
  | some r =>
    let i := vecExt 2 f2 r.desc
    let ls := (List.range (lineCount i (vhDim r.desc))).map (macroLine h g f2 r)
    match ls.findSome? (fun l => match l with
      | .error y => some y
      | .ok _ => none) with
    | some y => h.vecEnd g r VAcc.init (some y) (prod4 i) 9 0
    | none =>
      let left (k : Nat) : Nat × Nat := match ls[k]? with
        | some (.ok p) => p
        | _ => (0, 0)
      h.vecOut g r i (prod4 i) (macroStats f2 r left).reverse false (prod4 i) 9 (macroAt h g f2 r left)

def runVsoftmax (g : Nat) (h : Hw) : Hw := runMacro 0 g h
def runVlnorm (g : Nat) (h : Hw) : Hw := runMacro 1 g h
def runVrmsnorm (g : Nat) (h : Hw) : Hw := runMacro 2 g h

/-- VRAND's exact result at a point (R136). -/
def vrandAt (h : Hw) (g f2 : Nat) (r : VecRun) (e : Nat) : Except Nat (VRes × Bool) :=
  let al := v32 r.alpha
  let be := v32 r.beta
  let dr := vecDraw h g r e 0
  let v := match f2 with
    | 0 => al.add ((v32 (fsub r.beta r.alpha)).mul (uniformU dr))
    | 1 => al.add (be.mul (v32 (normalN dr)))
    | _ => fBool (decide (fld dr.toNat 0 32 < r.alpha))
  .ok (⟨v, false⟩, false)

/-- VRAND (R136). -/
def runVrand (f2 g : Nat) (h : Hw) : Hw :=
  match h.vecCur g 4 f2 with
  | none => h
  | some r =>
    let i := vecExt 4 f2 r.desc
    h.vecOut g r i (prod4 i) [] false (prod4 i) 11 (vrandAt h g f2 r)

def runVrandUniform (g : Nat) (h : Hw) : Hw := runVrand 0 g h
def runVrandNormal (g : Nat) (h : Hw) : Hw := runVrand 1 g h
def runVrandBernoulli (g : Nat) (h : Hw) : Hw := runVrand 2 g h

def vgatherInt (d : List Byte) : Bool := isIntFmt (VStr.of d 0).fmt && isIntFmt (VStr.of d 3).fmt

/-- VGATHER's exact result at a point, and whether its index was out of range (R131). -/
def vgatherAt (h : Hw) (g : Nat) (r : VecRun) (e : Nat) : Except Nat (VRes × Bool) :=
  let tab := VStr.of r.desc 0
  match h.vecBits g ((VStr.of r.desc 1).bit (vecExt 3 0 r.desc) e) 32 with
  | .error x => .error x
  | .ok w =>
    let j := sgn 32 w
    if 0 ≤ j ∧ j < (prod4 tab.ext : Nat) then
      match h.vecBits g (tab.tabBit j.toNat) (vecW tab.fmt) with
      | .error x => .error x
      | .ok v => .ok (⟨vecVal tab.fmt v, false⟩, false)
    else .ok (⟨.zero, false⟩, true)

/-- VGATHER (R131). -/
def runVgather (g : Nat) (h : Hw) : Hw :=
  match h.vecCur g 3 0 with
  | none => h
  | some r =>
    let i := vecExt 3 0 r.desc
    h.vecOut g r i (prod4 i) [] (vgatherInt r.desc) (prod4 i) 10 (vgatherAt h g r)

/-- What VSCATTER does at a point: the element written, whether it saturated, whether its index was out of range (R131). -/
def vscatterAt (h : Hw) (g : Nat) (r : VecRun) (e : Nat) : Except Nat (List (Nat × Nat × Nat) × Option Nat × Bool × Bool) :=
  let d := r.desc
  let i := vecExt 3 1 d
  let src := VStr.of d 0
  let ix := VStr.of d 1
  let tab := VStr.of d 3
  match h.vecBits g (src.bit i e) (vecW src.fmt), h.vecBits g (ix.bit i e) 32 with
  | .ok v, .ok w =>
    let j := sgn 32 w
    if 0 ≤ j ∧ j < (prod4 tab.ext : Nat) then
      let (enc, sat) := h.vecElem g r (isIntFmt src.fmt && isIntFmt tab.fmt) e ⟨vecVal src.fmt v, false⟩
      .ok ([(tab.tabBit j.toNat, vecW tab.fmt, enc)], none, sat, false)
    else .ok ([], none, false, true)
  | .error x, _ => .error x
  | _, .error x => .error x

/-- VSCATTER (R131). -/
def runVscatter (g : Nat) (h : Hw) : Hw :=
  match h.vecCur g 3 1 with
  | none => h
  | some r =>
    let n := prod4 (vecExt 3 1 r.desc)
    let (a, err) := vecLoop (vscatterAt h g r) (List.range n) VAcc.init
    h.vecEnd g r a err n 10 0

/-- The additions of VSCATADD, one point after another on the table (R131). -/
def scatAdd (g : Nat) (i : Nat × Nat × Nat × Nat) (src ix tab : VStr) : List Nat → Hw → Bool → Hw × Bool × Option Nat
  | [], h, oor => (h, oor, none)
  | e :: es, h, oor =>
    match h.vecBits g (src.bit i e) (vecW src.fmt), h.vecBits g (ix.bit i e) 32 with
    | .ok v, .ok w =>
      let j := sgn 32 w
      if 0 ≤ j ∧ j < (prod4 tab.ext : Nat) then
        match h.vecBits g (tab.tabBit j.toNat) 32 with
        | .error x => (h, oor, some x)
        | .ok t =>
          scatAdd g i src ix tab es
            (h.vecStore g [(tab.tabBit j.toNat, 32, fl32 ((v32 t).add (vecVal src.fmt v)))]) oor
      else scatAdd g i src ix tab es h true
    | .error x, _ => (h, oor, some x)
    | _, .error x => (h, oor, some x)

/-- VSCATADD (R131). -/
def runVscatadd (g : Nat) (h : Hw) : Hw :=
  match h.vecCur g 3 2 with
  | none => h
  | some r =>
    let i := vecExt 3 2 r.desc
    let (h, oor, err) :=
      scatAdd g i (VStr.of r.desc 0) (VStr.of r.desc 1) (VStr.of r.desc 3) (List.range (prod4 i)) h false
    h.vecEnd g r ⟨[], [], 0, oor⟩ err (prod4 i) 10 0

/-! ## VMXPACK (R132) -/

/-- emax of an MX element format. -/
def mxEmax (c : Nat) : Int := if c = 4 then 8 else if c = 5 then 15 else if c = 6 then 4 else 2

/-- ⌊log2⌋ of the largest magnitude of a block; none for a zero block, an error for a block with a NaN or an infinity. -/
def mxAmax (vs : List FVal) : Except Unit (Option Int) :=
  vs.foldl (fun a v => match a, v with
    | .error u, _ => .error u
    | .ok o, .fin _ m e =>
      if m = 0 then .ok o
      else
        let l : Int := (Nat.log2 m : Int) + e
        .ok (match o with
          | none => some l
          | some k => some (max k l))
    | _, _ => .error ()) (.ok none)

/-- Scale byte of a block. -/
def mxScale (c : Nat) (vs : List FVal) : Nat :=
  match mxAmax vs with
  | .error _ => 0xFF
  | .ok none => 0x7F
  | .ok (some l) => (max 0 (min 254 (l - mxEmax c + 127))).toNat

/-- An element of a block under its scale, and whether it was clamped to the largest finite value. -/
def mxElem (c : Nat) (rm : Rnd) (r16 scale : Nat) (v : FVal) : Nat × Bool :=
  if scale = 0xFF then (0, false)
  else
    let f := elemFmt c
    match v.scale (127 - (scale : Int)) with
    | .fin n m e =>
      let enc := (Fmt.mk (f.eb + 1) f.mb f.bias .plain).roundMag rm r16 m e false
      (f.signBit n + min enc f.maxFin, decide (f.maxFin < enc))
    | _ => (0, false)

/-- Pack bits of elements, lowest first, into `n` bytes. -/
def packBits (w n : Nat) (es : List Nat) : List Byte :=
  toLE n (es.foldr (fun e a => e + a * 2 ^ w) 0)

/-- The values of block `b` of a row, 32 elements along K (R132). -/
def vmxVals (h : Hw) (g f2 : Nat) (r : VecRun) (row b : Nat) : Except Nat (List FVal) :=
  let i := vecExt 5 f2 r.desc
  (List.range (min 32 (i.1 - 32 * b))).foldr (fun x a => match h.vecIn g (VStr.of r.desc 0) i (32 * b + x + i.1 * row), a with
    | .ok v, .ok vs => .ok (v :: vs)
    | .error y, _ => .error y
    | _, .error y => .error y) (.ok [])

/-- One row of one K-step of a VMXPACK: element encodings with their clamps, and the scale (R132). -/
def vmxRow (h : Hw) (g f2 : Nat) (r : VecRun) (row q : Nat) : Except Nat (List (Nat × Bool) × Nat) :=
  let d := r.desc
  let i := vecExt 5 f2 d
  let k := i.1
  let c := (VStr.of d 3).fmt
  let ks := rowKs (fmtRow c)
  let rm := rndOf (vhRound d)
  if i.2.1 ≤ row then .ok (List.replicate ks (0, false), 0x7F)
  else match vmxVals h g f2 r row (q * ks / 32) with
    | .error y => .error y
    | .ok vs =>
      let s := mxScale c vs
      .ok ((List.range ks).map (fun x =>
        let kk := q * ks + x
        match vs[kk % 32]? with
        | some v =>
          let r16 := if rm = .stochastic then (vecDraw h g r (kk + k * row) 1).toNat % 65536 else 0
          mxElem c rm r16 s v
        | none => (0, false)), s)

/-- The parts when all are good, else the first error. -/
def readParts {α : Type} : List (Except Nat α) → Except Nat (List α)
  | [] => .ok []
  | .error y :: _ => .error y
  | .ok x :: ps => match readParts ps with
    | .error y => .error y
    | .ok xs => .ok (x :: xs)

/-- K-steps of a row, rows of a block, and blocks of a VMXPACK (R132). -/
def vmxSteps (f2 : Nat) (d : List Byte) : Nat := cdiv (vecExt 5 f2 d).1 (rowKs (fmtRow (VStr.of d 3).fmt))
def vmxPer (f2 : Nat) : Nat := if f2 = 0 then 8 else 16
def vmxBlocks (f2 : Nat) (d : List Byte) : Nat := cdiv (vecExt 5 f2 d).2.1 (vmxPer f2) * vmxSteps f2 d

/-- The bytes of one block of a VMXPACK's layout, written as one field (R132). -/
def vmxBlock (h : Hw) (g f2 : Nat) (r : VecRun) (b : Nat) : Except Nat (List (Nat × Nat × Nat) × Option Nat × Bool × Bool) :=
  let d := r.desc
  let out := VStr.of d 3
  let c := out.fmt
  let t := vmxSteps f2 d
  match readParts ((List.range (vmxPer f2)).map (fun x => vmxRow h g f2 r (b / t * vmxPer f2 + x) (b % t))) with
  | .error y => .error y
  | .ok ps =>
    let data := ps.flatMap (fun p => packBits (vecW c) (rowKs (fmtRow c) * vecW c / 8) (p.1.map (·.1)))
    let bs := data ++ subB (ps.map (fun p => BitVec.ofNat 8 p.2)) 0 32
    .ok ([(8 * (out.base + b * bs.length), 8 * bs.length, leNat bs)], none, false, false)

/-- The elements a VMXPACK writes in e order, each with its clamp and its scale. -/
def vmxEls (h : Hw) (g f2 : Nat) (r : VecRun) : List ((Nat × Bool) × Nat) :=
  let i := vecExt 5 f2 r.desc
  let ks := rowKs (fmtRow (VStr.of r.desc 3).fmt)
  (List.range i.2.1).flatMap (fun row => (List.range i.1).map (fun x => match vmxRow h g f2 r row (x / ks) with
    | .ok (es, s) => ((es[x % ks]?).getD (0, false), s)
    | .error _ => ((0, false), 0x7F)))

/-- A VMXPACK's summary over its elements (R128, R132). -/
def vmxSum (d : List Byte) (els : List ((Nat × Bool) × Nat)) : Word :=
  let c := (VStr.of d 3).fmt
  let val (p : Nat) : FVal := if p / 256 = 0xFF then .nan else ((elemFmt c).decode (p % 256)).scale ((p / 256 : Nat) - 127)
  if vhSum d = 4 then
    BitVec.ofNat 64 (if els.all (fun e => e.1.1 == (els.headD ((0, false), 0)).1.1) then 1 else 0)
  else vecSummary (vhSum d) 0xD val (els.map (fun e => e.1.1 + 256 * e.2))

/-- VMXPACK: the layout's bytes block by block (R132); the clamps of the blocks written count, the stop's included (R124). -/
def runVmxpack (f2 g : Nat) (h : Hw) : Hw :=
  match h.vecCur g 5 f2 with
  | none => h
  | some r =>
    let d := r.desc
    let i := vecExt 5 f2 d
    let t := vmxSteps f2 d
    let (a, err) := vecLoop (vmxBlock h g f2 r) (List.range (vmxBlocks f2 d)) VAcc.init
    let nsat := (List.range a.ws.length).foldl (fun n b => (List.range (vmxPer f2)).foldl (fun n x =>
      match vmxRow h g f2 r (b / t * vmxPer f2 + x) (b % t) with
      | .ok (es, _) => n + es.countP (·.2)
      | .error _ => n) n) 0
    h.vecEnd g r { a with nsat := nsat } err (i.2.1 * i.1) 11 (vmxSum d (vmxEls h g f2 r))

def runVmxpackPen (g : Nat) (h : Hw) : Hw := runVmxpack 0 g h
def runVmxpackChunk (g : Nat) (h : Hw) : Hw := runVmxpack 1 g h

/-! ## Dispatch and the seed -/

/-- A vector command dispatches: the descriptor is read and checked (R117, R118). -/
def Hw.startVec (h : Hw) (g s : Nat) (c : QCmd) (f3 f2 off alpha beta rd q : Nat) : Hw :=
  match h.granRead g off 160 with
  | .error b => ((h.bump (tileReg g 0xCC0) 32 16 1).streamUncorr g s c.pc 0x05 (srcOf (g / 10) 5 (g % 10)) b
      [(40, 1, 0)] none).endFaulted g s c.seq
  | .ok d =>
    let h := h.granFix g off 160
    if vecOk f3 f2 alpha rd d then
      h.modTile g (fun t => { t with vec := some {
        stream := s, seq := c.seq, f3 := f3, f2 := f2, desc := d, alpha := alpha, beta := beta, rd := rd
        step := (t.stream s).step, q := q, done := false, sum := 0 } })
    else (h.streamFault g s 0x03 0x0D c.pc).endFaulted g s c.seq

/-- All three streams idle: the Idle condition of most tile registers. -/
def Tile.allIdle (t : Tile) : Bool := (List.range 3).all (fun s => (t.stream s).st == .idle)

end Sys2Proof.Machine
end

