-- ==== Sys2Proof/Machine/Carts.lean ====
section
/-!
DEFINITION. Carts.lean: the carts of a tile (06 R145 to R151) and the access window of a granary (R156).
-/
namespace Sys2Proof.Machine

/-! ## Descriptor fields (06 Table 06-2) -/

def cdOp (d : List Byte) : Nat := fld (recN d 0 4) 0 4
def cdHint (d : List Byte) : Nat := fld (recN d 0 4) 4 2 + 4 * fld (recN d 0 4) 6 1
def cdWin (d : List Byte) : Nat := fld (recN d 0 4) 8 6
def cdTile (d : List Byte) : Nat := fld (recN d 0 4) 14 7
def cdGoff (d : List Byte) : Nat := fld (recN d 4 4) 0 23
def cdMoff (d : List Byte) : Nat := fld (recN d 8 8) 0 48
def cdRow (d : List Byte) : Nat := fld (recN d 16 4) 0 23
def cdRows (d : List Byte) : Nat := recN d 20 2
def cdGstr (d : List Byte) : Nat := if cdRows d = 1 then 0 else fld (recN d 24 4) 0 23
def cdMstr (d : List Byte) : Nat := if cdRows d = 1 then 0 else recN d 28 4

/-- PUSH and PULL work on a remote granary. -/
def cdRemote (d : List Byte) : Bool := cdOp d == 2 || cdOp d == 3

/-- The checks of R147 that give cause 0x03. -/
def cartDescOk (d : List Byte) : Bool :=
  let rem := cdRemote d
  let last := cdRows d - 1
  decide (cdOp d ≤ 3) && (rem || fld (recN d 0 4) 4 2 != 3) && !bitAt (recN d 0 4) 7 && fld (recN d 0 4) 21 11 == 0 &&
    fld (recN d 4 4) 23 9 == 0 && fld (recN d 8 8) 48 16 == 0 && fld (recN d 16 4) 23 9 == 0 && recN d 22 2 == 0 &&
    fld (recN d 24 4) 23 9 == 0 && (!rem || decide (cdMoff d < 2 ^ 23 ∧ cdTile d < 80)) &&
    cdGoff d % 32 == 0 && cdMoff d % 32 == 0 && cdRow d % 32 == 0 && decide (32 ≤ cdRow d ∧ cdRow d ≤ granSize) &&
    decide (1 ≤ cdRows d) && cdGstr d % 32 == 0 && cdMstr d % 32 == 0 &&
    decide (cdGoff d + last * cdGstr d + cdRow d ≤ granSize) &&
    (!rem || decide (cdMoff d + last * cdMstr d + cdRow d ≤ granSize)) &&
    (last == 0 || !(cdOp d == 0 || cdOp d == 3) || decide (cdRow d ≤ cdGstr d)) &&
    (last == 0 || !rem || decide (cdRow d ≤ cdMstr d))

/-- The far side's physical base, where the checks of R147 that give cause 0x05 hold. -/
def Hw.cartBase (id : Ident) (h : Hw) (g : Nat) (d : List Byte) : Option Nat :=
  if cdRemote d then if h.present id (cdTile d) then some (granBase (cdTile d)) else none
  else match h.tileCtx g with
    | none => none
    | some c =>
      let w := h.win c (cdWin d)
      if h.ctxActive c && w.valid && bitAt w.rights (if cdOp d = 0 then rRead else rWrite) && !w.isDoorbell &&
          decide (cdMoff d + (cdRows d - 1) * cdMstr d + cdRow d ≤ w.len) then some w.base
      else none

/-! ## Pieces (R148) -/

/-- Pieces of a row that starts at a far address. -/
def rowPieces (start len : Nat) : Nat := cdiv (start % 2048 + len) 2048

/-- Piece n counted from a row on: granary offset, far address, length. -/
def pieceFrom (d : List Byte) (base : Nat) : Nat → Nat → Nat → Option (Nat × Nat × Nat)
  | 0, _, _ => none
  | rows + 1, i, n =>
    let start := base + cdMoff d + i * cdMstr d
    let k := rowPieces start (cdRow d)
    if n < k then
      let lo := if n = 0 then start else (start / 2048 + n) * 2048
      let hi := min ((start / 2048 + n + 1) * 2048) (start + cdRow d)
      some (cdGoff d + i * cdGstr d + (lo - start), lo, hi - lo)
    else pieceFrom d base rows (i + 1) (n - k)

def cartPiece (d : List Byte) (base n : Nat) : Option (Nat × Nat × Nat) := pieceFrom d base (cdRows d) 0 n

def cartTotal (d : List Byte) (base : Nat) : Nat :=
  (List.range (cdRows d)).foldl (fun a i => a + rowPieces (base + cdMoff d + i * cdMstr d) (cdRow d)) 0

/-- Issue pieces up to 64 outstanding. -/
def Cart.issue (x : Cart) : Cart :=
  if x.stop = 0 then
    let k := min (64 - x.out.length) (x.total - x.issued)
    { x with out := x.out ++ (List.range k).map (· + x.issued), issued := x.issued + k }
  else x

/-- A cart's record of a command that ends at its dispatch (Table 06-6): its stream, and its OP where the descriptor was read. -/
def Cart.failed (x : Cart) (s : Nat) (op : Option Nat) : Cart := { x with stream := s, op := op.getD x.op, out := [], remain := 0, total := 0 }

/-- A CART command dispatches on cart i (R146, R147). DESIGN CHOICE (notes/assumptions/78): a descriptor that fails checks of both
causes gives 0x03. -/
def Hw.startCart (id : Ident) (h : Hw) (g s : Nat) (c : QCmd) (i off : Nat) : Hw :=
  let last (h : Hw) (op : Option Nat) : Hw := h.modTile g (fun t => t.modCart i (fun x => x.failed s op))
  match h.granRead g off 32 with
  | .error b => (((last h none).bump (tileReg g 0xCC0) 32 16 1).streamUncorr g s c.pc 0x05 (srcOf (g / 10) 3 (g % 10 * 4 + i)) b
      [(40, 1, 0)] none).endFaulted g s c.seq
  | .ok d =>
    let h := h.granFix g off 32
    if cartDescOk d then
      match h.cartBase id g d with
      | none => ((last h (some (cdOp d))).streamFault g s 0x05 0 c.pc).endFaulted g s c.seq
      | some base => h.modTile g (fun t => t.modCart i (fun _ => ({
          busy := true, stream := s, seq := c.seq, op := cdOp d, desc := d, ctx := (h.res g).ctx, base := base, issued := 0
          out := [], total := cartTotal d base, remain := cartTotal d base, stop := 0, done := false } : Cart).issue))
    else ((last h (some (cdOp d))).streamFault g s 0x03 0x0D c.pc).endFaulted g s c.seq

/-- Which cart accepts a selection: the named one, or with ANY the lowest idle (R145). -/
def Tile.cartFor (t : Tile) (sel : Nat) : Option Nat :=
  if bitAt sel 2 then (List.range 4).find? (fun i => !(t.cart i).busy)
  else if (t.cart (sel % 4)).busy then none else some (sel % 4)

/-- The instruction address of a live command. -/
def Hw.livePc (h : Hw) (g s seq : Nat) : Nat :=
  match (h.stream g s).live.find? (·.seq == seq) with
  | some c => c.pc
  | none => 0

/-- A cart that has stopped issuing and has nothing outstanding ends its command faulted. -/
def Hw.cartSettle (h : Hw) (g i : Nat) : Hw :=
  let x := (h.tile g).cart i
  if x.busy && x.out.isEmpty && x.stop != 0 then
    let h := h.modTile g (fun t => t.modCart i (fun x => { x with busy := false }))
    let h := if x.stop = 5 then h.streamFault g x.stream 0x05 0 (h.livePc g x.stream x.seq) else h
    h.endFaulted g x.stream x.seq
  else h

/-- What one piece does: nothing wrong, a refusal, an access fault at an address, an uncorrectable error. -/
inductive PieceRes where
  | ok
  | refused
  | fault (a : Nat)
  | bad (cls a : Nat)
  deriving DecidableEq, Repr

/-- Move one piece (R148): OP 0 GET, 1 PUT, 2 PUSH, 3 PULL. -/
def Hw.movePiece (id : Ident) (h : Hw) (g : Nat) (x : Cart) (off far n : Nat) : PieceRes × Hw :=
  let hint := if cdRemote x.desc then 0 else cdHint x.desc
  if cdRemote x.desc && !(h.present id (cdTile x.desc) && h.tileCtx (cdTile x.desc) == some x.ctx) then (.refused, h)
  else if x.op = 0 ∨ x.op = 3 then
    match h.ncRead id hint far n with
    | (.ok b, h) => (.ok, h.granWrite g off b)
    | (.fault a, h) => (.fault a, h)
    | (.bad cls a, h) => (.bad cls a, h)
  else match h.granRead g off n with
    | .error a => (.bad 0x05 a, h.bump (tileReg g 0xCC0) 32 16 1)
    | .ok b => match (h.granFix g off n).ncWrite id hint false far b with
      | (none, h) => (.ok, h)
      | (some a, h) => (.fault a, h)

/-- CART_PIECE_COMPLETE: an outstanding piece is performed; the cart issues the next, or finishes, or stops (R148, R149). A cart
whose context's windows have become unusable (16 Table 16-1) issues no further piece and faults with cause 0x05 (R151). -/
def cartPieceComplete (id : Ident) (g i n : Nat) (h : Hw) : Hw :=
  let x := (h.tile g).cart i
  if !(x.busy && x.out.contains n) || (cdRemote x.desc && h.swapping (cdTile x.desc)) then h
  else match cartPiece x.desc x.base n with
    | none => h
    | some (off, far, len) =>
      let src := srcOf (g / 10) 3 (g % 10 * 4 + i)
      let pc := h.livePc g x.stream x.seq
      let (r, h) := h.movePiece id g x off far len
      let h := (h.countTile g 0 9 (len / 32)).countTile g 1 17 (if len < 2048 then 1 else 0)
      let h := match r with
        | .ok => h
        | .refused => h
        | .fault a => h.faultWith g x.stream 0x05 0 pc
            (mkErr h 0x02 1 src (some x.ctx) (some a) [(40, 1, if x.op = 0 ∨ x.op = 3 then 1 else 2)])
        | .bad cls a => h.streamUncorr g x.stream pc cls src a [(40, 1, 0)] none
      let stop := match r with
        | .ok => 0
        | .refused => 5
        | _ => 1
      let cut (x : Cart) : Bool := !cdRemote x.desc && !h.ctxActive x.ctx && x.remain != 0
      let h := h.modTile g (fun t => t.modCart i (fun x =>
        let x := { x with out := x.out.erase n, remain := x.remain - 1, stop := if x.stop = 0 then stop else x.stop }
        let x := if x.stop = 0 ∧ cut x then { x with stop := 5 } else x
        { x.issue with done := x.stop == 0 && x.remain == 0 }))
      h.cartSettle g i

/-- Carts of a context issue no further pieces once it is torn down; those that use a window, once that window is revoked (R151). -/
def Hw.revokeCarts (h : Hw) (c : Nat) (w : Option Nat) : Hw :=
  (List.range 80).foldl (fun h g =>
    if (h.tile g).carts = [] then h
    else (List.range 4).foldl (fun h i =>
      let x := (h.tile g).cart i
      if x.busy && !x.done && x.ctx == c && x.stop == 0 && (w == none || (!cdRemote x.desc && w == some (cdWin x.desc))) then
        (h.modTile g (fun t => t.modCart i (fun x => { x with stop := 5 }))).cartSettle g i
      else h) h) h

/-- Pieces that carts of a context issued through a window have not all reached their homes (15 R364). -/
def Hw.piecesOut (h : Hw) (c w : Nat) : Bool :=
  h.tiles.any (fun e => (List.range 4).any (fun i =>
    let x := e.2.cart i
    x.busy && x.ctx == c && !cdRemote x.desc && cdWin x.desc == w && !x.out.isEmpty))

/-- GRANARY_WINDOW_ACCESS: a naturally aligned access by hart `hart` through a granary window (R156); `store` carries the
bytes of a store, none for a load. A store to a tile held in reset leaves its granary as it is (notes/assumptions/90). -/
def granaryWindowAccess (id : Ident) (hart a size : Nat) (store : Option (List Byte)) (h : Hw) : Hw :=
  let g := (a - 0x40000000) / 0x800000
  let off := (a - 0x40000000) % 0x800000
  if !(decide (0x40000000 ≤ a ∧ a < 0x68000000) && [1, 2, 4, 8, 16, 32, 64].contains size && a % size == 0) then h
  else if h.present id g && decide (off < granSize) then
    match store with
    | some b => (if h.accelHeld then h else h.granWrite g off (subB b 0 size)).respond .done
    | none => match h.granRead g off size with
      | .ok b => (h.granFix g off size).respond (.bytes b)
      | .error e =>
        let h := h.bump (tileReg g 0xCC0) 32 16 1
        let (r, h) := h.uncorrectable 0x05 (srcHart hart) none e [(40, 1, 0)] none
        (h.send r).respond .error
  else (h.err 0x02 1 (srcHart hart) none (some a) [(40, 1, if store.isSome then 2 else 1)]).respond .fault

end Sys2Proof.Machine
end

