-- ==== Sys2Proof/Machine/Update.lean ====
section
/-!
DEFINITION. Update.lean: the update command (07): its checks, the rules, recovery of the tally, the five phases of a sheaf.
-/
namespace Sys2Proof.Machine

/-! ## Descriptor (07 Table 07-3) -/

def udRule (d : List Byte) : Nat := recN d 0 1
def udCompact (d : List Byte) : Bool := bitAt (recN d 1 1) 0
def udMround (d : List Byte) : Bool := bitAt (recN d 1 1) 1
def udNfskip (d : List Byte) : Bool := bitAt (recN d 1 1) 2
def udShard (d : List Byte) : Nat := recN d 4 4
def udNp (d : List Byte) : Nat := recN d 8 4
def udWin (d : List Byte) : Nat := fld (recN d 12 1) 0 6
def udOff (d : List Byte) (i : Nat) : Nat := fld (recN d (16 + 8 * i) 8) 0 48
def udHigh (d : List Byte) : Nat := udOff d 0
def udLow (d : List Byte) : Nat := udOff d 1
def udM (d : List Byte) : Nat := udOff d 2
def udV (d : List Byte) : Nat := udOff d 3
def udG (d : List Byte) : Nat := udOff d 4
def udTally (d : List Byte) : Nat := udOff d 5
def udStamp (d : List Byte) : Nat := udOff d 6
def udF (d : List Byte) (i : Nat) : Nat := recN d (72 + 4 * i) 4

/-- Sheaves of a shard (R163). -/
def udNs (d : List Byte) : Nat := cdiv (udNp d) 1024

/-- The rule uses a first moment; a second moment (Table 07-1). -/
def udUsesM (d : List Byte) : Bool := decide (1 ≤ udRule d ∧ udRule d ≤ 5)
def udUsesV (d : List Byte) : Bool := decide (udRule d = 3 ∨ udRule d = 4)
def mBytes (compact : Bool) : Nat := if compact then 2 else 4

/-- Used extents (offset, size): high, low, moments, gradient, stamps, tally (Table 07-1). -/
def udExtents (d : List Byte) : List (Nat × Nat) :=
  let ns := udNs d
  [(udHigh d, ns * 2048), (udLow d, ns * 2048)] ++
    (if udUsesM d then [(udM d, ns * 1024 * mBytes (udCompact d))] else []) ++
    (if udUsesV d then [(udV d, ns * 4096)] else []) ++
    [(udG d, ns * 4096), (udStamp d, cdiv (8 * ns) 2048 * 2048), (udTally d, 25 * 2048)]

/-- Pairwise disjoint extents. -/
def disjointAll : List (Nat × Nat) → Bool
  | [] => true
  | x :: xs => xs.all (fun y => decide (x.1 + x.2 ≤ y.1 ∨ y.1 + y.2 ≤ x.1)) && disjointAll xs

/-- PLANES of a record for this rule (Table 07-4). -/
def udPlanes (d : List Byte) : Nat := 3 + (if udUsesM d then 4 else 0) + (if udUsesV d then 8 else 0)

/-! ## The control line (Table 07-4) -/

/-- First word of record j, and its STEP. -/
def clWord (l : List Byte) (j : Nat) : Nat := recN l (16 + 12 * j) 4
def clSheaf (l : List Byte) (j : Nat) : Nat := fld (clWord l j) 0 22
def clState (l : List Byte) (j : Nat) : Nat := fld (clWord l j) 24 2
def clPlanes (l : List Byte) (j : Nat) : Nat := fld (clWord l j) 26 4
def clCompact (l : List Byte) (j : Nat) : Bool := bitAt (clWord l j) 30
def clStep (l : List Byte) (j : Nat) : Nat := recN l (20 + 12 * j) 8

/-- Record states. -/
def recFree : Nat := 0
def recOpen : Nat := 1
def recDone : Nat := 2

/-- Record j with a new state. -/
def clSetState (l : List Byte) (j st : Nat) : List Byte := overlay l (16 + 12 * j) (toLE 4 (putF (clWord l j) 24 2 st))

/-- Record j written whole. -/
def clSet (l : List Byte) (j sheaf st planes : Nat) (compact : Bool) (step : Nat) : List Byte :=
  overlay l (16 + 12 * j) (toLE 4 (sheaf + st * 2 ^ 24 + planes * 2 ^ 26 + (if compact then 2 ^ 30 else 0)) ++ toLE 8 step)

/-- The first failed check of R166 other than the line's, as a code of Table 07-7. `win` is the window's base where it
covers every used extent with read and write rights. -/
def updCheck (d : List Byte) (first count : Nat) (step : Nat) (die : Nat) (win : Option Nat) : Nat :=
  let ex := udExtents d
  let used := [0, 1] ++ (if udUsesM d then [2] else []) ++ (if udUsesV d then [3] else []) ++ [4, 5, 6]
  if 6 < udRule d ∨ fld (recN d 1 1) 3 5 ≠ 0 ∨ recN d 2 2 ≠ 0 ∨ fld (recN d 12 1) 6 2 ≠ 0 ∨ recN d 13 3 ≠ 0 ∨
      recN d 116 12 ≠ 0 ∨ used.any (fun i => recN d (16 + 8 * i + 6) 2 != 0) then 0x01
  else if udNp d = 0 then 0x0C
  else if step = 0 then 0x06
  else if ex.any (fun e => e.1 % 2048 != 0) then 0x02
  else if !disjointAll ex then 0x03
  else if count = 0 ∨ udNs d < first + count then 0x05
  else match win with
    | none => 0x0B
    | some base =>
      if ex.any (fun e => !decide (dieLocalBase die ≤ base + e.1 ∧ base + e.1 + e.2 ≤ dieLocalBase die + hbmSize)) then 0x04
      else 0

/-- The checks of the control line. -/
def lineCheck (d l : List Byte) (g : Nat) : Nat :=
  if recN l 0 2 ≠ 0x7A11 ∨ recN l 2 1 ≠ 1 ∨
      (List.range 4).any (fun j => clState l j == 3 || decide (udNs d ≤ clSheaf l j)) then 0x07
  else if recN l 4 4 ≠ udShard d then 0x08
  else if fld (recN l 8 2) 0 7 ≠ g then 0x09
  else 0

/-! ## The rules (R167, R168) -/

/-- sign(x). -/
def fsign (x : Nat) : Nat :=
  match v32 x with
  | .nan => cnan32
  | .inf n => if n then 0xBF800000 else 0x3F800000
  | .fin n m _ => if m = 0 then x else if n then 0xBF800000 else 0x3F800000

/-- The scaled gradient, before and after the clip. -/
def gScaled (d : List Byte) (g : Nat) : Nat := fmul g (udF d 7)
def gClip (d : List Byte) (g : Nat) : Nat :=
  let clip := udF d 8
  if FVal.zero.lt (v32 clip) then fmin (fmax g (fneg clip)) clip else g

/-- w, m and v after one parameter's step; `none` where NFSKIP leaves it unchanged. -/
def ruleStep (d : List Byte) (g0 w m v : Nat) : Option (Nat × Nat × Nat) :=
  let lr := udF d 0
  let b1 := udF d 1
  let c1 := udF d 2
  let b2 := udF d 3
  let c2 := udF d 4
  let eps := udF d 5
  let decay := udF d 6
  let bc1 := udF d 9
  let bc2 := udF d 10
  let gs := gScaled d g0
  if !ffinite gs && udNfskip d then none
  else
    let g := gClip d gs
    let gd := fadd g (fmul decay w)
    let adam (g : Nat) : Nat × Nat × Nat :=
      let m := fadd (fmul b1 m) (fmul c1 g)
      let v := fadd (fmul b2 v) (fmul c2 (fmul g g))
      (m, v, fdiv (fmul m bc1) (fadd (fsqrt (fmul v bc2)) eps))
    some (match udRule d with
      | 0 => (fsub w (fmul lr gd), m, v)
      | 1 =>
        let m := fadd (fmul b1 m) gd
        (fsub w (fmul lr m), m, v)
      | 2 =>
        let m := fadd (fmul b1 m) gd
        (fsub w (fmul lr (fadd gd (fmul b1 m))), m, v)
      | 3 => match adam gd with
        | (m, v, q) => (fsub w (fmul lr q), m, v)
      | 4 => match adam g with
        | (m, v, q) => (fsub w (fmul lr (fadd q (fmul decay w))), m, v)
      | 5 =>
        let u := fsign (fadd (fmul b1 m) (fmul c1 g))
        (fsub w (fmul lr (fadd u (fmul decay w))), fadd (fmul b2 m) (fmul c2 g), v)
      | _ => (fsub w (fmul lr (fadd (fsign g) (fmul decay w))), m, v))

/-- The stored form of a first moment. -/
def storeM (d : List Byte) (step : Word) (p m : Nat) : List Byte :=
  if udCompact d then
    if udMround d then
      let r := (cf step (BitVec.ofNat 64 (0x3 * 2 ^ 60 + udShard d)) (BitVec.ofNat 64 p)).toNat % 65536
      toLE 2 (Fmt.bf16.encode .stochastic r (v32 m))
    else toLE 2 (Fmt.bf16.encode .nearest 0 (v32 m))
  else toLE 4 m

/-- The new bytes of a sheaf: high, low, first moment, second moment, of the parameters below NP. -/
structure SheafNew where
  hi : List Byte
  lo : List Byte
  m  : List Byte
  v  : List Byte
  nonfin : Nat

def updSheaf (d : List Byte) (step : Word) (w : SheafWork) : SheafNew :=
  let n := min 1024 (udNp d - 1024 * w.sheaf)
  let mb := mBytes (udCompact d)
  let one (p : Nat) : List Byte × List Byte × List Byte × List Byte × Bool :=
    let wt := recN w.hi (2 * p) 2 * 65536 + recN w.lo (2 * p) 2
    let mr := recN w.m (mb * p) mb
    let m := if udCompact d then mr * 65536 else mr
    let v := recN w.v (4 * p) 4
    let g := recN w.g (4 * p) 4
    let nf := !ffinite (gScaled d g)
    match ruleStep d g wt m v with
    | none => (toLE 2 (wt / 65536), toLE 2 (wt % 65536), toLE mb mr, toLE 4 v, nf)
    | some (wt, m, v) => (toLE 2 (wt / 65536), toLE 2 (wt % 65536), storeM d step (1024 * w.sheaf + p) m, toLE 4 v, nf)
  let xs := (List.range n).map one
  { hi := xs.flatMap (·.1), lo := xs.flatMap (·.2.1), m := xs.flatMap (·.2.2.1), v := xs.flatMap (·.2.2.2.1)
    nonfin := xs.countP (·.2.2.2.2) }

/-! ## Memory access of the update (R170, R175) -/

/-- What an access of the update meets. -/
inductive UpdRes (α : Type) where
  | ok (x : α)
  | revoked                    -- its window no longer allows the access
  | fault (kind a : Nat)       -- 1 a read, 2 a write
  | bad (cls a : Nat)

/-- The hint of UPD.CFG: 0b11 acts as 0b00. -/
def Hw.updHint (h : Hw) (g : Nat) : Nat :=
  let c := h.reg (tileReg g 0xD08)
  (if fld c 0 2 = 3 then 0 else fld c 0 2) + 4 * fld c 2 1

/-- Read n bytes at a window offset. -/
def Hw.updRead (id : Ident) (h : Hw) (g : Nat) (u : UpdRun) (off n : Nat) : UpdRes (List Byte) × Hw :=
  match h.through u.ctx (udWin u.desc) rRead off n with
  | none => (.revoked, h)
  | some a => match h.ncRead id (h.updHint g) a n with
    | (.ok b, h) => (.ok b, h)
    | (.fault a, h) => (.fault 1 a, h)
    | (.bad cls a, h) => (.bad cls a, h)

/-- Write bytes at a window offset, through the cellar to DRAM. -/
def Hw.updWrite (id : Ident) (h : Hw) (u : UpdRun) (off : Nat) (b : List Byte) : UpdRes Unit × Hw :=
  match h.through u.ctx (udWin u.desc) rWrite off b.length with
  | none => (.revoked, h)
  | some a => match h.ncWrite id 0 true a b with
    | (none, h) => (.ok (), h)
    | (some a, h) => (.fault 2 a, h)

/-- Several writes in order, until one does not go. -/
def Hw.updWrites (id : Ident) (u : UpdRun) : List (Nat × List Byte) → Hw → UpdRes Unit × Hw
  | [], h => (.ok (), h)
  | (o, b) :: rest, h =>
    if b = [] then Hw.updWrites id u rest h
    else match h.updWrite id u o b with
      | (.ok _, h) => Hw.updWrites id u rest h
      | r => r

/-- Several reads in order. -/
def Hw.updReads (id : Ident) (g : Nat) (u : UpdRun) : List (Nat × Nat) → Hw → UpdRes (List (List Byte)) × Hw
  | [], h => (.ok [], h)
  | (o, n) :: rest, h =>
    match h.updRead id g u o n with
    | (.ok b, h) => match Hw.updReads id g u rest h with
      | (.ok bs, h) => (.ok (b :: bs), h)
      | r => r
    | (.revoked, h) => (.revoked, h)
    | (.fault i a, h) => (.fault i a, h)
    | (.bad c a, h) => (.bad c a, h)

def Hw.setCheck (h : Hw) (g code : Nat) : Hw := h.setRegF (tileReg g 0xD00) 32 8 code
def Hw.setSheaf (h : Hw) (g k : Nat) : Hw := h.setRegF (tileReg g 0xD00) 0 22 k

/-- The command stops and ends faulted; records that are OPEN stay so (R175). -/
def Hw.updDrop (h : Hw) (g : Nat) (u : UpdRun) (k : Nat) (f : Nat → Hw → Hw) : Hw :=
  let pc := h.livePc g u.stream u.seq
  let h := (h.modTile g (fun t => { t with upd := none })).setSheaf g k
  (f pc h).endFaulted g u.stream u.seq

/-- A failed access at sheaf k stops the command: revocation and access fault with code 0x0B and cause 0x05, an
uncorrectable error with cause 0x0A (R175). -/
def Hw.updStop {α : Type} (h : Hw) (g : Nat) (u : UpdRun) (k : Nat) (r : UpdRes α) : Hw :=
  let src := srcOf (g / 10) 4 (g % 10)
  match r with
  | .ok _ => h
  | .revoked => (h.setCheck g 0x0B).updDrop g u k (fun pc h => h.streamFault g u.stream 0x05 0 pc)
  | .fault i a => (h.setCheck g 0x0B).updDrop g u k (fun pc h => h.faultWith g u.stream 0x05 0 pc
      (mkErr h 0x02 1 src (some u.ctx) (some a) [(40, 1, i)]))
  | .bad cls a => h.updDrop g u k (fun pc h => h.streamUncorr g u.stream pc cls src a [(40, 1, 0)] u.model)

def Hw.setUpd (h : Hw) (g : Nat) (u : UpdRun) : Hw := h.modTile g (fun t => { t with upd := some u })

/-- A control-line write. -/
def Hw.writeLine (id : Ident) (h : Hw) (u : UpdRun) : UpdRes Unit × Hw := h.updWrite id u (udTally u.desc) u.line

/-! ## Dispatch and recovery (R166, R173) -/

/-- Offsets of body j and the parts named by PLANES: (offset in the body, plane offset of sheaf k, bytes). -/
def bodyAt (d : List Byte) (j : Nat) : Nat := udTally d + 2048 + j * 12288
def bodyParts (d : List Byte) (planes : Nat) (compact : Bool) (k : Nat) : List (Nat × Nat × Nat) :=
  let mb := 1024 * mBytes compact
  (if bitAt planes 0 then [(0, udHigh d + 2048 * k, 2048)] else []) ++
    (if bitAt planes 1 then [(2048, udLow d + 2048 * k, 2048)] else []) ++
    (if bitAt planes 2 then [(4096, udM d + mb * k, mb)] else []) ++
    (if bitAt planes 3 then [(8192, udV d + 4096 * k, 4096)] else [])

/-- OPEN records in ascending SHEAF order. -/
def openRecs (l : List Byte) : List Nat :=
  let js := (List.range 4).filter (fun j => clState l j == recOpen)
  js.foldl (fun acc j => acc.filter (fun i => decide (clSheaf l i ≤ clSheaf l j)) ++ [j] ++
    acc.filter (fun i => !decide (clSheaf l i ≤ clSheaf l j))) []

/-- Recover OPEN records in order, one at a time: a record whose stamp stands is written DONE; at the first other one the body is
copied back, and it waits for TALLY_RESTORE_FREE before the next record is taken (R173). -/
def Hw.recover (id : Ident) (g : Nat) : List Nat → UpdRun → Hw → Except Hw (UpdRun × Hw)
  | [], u, h => .ok (u, h)
  | j :: js, u, h =>
    let d := u.desc
    let k := clSheaf u.line j
    match h.updRead id g u (udStamp d + 8 * k) 8 with
    | (.ok st, h) =>
      if leNat st = clStep u.line j then
        let u := { u with line := clSetState u.line j recDone }
        match h.writeLine id u with
        | (.ok _, h) => Hw.recover id g js u h
        | (r, h) => .error (h.updStop g u k r)
      else
        let parts := bodyParts d (clPlanes u.line j) (clCompact u.line j) k
        match Hw.updReads id g u (parts.map (fun p => (bodyAt d j + p.1, p.2.2))) h with
        | (.ok bs, h) => match Hw.updWrites id u ((parts.map (·.2.1)).zip bs) h with
          | (.ok _, h) => .ok ({ u with restore := j :: js }, h)
          | (r, h) => .error (h.updStop g u k r)
        | (r, h) => .error (h.updStop g u k r)
    | (r, h) => .error (h.updStop g u k r)

/-- The update command dispatches (R165, R166, R173). Its step is the update stream's (R169). A failed check leaves
UPD.STATUS.SHEAF as it was; a control line that cannot be read sets it to FIRST (notes/assumptions/80). -/
def Hw.startUpdate (id : Ident) (h : Hw) (g s : Nat) (c : QCmd) (off first count rd : Nat) : Hw :=
  match h.granRead g off 128 with
  | .error b => ((h.bump (tileReg g 0xCC0) 32 16 1).streamUncorr g s c.pc 0x05 (srcOf (g / 10) 4 (g % 10)) b
      [(40, 1, 0)] none).endFaulted g s c.seq
  | .ok d =>
    let step := (h.stream g 2).step
    let ctx := (h.res g).ctx
    let h := h.granFix g off 128
    let w := h.win ctx (udWin d)
    let win := if h.ctxActive ctx && w.valid && !w.isDoorbell && bitAt w.rights rRead && bitAt w.rights rWrite &&
        (udExtents d).all (fun e => decide (e.1 + e.2 ≤ w.len)) && (h.tileCtx g).isSome then some w.base else none
    let u : UpdRun := { stream := s, seq := c.seq, rd := rd, desc := d, ctx := ctx
                        model := (h.workOf g).map (·.model), first := first, count := count
                        step := step, line := [], restore := [], next := first, opens := [], nonfin := 0, stop := 0 }
    let fail (code : Nat) (h : Hw) : Hw :=
      ((h.setCheck g code).streamFault g s (if code = 0x0B then 0x05 else 0x03) (if code = 0x0B then 0 else 0x0D)
        c.pc).endFaulted g s c.seq
    let code := updCheck d first count step.toNat (g / 10) win
    if code ≠ 0 then fail code h
    else match h.updRead id g u (udTally d) 64 with
      | (.ok l, h) =>
        if lineCheck d l g ≠ 0 then fail (lineCheck d l g) h
        else match Hw.recover id g (openRecs l) { u with line := l } h with
          | .ok (u, h) => h.setUpd g u
          | .error h => h
      | (r, h) => h.updStop g u first r

/-- Every sheaf of the range is skipped or committed (R171). -/
def UpdRun.finished (u : UpdRun) : Bool :=
  decide (u.first + u.count ≤ u.next) && u.opens.isEmpty && u.restore.isEmpty && u.stop == 0

/-- After check 0x0A has stopped the walk, the command ends faulted once no sheaf is open (R169). -/
def Hw.updSettle (h : Hw) (g : Nat) : Hw :=
  match (h.tile g).upd with
  | some u =>
    if u.stop ≠ 0 ∧ u.opens.isEmpty then
      h.updDrop g u u.next (fun pc h => h.streamFault g u.stream 0x03 0x0D pc)
    else h
  | none => h

/-- TALLY_RESTORE_FREE: the restored record is written FREE, counted and recorded, and recovery goes on with the next, in ascending
SHEAF order (R173). -/
def tallyRestoreFree (id : Ident) (g j : Nat) (h : Hw) : Hw :=
  match (h.tile g).upd with
  | some u =>
    match u.restore with
    | i :: rest =>
      if i ≠ j then h
      else
        let k := clSheaf u.line j
        let st := clStep u.line j
        let u := { u with line := clSetState u.line j recFree, restore := [] }
        match h.writeLine id u with
        | (.ok _, h) =>
          let h := (h.bump (tileReg g 0xD10) 0 32 1).err 0x0A 0 (srcOf (g / 10) 4 (g % 10)) (some u.ctx) none
            [(40, 4, udShard u.desc), (44, 4, k), (48, 8, st)]
          match Hw.recover id g rest u h with
          | .ok (u, h) => h.setUpd g u
          | .error h => h
        | (r, h) => h.updStop g u k r
    | [] => h
  | none => h

/-! ## The walk (R169, R170) -/

/-- UPDATE_SHEAF_START: the next sheaf's turn: skipped, journalled (phase 1), or the walk stops with check 0x0A. -/
def updateSheafStart (id : Ident) (g : Nat) (h : Hw) : Hw :=
  match (h.tile g).upd with
  | none => h
  | some u =>
    let d := u.desc
    let k := u.next
    let j := k % 4
    if u.stop ≠ 0 ∨ u.restore ≠ [] ∨ u.first + u.count ≤ k ∨ clState u.line j = recOpen ∨
        (SMap.get none u.opens j).isSome then h
    else match h.updRead id g u (udStamp d + 8 * k) 8 with
      | (.ok st, h) =>
        let st := leNat st
        if st = u.step.toNat then
          (((h.setUpd g { u with next := k + 1 }).bump (tileReg g 0xD18) 0 32 1).countTile g 1 13 1).setSheaf g k
        else if u.step.toNat < st then ((h.setCheck g 0x0A).setUpd g { u with stop := 0x0A }).updSettle g
        else
          let mb := 1024 * mBytes (udCompact d)
          let parts := bodyParts d (udPlanes d) (udCompact d) k
          match Hw.updReads id g u (parts.map (fun p => (p.2.1, p.2.2)) ++ [(udG d + 4096 * k, 4096)]) h with
          | (.ok bs, h) =>
            let part (i : Nat) : List Byte := bs[i]?.getD []
            let w : SheafWork :=
              { sheaf := k, phase := 1, hi := part 0, lo := part 1, m := if udUsesM d then subB (part 2) 0 mb else []
                v := if udUsesV d then part 3 else [], g := bs.getLastD [] }
            match Hw.updWrites id u ((parts.map (fun p => bodyAt d j + p.1)).zip bs) h with
            | (.ok _, h) => h.setUpd g { u with next := k + 1, opens := SMap.set none u.opens j (some w) }
            | (r, h) => h.updStop g u k r
          | (r, h) => h.updStop g u k r
      | (r, h) => h.updStop g u k r

/-- The sheaf open in slot j, in a phase, none being restored. -/
def Hw.openSheaf (h : Hw) (g j phase : Nat) : Option (UpdRun × SheafWork) :=
  match (h.tile g).upd with
  | none => none
  | some u => match SMap.get none u.opens j with
    | some w => if w.phase = phase then some (u, w) else none
    | none => none

def UpdRun.setPhase (u : UpdRun) (j : Nat) (w : SheafWork) (p : Nat) : UpdRun :=
  { u with opens := SMap.set none u.opens j (some { w with phase := p }) }

/-- UPDATE_OPEN_RECORD: phase 2. -/
def updateOpenRecord (id : Ident) (g j : Nat) (h : Hw) : Hw :=
  match h.openSheaf g j 1 with
  | none => h
  | some (u, w) =>
    let u := { u with line := clSet u.line j w.sheaf recOpen (udPlanes u.desc) (udCompact u.desc && udUsesM u.desc)
                        u.step.toNat }
    match h.writeLine id u with
    | (.ok _, h) => h.setUpd g (u.setPhase j w 2)
    | (r, h) => h.updStop g u w.sheaf r

/-- UPDATE_WRITE_MOMENTS: phase 3. The sheaf's non-finite elements are counted here (notes/assumptions/79). -/
def updateWriteMoments (id : Ident) (g j : Nat) (h : Hw) : Hw :=
  match h.openSheaf g j 2 with
  | none => h
  | some (u, w) =>
    let d := u.desc
    let n := updSheaf d u.step w
    match Hw.updWrites id u
        ((if udUsesM d then [(udM d + 1024 * mBytes (udCompact d) * w.sheaf, n.m)] else []) ++
          (if udUsesV d then [(udV d + 4096 * w.sheaf, n.v)] else [])) h with
    | (.ok _, h) => (h.setUpd g ({ u with nonfin := u.nonfin + n.nonfin }.setPhase j w 3)).bump (tileReg g 0xD20) 0 64 n.nonfin
    | (r, h) => h.updStop g u w.sheaf r

/-- UPDATE_WRITE_WEIGHTS: phase 4. -/
def updateWriteWeights (id : Ident) (g j : Nat) (h : Hw) : Hw :=
  match h.openSheaf g j 3 with
  | none => h
  | some (u, w) =>
    let d := u.desc
    let n := updSheaf d u.step w
    match Hw.updWrites id u [(udHigh d + 2048 * w.sheaf, n.hi), (udLow d + 2048 * w.sheaf, n.lo)] h with
    | (.ok _, h) => h.setUpd g (u.setPhase j w 4)
    | (r, h) => h.updStop g u w.sheaf r

/-- UPDATE_COMMIT: phase 5, the stamp and then the record DONE. -/
def updateCommit (id : Ident) (g j : Nat) (h : Hw) : Hw :=
  match h.openSheaf g j 4 with
  | none => h
  | some (u, w) =>
    let d := u.desc
    match h.updWrite id u (udStamp d + 8 * w.sheaf) (toLE 8 u.step.toNat) with
    | (.ok _, h) =>
      let u := { u with line := clSetState u.line j recDone, opens := SMap.del u.opens j }
      match h.writeLine id u with
      | (.ok _, h) =>
        (((h.setUpd g u).setSheaf g w.sheaf).countTile g 1 12 (min 1024 (udNp d - 1024 * w.sheaf))).updSettle g
      | (r, h) => h.updStop g u w.sheaf r
    | (r, h) => h.updStop g u w.sheaf r

/-- The sheaf at which a stopped walk stands: the lowest open one, else the next of the range, else its last
(notes/assumptions/80). -/
def UpdRun.at_ (u : UpdRun) : Nat :=
  ((u.opens.filterMap (·.2)).map (·.sheaf)).foldl min (min u.next (u.first + u.count - 1))

/-- Revocation of a window stops the update commands that use it (R175). -/
def Hw.revokeUpdates (h : Hw) (c : Nat) (w : Option Nat) : Hw :=
  (List.range 80).foldl (fun h g =>
    match (h.tile g).upd with
    | some u =>
      if u.ctx = c ∧ !u.finished ∧ (w = none ∨ w = some (udWin u.desc)) then h.updStop g u u.at_ (UpdRes.revoked (α := Unit))
      else h
    | none => h) h

end Sys2Proof.Machine
end

