-- ==== Sys2Proof/Machine/Queue.lean ====
section
/-!
DEFINITION. Queue.lean: dispatch of queue heads and completion of commands (04 R85 to R93, R96).
-/
namespace Sys2Proof.Machine

/-! ## Which head dispatches (R85) -/

/-- The head's wait condition holds (R89, R92). -/
def Tile.waitMet (t : Tile) (c : QCmd) : Bool := !syWen c.sync || decide (syWCnt c.sync ≤ t.token (syWTok c.sync))

def QOp.isVec : QOp → Bool
  | .vec _ _ _ _ _ _ => true
  | .update _ _ _ _ => true
  | _ => false

/-- The engine's choice among the streams' waiting custom-1 heads under TILE.MODE.ARB (Table 04-16). -/
def Tile.vecChoice (t : Tile) (arb : Nat) : Option Nat :=
  let ready (s : Nat) : Bool := match (t.stream s).queue with
    | c :: _ => c.op.isVec && t.waitMet c
    | [] => false
  let order := match arb with
    | 1 => [2, (t.vecLast + 1) % 3, (t.vecLast + 2) % 3, t.vecLast]
    | 2 => [1, (t.vecLast + 1) % 3, (t.vecLast + 2) % 3, t.vecLast]
    | _ => [(t.vecLast + 1) % 3, (t.vecLast + 2) % 3, t.vecLast]
  order.find? ready

/-- A checkpoint export of the shard an update command names is running (07 R177). -/
def Hw.exporting (h : Hw) (g off : Nat) : Bool :=
  match h.tileCtx g, h.granRead g off 128 with
  | some x, .ok d => h.clerk.bg.any (fun b => b.shard == some (x, udShard d))
  | _, _ => false

/-- The unit of a stream's head accepts it (R85, R93). An update on a shard being exported waits (07 R177). -/
def Hw.accepts (h : Hw) (g s : Nat) (c : QCmd) : Bool :=
  let t := h.tile g
  match c.op with
  | .mma _ _ _ => decide ((t.arr.filter (·.stream == s)).length < 2)
  | .mdrain _ _ _ => decide ((t.arr.filter (·.stream == s)).length < 2)
  | .cart _ sel => (t.cartFor sel).isSome
  | .talloc m => t.tallocOk s m
  | .gfence => true
  | .tstep _ => true
  | .tnop => true
  | .update off _ _ _ => t.vec.isNone && t.upd.isNone && t.vecChoice (h.regF (tileReg g 8) 1 2) == some s && !h.exporting g off
  | _ => t.vec.isNone && t.upd.isNone && t.vecChoice (h.regF (tileReg g 8) 1 2) == some s

/-- A head dispatches: it leaves the queue, a consuming wait's count is subtracted, the tile's Boundary fields take effect
(R79), and the command goes to its unit. -/
def Hw.dispatch (id : Ident) (h : Hw) (g s : Nat) (c : QCmd) : Hw :=
  let h := h.modTile g (fun t =>
    let t := if syWen c.sync && !syWKeep c.sync then
        t.setToken (syWTok c.sync) (t.token (syWTok c.sync) - syWCnt c.sync) else t
    t.modStream s (fun x => { x with queue := x.queue.drop 1, live := x.live ++ [c] }))
  let h := h.applyShadow (tileReg g 0) (tileReg g 0x10000)
  let h := if syWen c.sync then h.event 0x05 (g / 10) (g % 10) (h.tileCtx g)
      [(16, 1, s), (17, 1, syWTok c.sync), (18, 2, syWCnt c.sync)] else h
  let h := h.event 0x03 (g / 10) (g % 10) (h.tileCtx g) (c.eventData s)
  let q := (h.stream g s).q
  let next (h : Hw) : Hw := h.modTile g (fun t =>
    { t.modStream s (fun x => { x with q := (x.q + 1) % 2 ^ 24 }) with vecLast := s })
  match c.op with
  | .mma a b d => h.startArray g s c false a b d
  | .mdrain a b d => h.startArray g s c true a b d
  | .cart off sel => match (h.tile g).cartFor sel with
    | some i => h.startCart id g s c i off
    | none => h
  | .talloc m => ((h.modStream g s (fun x => { x with granted := m })).countTile g 1 18 1).complete g s c none
  | .gfence => h
  | .tstep v => (h.modTile g (fun t =>
      (t.modStream s (fun x => { x with step := v, q := 0 })).zeroDrains (t.stream s).granted)).complete g s c none
  | .tnop => h.complete g s c none
  | .vec f3 f2 off al be rd => (next h).startVec g s c f3 f2 off al be rd q
  | .update off first count rd => (next h).startUpdate id g s c off first count rd

/-- The wait of a stream's queue head is on a token, and would be met now. -/
def Hw.headMeets (h : Hw) (g s tok : Nat) : Bool :=
  match (h.stream g s).queue with
  | c :: _ => syWen c.sync && syWTok c.sync == tok && h.accepts g s c && (h.tile g).waitMet c
  | [] => false

/-- A stalled TWAIT of a stream is on a token, and would be met now. -/
def Hw.twaitMeets (h : Hw) (g s tok : Nat) : Bool :=
  match (h.stream g s).twait with
  | some (k, cnt, _) => k == tok && decide (cnt ≤ (h.tile g).token tok)
  | none => false

/-- A wait that comes first in the cycle's order would be met by the same token: streams in order 0, 1, 2, and within one the queue
head before a TWAIT (R90). `head` says that the wait to be tested is stream `s`'s queue head. -/
def Hw.earlierWait (h : Hw) (g s tok : Nat) (head : Bool) : Bool :=
  (List.range s).any (fun k => h.headMeets g k tok || h.twaitMeets g k tok) || (!head && h.headMeets g s tok)

/-- The head of a stream dispatches now: its unit accepts it, its wait is met, and no earlier wait takes the token (R85, R90). -/
def Hw.headGoes (h : Hw) (g s : Nat) (c : QCmd) : Bool :=
  h.accepts g s c && (h.tile g).waitMet c && !(syWen c.sync && h.earlierWait g s (syWTok c.sync) true)

/-- Try to dispatch the head of a stream that satisfies `which`. -/
def Hw.tryDispatch (id : Ident) (h : Hw) (g s : Nat) (which : QOp → Bool) : Hw :=
  match (h.stream g s).queue with
  | c :: _ => if which c.op && h.headGoes g s c then h.dispatch id g s c else h
  | [] => h

/-! ## TWAIT (R89, R90, R96) -/

/-- Test a stalled or new wait: met where no earlier wait takes the token; a consuming wait subtracts (R89, R90). -/
def Hw.tryWait (h : Hw) (g s tok cnt : Nat) (peek : Bool) : Hw :=
  let v := (h.tile g).token tok
  if cnt ≤ v ∧ !h.earlierWait g s tok false then
    let h := if peek then h else h.modTile g (fun t => t.setToken tok (v - cnt))
    (h.modStream g s (fun x => { x with twait := none })).event 0x05 (g / 10) (g % 10) (h.tileCtx g)
      [(16, 1, s), (17, 1, tok), (18, 2, cnt)]
  else h.modStream g s (fun x => { x with twait := some (tok, cnt, peek) })

def twait (peek : Bool) (g s rs1 rs2 : Nat) (h : Hw) : Hw :=
  let x := h.stream g s
  h.issue g s [rs1, rs2] (fun h =>
    (h.issued g s 4).tryWait g s (fld (x.getX rs1).toNat 0 6) (max 1 (fld (x.getX rs2).toNat 0 16)) peek)

/-- TWAIT_RELEASE: a stalled wait is tested again after the cycle's signals (R90). -/
def twaitRelease (g s : Nat) (h : Hw) : Hw :=
  match (h.stream g s).twait with
  | some (tok, cnt, peek) => h.tryWait g s tok cnt peek
  | none => h

/-- COMMAND_DISPATCH (R85). -/
def commandDispatch (id : Ident) (g s : Nat) (h : Hw) : Hw := h.tryDispatch id g s (fun _ => true)

/-- TALLOC_GRANT: a TALLOC at the head is granted its mask (R93). -/
def tallocGrant (id : Ident) (g s : Nat) (h : Hw) : Hw :=
  h.tryDispatch id g s (fun o => match o with
    | .talloc _ => true
    | _ => false)

/-- TSTEP at dispatch (R96, 05 R135). -/
def tstepRun (id : Ident) (g s : Nat) (h : Hw) : Hw :=
  h.tryDispatch id g s (fun o => match o with
    | .tstep _ => true
    | _ => false)

/-- TNOP at dispatch (R96). -/
def tnopRun (id : Ident) (g s : Nat) (h : Hw) : Hw :=
  h.tryDispatch id g s (fun o => match o with
    | .tnop => true
    | _ => false)

/-! ## Completion (R87) -/

/-- A live command of a stream. -/
def Hw.liveCmd (h : Hw) (g s seq : Nat) : Option QCmd := (h.stream g s).live.find? (·.seq == seq)

/-- A command issued before `seq` has ended faulted (R87). -/
def Stream.failedBefore (x : Stream) (seq : Nat) : Bool := match x.failed with
  | some k => decide (k < seq)
  | none => false

/-- GFENCE_COMPLETE: every earlier command of the stream has completed, and its stores are home: stores reach their homes as
they are issued (R96). DESIGN CHOICE (notes/assumptions/94): where an earlier command ended faulted, which never completes (R87), the
fence ends faulted once they have all ended. -/
def gfenceComplete (g s seq : Nat) (h : Hw) : Hw :=
  match h.liveCmd g s seq with
  | some c =>
    if c.op = .gfence ∧ seq ≤ (h.stream g s).retired then
      if (h.stream g s).failedBefore seq then h.endFaulted g s seq else h.complete g s c none
    else h
  | none => h

/-- An array command whose K-steps and drains are all done completes. -/
def Hw.arrayDone (h : Hw) (g s seq : Nat) (c : QCmd) : Hw :=
  match (h.tile g).arr.find? (fun a => a.stream == s && a.seq == seq) with
  | some a =>
    if a.done then
      (h.modTile g (fun t => t.dropCmd s seq)).complete g s c none
    else h
  | none => h

/-- COMMAND_COMPLETE: a command whose effects are all in place completes (R87). -/
def commandComplete (g s seq : Nat) (h : Hw) : Hw :=
  match h.liveCmd g s seq with
  | none => h
  | some c =>
    let t := h.tile g
    match c.op with
    | .gfence => gfenceComplete g s seq h
    | .cart _ _ =>
      match (List.range 4).find? (fun i => (t.cart i).busy && (t.cart i).done && (t.cart i).stream == s &&
          (t.cart i).seq == seq) with
      | some i => (h.modTile g (fun t => t.modCart i (fun x => { x with busy := false }))).complete g s c none
      | none => h
    | .vec _ _ _ _ _ _ =>
      match t.vec with
      | some r =>
        if r.stream = s ∧ r.seq = seq ∧ r.done then
          (h.modTile g (fun t => { t with vec := none })).complete g s c (some r.sum)
        else h
      | none => h
    | .update _ _ _ _ =>
      match t.upd with
      | some u =>
        if u.stream = s ∧ u.seq = seq ∧ u.finished then
          (h.modTile g (fun t => { t with upd := none })).complete g s c (some (BitVec.ofNat 64 u.nonfin))
        else h
      | none => h
    | .mma _ _ _ => h.arrayDone g s seq c
    | .mdrain _ _ _ => h.arrayDone g s seq c
    | _ => h

end Sys2Proof.Machine
end

