-- ==== Sys2Proof/Machine/Coherence.lean ====
section
/-!
DEFINITION. Coherence.lean: the requests of caching and non-caching agents as their slices meet them, snoops and releases; the
accesses of the tile control cores (10 R234 to R256).
-/
namespace Sys2Proof.Machine

/-- A caching agent that can issue (Table 10-1, R255). -/
def Hw.agentOk (id : Ident) (h : Hw) (a : Nat) : Bool :=
  (decide (a < 0x50) && h.present id a) || (decide (0x50 ≤ a ∧ a ≤ 0x60) && !h.hostReset) || a == 0x61

/-- The operation lies within one line; an atomic one is of 4 or 8 naturally aligned bytes. -/
def CacheOp.fits (op : CacheOp) (key : Nat) : Bool :=
  decide (key % 64 + op.len ≤ 64) && (op.kind == 2 || ((op.len == 4 || op.len == 8) && key % op.len == 0))

/-- A caching agent's request for an address, of kind 0 to 5. The host L3 is filled by transfers alone (Table 10-1). An access that
reaches no cacheable memory, or an atomic one to an I/O region, is an access fault (R235); a line given back to a home that is down
is discarded (18 R420). -/
def Hw.request (id : Ident) (h : Hw) (kind agent addr n : Nat) (op : CacheOp) (held : Option LineSt → Option (Hw → Hw)) : Hw :=
  let key := keyOf addr
  if !h.agentOk id agent || (agent == 0x60 && decide (kind ≤ 2)) then h
  else if 3 ≤ kind ∧ !(h.reachable id addr && cacheable id key) then h.respond .done
  else if !(h.reachable id addr && cacheable id key) || (closedTo id agent key && (kind == 1 || kind == 2)) then
    h.agentFault agent (if kind = 1 ∨ kind = 2 then op.kind else 1) key
  else match held ((h.rollLine key).state agent) with
    | some f => f h
    | none => h.order id (mkTxn h kind agent key n [] 0 op)

/-- READ_SHARED (R238, R239). `found` is what the slice finds in the line's roll entry: 2 an uncorrectable error (18 R409). An agent
that holds the line in M, E or C reads its own copy; one listed in S had dropped it. -/
def readShared (id : Ident) (agent addr found : Nat) (h : Hw) : Hw :=
  let key := keyOf addr
  let line := lineAt key
  let r := h.rollLine line
  let h := if found = 2 ∧ r ≠ RollLine.init then h.setRoll line { r with bad := true } else h
  let own (h : Hw) : Hw := match h.cacheWord agent key (inLine key 64) with
    | some w => h.agentBad agent 0x05 w
    | none => h.respond (.bytes (subB (h.copyOf id agent line) (key % 64) (inLine key 64)))
  h.request id 0 agent addr (inLine key 64) (.store []) (fun s => match s with
    | some .shr => none
    | some _ => if found = 2 then none else some own
    | none => none)

/-- The operation on a line that the agent already holds in M or E, which takes M without a transaction (notes/assumptions/14). -/
def Hw.ownOp (id : Ident) (agent key : Nat) (op : CacheOp) (h : Hw) : Hw :=
  match h.opMeets agent key op with
  | some w => h.agentBad agent 0x05 w
  | none =>
    let line := lineAt key
    let d := h.copyOf id agent line
    let r := h.rollLine line
    ((h.opCleans agent key op).setRoll line { r.put agent .mod with data := some d, stamp := r.stamp }).performOp key op d

/-- An agent issues such operations: a tile control core has no A extension, and stores alone (R251). -/
def CacheOp.issuedBy (op : CacheOp) (agent : Nat) : Bool := decide (0x50 ≤ agent) || op.kind == 2

/-- READ_UNIQUE, with the store, AMO, LR or SC that caused it performed once the line is held in M (R238, R250). -/
def readUnique (id : Ident) (agent addr : Nat) (op : CacheOp) (h : Hw) : Hw :=
  let key := keyOf addr
  if op.fits key && op.issuedBy agent then h.request id 1 agent addr (max 1 op.len) op (fun s => match s with
    | some .mod => some (Hw.ownOp id agent key op)
    | some .exc => some (Hw.ownOp id agent key op)
    | _ => none)
  else h

/-- UPGRADE of a line held in S or C (R238, R240); with none held it runs as a READ_UNIQUE. -/
def upgrade (id : Ident) (agent addr : Nat) (op : CacheOp) (h : Hw) : Hw :=
  let key := keyOf addr
  if op.fits key && op.issuedBy agent then h.request id 2 agent addr (max 1 op.len) op (fun s => match s with
    | some .mod => some (Hw.ownOp id agent key op)
    | some .exc => some (Hw.ownOp id agent key op)
    | _ => none)
  else h

/-- WRITE_BACK (R238, R249). -/
def writeBack (id : Ident) (agent addr : Nat) (h : Hw) : Hw := h.request id 3 agent addr (inLine (keyOf addr) 64) (.store []) (fun _ => none)

/-- EVICT_CLEAN (R238). -/
def evictClean (id : Ident) (agent addr : Nat) (h : Hw) : Hw := h.request id 4 agent addr (inLine (keyOf addr) 64) (.store []) (fun _ => none)

/-- TRANSFER: a cluster L2 line moves into the L3 (R238). -/
def transfer (id : Ident) (agent addr : Nat) (h : Hw) : Hw :=
  if 0x50 ≤ agent ∧ agent < 0x60 then h.request id 5 agent addr (inLine (keyOf addr) 64) (.store []) (fun _ => none) else h

/-- A non-caching agent's request: 1 to 2,048 bytes within one aligned sheaf (R243). -/
def Hw.ncRequest (id : Ident) (h : Hw) (kind nc addr len : Nat) (data : List Byte) (op : Nat) : Hw :=
  let key := keyOf addr
  if !(decide (1 ≤ len ∧ addr % 2048 + len ≤ 2048) && ncOk nc) then h
  else if !(h.reachable id addr && cacheable id key) || (closedTo id 0 key && kind != 6) then
    h.agentFault (0x80 + nc) (if kind = 6 then 1 else if kind = 7 then 2 else 3) key
  else h.order id (mkTxn h kind (0x80 + nc) key len data op (.store []))

/-- SNOOP_WITHOUT_ALLOCATE (R244). Non-caching agents: as Txn gives them, less 0x80; `hint` is a cart's or the update's own
(09 R212). `found` is what error detection finds at the line's home: 1 a correctable error, 2 an uncorrectable one (09 R222, R229). -/
def snoopWithoutAllocate (id : Ident) (nc addr len hint found : Nat) (h : Hw) : Hw :=
  (if h.reachable id addr then h.upset id (keyOf addr) found else h).ncRequest id 6 nc addr len [] hint

/-- WRITE_INVALIDATE with a cellar hint (R245). -/
def writeInvalidate (id : Ident) (nc addr hint : Nat) (data : List Byte) (h : Hw) : Hw :=
  h.ncRequest id 7 nc addr data.length data hint

/-- NONCACHING_ATOMIC: op 0 fetch-and-add, 1 compare-and-swap, on 4 or 8 aligned bytes (R246). -/
def noncachingAtomic (id : Ident) (nc addr size op : Nat) (opnd : List Byte) (h : Hw) : Hw :=
  if (size = 4 ∨ size = 8) ∧ addr % size = 0 then h.ncRequest id 8 nc addr size opnd op else h

/-- SNOOP: an agent answers an outstanding snoop of a line (R247, R249). -/
def snoop (id : Ident) (agent addr : Nat) (h : Hw) : Hw :=
  let line := lineAt (keyOf addr)
  match h.memS.open_.find? (fun t => t.snoops.contains (agent, line)) with
  | none => h
  | some t =>
    let (t', h) := h.answer id t agent line
    h.modMemS (fun m => { m with open_ := m.open_.map (fun x => if x = t then t' else x) })

/-- LINE_RELEASE: every answer of the transaction on a line has returned; it finishes, its lines free, and the waiting
transactions are ordered oldest first (R242). -/
def lineRelease (id : Ident) (slice addr : Nat) (h : Hw) : Hw :=
  let line := lineAt (keyOf addr)
  if slice ≠ sliceOf line then h
  else match h.memS.open_.find? (fun t => t.lines.contains line && t.snoops.isEmpty) with
  | none => h
  | some t => h.release id t

/-! ## Accesses of the tile control cores -/

/-- What a line reads as for an agent that holds it. -/
def Hw.heldData (id : Ident) (h : Hw) (agent line : Nat) : Option (List Byte) :=
  ((h.rollLine line).state agent).map (fun _ => h.copyOf id agent line)

/-- A read of a line's home that decides an uncorrectable error before the line is taken; of a holder that supplies it, its copy. -/
def Hw.homeSound (id : Ident) (h : Hw) (line : Nat) : RdRes × Hw :=
  match (h.rollLine line).supplier h.crierEn with
  | some e => (match h.cacheWord e.1 line 64 with
    | some w => .bad 0x05 w
    | none => .ok [], h)
  | none => h.homeRead id (h.lineHint id line) line 64

/-- A coherent load of n bytes within one line: held, or by a ReadShared. -/
def Hw.agentLoad (id : Ident) (h : Hw) (agent addr n : Nat) : RdRes × Hw :=
  let key := keyOf addr
  let line := lineAt key
  if !h.reachable id addr then (.fault key, h)
  else
    let h := h.claim id line
    match h.heldData id agent line with
    | some d => (.ok (subB d (key % 64) n), h)
    | none => match h.homeSound id line with
      | (.ok _, _) =>
        let h := h.perform id (mkTxn h 0 agent key n [] 0 (.store []))
        (.ok (subB (h.copyOf id agent line) (key % 64) n), h)
      | r => r

/-- A coherent store within one line: on a line held in M or E, by an Upgrade, or by a ReadUnique. -/
def Hw.agentStore (id : Ident) (h : Hw) (agent addr : Nat) (b : List Byte) : RdRes × Hw :=
  let key := keyOf addr
  let line := lineAt key
  if !h.reachable id addr || closedTo id agent key then (.fault key, h)
  else
    let h := h.claim id line
    match (h.rollLine line).state agent with
    | some .mod => (.ok [], h.ownOp id agent key (.store b))
    | some .exc => (.ok [], h.ownOp id agent key (.store b))
    | some _ => (.ok [], h.perform id (mkTxn h 2 agent key b.length [] 0 (.store b)))
    | none => match h.homeSound id line with
      | (.ok _, _) => (.ok [], h.perform id (mkTxn h 1 agent key b.length [] 0 (.store b)))
      | x => x

/-- What an unfinished transaction had collected from an M holder of `from_` goes to the line's home, where that is in service. -/
def Hw.bringHome (id : Ident) (h : Hw) (t : Txn) (from_ : Nat → Bool) : Hw :=
  (t.got.filter (fun x => t.src.any (fun s => s.1 == x.1 && from_ s.2))).foldl (fun h x =>
    if h.reachable id x.1 then h.homeWrite id (h.lineHint id x.1) false x.1 x.2 else h) h

/-- The transactions of agents that leave service end: dirty data collected from a holder of `from_` goes home, and snoops to them
count as answered (notes/assumptions/16). -/
def Hw.dropTxns (id : Ident) (h : Hw) (gone from_ : Nat → Bool) : Hw :=
  let ended := h.memS.open_.filter (fun t => gone t.agent)
  let h := h.modMemS (fun m => { m with
    open_ := (m.open_.filter (fun t => !gone t.agent)).map (fun t => { t with snoops := t.snoops.filter (fun s => !gone s.1) })
    wait := m.wait.filter (fun t => !gone t.agent) })
  ended.foldl (fun h t => h.bringHome id t from_) h

/-- An agent's lines written back and dropped: an M line to its home, E and C lines by EvictClean (R256). -/
def Hw.dropAgent (id : Ident) (h : Hw) (agent : Nat) : Hw :=
  h.memS.roll.foldl (fun h e =>
    let line := e.1 * 64
    let r := h.rollLine line
    match r.state agent with
    | none => h
    | some s =>
      let h := if s = .mod then h.writeBackLine id line else h
      h.setRoll line ((h.rollLine line).drop agent)) h

end Sys2Proof.Machine
end

