-- ==== Sys2Proof/Machine/Queues.lean ====
section
/-!
DEFINITION. Queues.lean: queue descriptors in the clerk region, doorbells and completions (15 R366 to R368, R483).
-/
namespace Sys2Proof.Machine

/-! ## Descriptors (15 Table 15-6) -/

structure QDesc where
  kind : Nat
  log2n : Nat
  win : Nat
  st : Nat                       -- 0 free, 1 ready, 2 broken, 3 closing
  ctx : Nat
  reason : Nat
  ringOff : Nat
  head : Nat
  tail : Nat
  cq : Nat
  arrivals : Nat
  completed : Nat
  deriving DecidableEq, Repr

def qAddr (id : Ident) (q : Nat) : Nat := clerkBase id + 64 * q

def QDesc.ofBytes (b : List Byte) : QDesc :=
  { kind := recN b 0 1, log2n := recN b 1 1, win := fld (recN b 2 1) 0 6, st := recN b 3 1, ctx := fld (recN b 4 2) 0 12
    reason := recN b 6 1, ringOff := recN b 8 6, head := recN b 16 4, tail := recN b 20 4, cq := fld (recN b 24 4) 0 20
    arrivals := recN b 32 8, completed := recN b 40 8 }

def QDesc.bytes (d : QDesc) : List Byte :=
  mkRec 64 [(0, 1, d.kind), (1, 1, d.log2n), (2, 1, d.win), (3, 1, d.st), (4, 2, d.ctx), (6, 1, d.reason), (8, 6, d.ringOff),
    (16, 4, d.head), (20, 4, d.tail), (24, 4, d.cq), (32, 8, d.arrivals), (40, 8, d.completed)]

/-- A queue's descriptor: the copy that the clerk's cache holds in M, else the home's. -/
def Hw.q (id : Ident) (h : Hw) (n : Nat) : QDesc :=
  QDesc.ofBytes ((h.rollLine (qAddr id n)).data.getD (h.memS.mem.bytes (qAddr id n) 64))
/-- An access of the clerk or the steward claims a descriptor's line (10 R242). -/
def Hw.claimQ (id : Ident) (h : Hw) (n : Nat) : Hw := h.claim id (lineAt (qAddr id n))
/-- The clerk or the steward writes a descriptor, which no cache then holds (10 R245). -/
def Hw.setQ (id : Ident) (h : Hw) (n : Nat) (d : QDesc) : Hw :=
  ((h.claimQ id n).modMem (fun m => (m.puts (qAddr id n) d.bytes).clean 64 (qAddr id n) 64)).setRoll (qAddr id n) RollLine.init
def Hw.modQ (id : Ident) (h : Hw) (n : Nat) (f : QDesc → QDesc) : Hw :=
  let h := h.claimQ id n
  h.setQ id n (f (h.q id n))

/-- Bytes of an entry of a kind. -/
def entrySize (kind : Nat) : Nat := if kind = 0 then 128 else if kind = 3 then 32 else 64

def sub32 (a b : Nat) : Nat := (a + 2 ^ 32 - b % 2 ^ 32) % 2 ^ 32
def add32 (a b : Nat) : Nat := (a + b) % 2 ^ 32

/-- Posted entries not taken (for a completion queue, completions not consumed). -/
def QDesc.depth (d : QDesc) : Nat := sub32 d.tail d.head

/-- The ring window holds: valid, read and write, covering the ring (R366). -/
def Hw.ringOk (h : Hw) (d : QDesc) : Bool :=
  let w := h.win d.ctx d.win
  w.valid && !w.isDoorbell && bitAt w.rights rRead && bitAt w.rights rWrite &&
    decide (d.ringOff + 2 ^ d.log2n * entrySize d.kind ≤ w.len)

/-- Physical address of ring slot for a running index. -/
def Hw.slotAddr (h : Hw) (d : QDesc) (i : Nat) : Nat :=
  (h.win d.ctx d.win).base + d.ringOff + i % 2 ^ d.log2n * entrySize d.kind

def Hw.setBit (h : Hw) (q : Nat) (b : Bool) : Hw := { h with bitmap := SMap.set false h.bitmap q b }

/-! ## Doorbells (R367) -/

/-- X of a queue: TAIL for kinds 0 to 2, HEAD for kind 3. -/
def QDesc.x (d : QDesc) : Nat := if d.kind = 3 then d.head else d.tail

/-- A doorbell of value v rings queue q. -/
def Hw.ring (id : Ident) (h : Hw) (q v : Nat) : Hw :=
  let h := h.claimQ id q
  let d := h.q id q
  let k := sub32 v d.x
  if d.st ≠ 1 ∨ k = 0 ∨ 2 ^ 31 ≤ k then h
  else if (d.kind ≠ 3 ∧ 2 ^ d.log2n < sub32 v d.head) ∨ (d.kind = 3 ∧ 2 ^ 31 ≤ sub32 d.tail v) then
    h.setQ id q { d with st := 2, reason := 0x02 }
  else if d.kind = 3 then h.setQ id q { d with head := v % 2 ^ 32 }
  else (h.setQ id q { d with tail := v % 2 ^ 32, arrivals := d.arrivals + k }).setBit q true

/-- DOORBELL_WRITE: a store of 4 or 8 bytes at byte `off` of queue q's doorbell register (R367). -/
def doorbellWrite (id : Ident) (q width off v : Nat) (h : Hw) : Hw :=
  if q < 2 ^ 20 ∧ off = 0 ∧ (width = 8 ∨ width = 4) ∧ !h.inReset then h.ring id q (v % 2 ^ 32) else h

/-- A read of a doorbell register gives X. -/
def Hw.doorbellRead (id : Ident) (h : Hw) (q : Nat) : Nat := (h.q id q).x

/-! ## Completions (R366) -/

/-- A queue breaks with a reason, when it is ready. -/
def Hw.breakQ (id : Ident) (h : Hw) (q reason : Nat) : Hw :=
  let h := h.claimQ id q
  let d := h.q id q
  if d.st = 1 then h.setQ id q { d with st := 2, reason := reason } else h

/-- Produce a completion of a queue. -/
def Hw.produce (h : Hw) (q : Nat) (b : List Byte) : Hw := { h with compl := h.compl ++ [⟨q, b⟩] }

/-- A queue that has produced a completion which waits for room stalls (R366). -/
def Hw.stalled (id : Ident) (h : Hw) (q : Nat) : Bool :=
  h.compl.any (fun c => c.prod == q) &&
    (let c := h.q id (h.q id q).cq
     decide (2 ^ c.log2n ≤ c.depth))

/-- Drop the first completion of a queue. -/
def dropCompl (q : Nat) : List Compl → List Compl
  | [] => []
  | c :: cs => if c.prod = q then cs else c :: dropCompl q cs

/-- COMPLETION_WRITE of a producing queue's oldest completion: written once room exists; discarded, with the producer
broken (REASON 0x04), where the completion queue is broken or free. `broke` says what else that break does. -/
def Hw.writeCompletion (id : Ident) (h : Hw) (q : Nat) (broke : Hw → Hw) : Hw :=
  match h.compl.find? (·.prod == q) with
  | none => h
  | some c =>
    let d := h.q id q
    let cq := h.q id d.cq
    let lose (h : Hw) : Hw := broke ({ h with compl := dropCompl q h.compl }.breakQ id q 0x04)
    if d.st = 0 then { h with compl := dropCompl q h.compl }
    else if cq.st ≠ 1 ∨ cq.kind ≠ 3 then lose h
    else if !h.ringOk cq then lose (h.breakQ id d.cq 0x03)
    else if 2 ^ cq.log2n ≤ cq.depth then h
    else match h.ncWrite id 0 false (h.slotAddr cq cq.tail) c.bytes with
      | (some _, h) => lose (h.breakQ id d.cq 0x03)
      | (none, h) =>
        let h := { h with compl := dropCompl q h.compl }
        let h := h.setQ id d.cq { cq with tail := add32 cq.tail 1, completed := cq.completed + 1 }
        h.modQ id q (fun d => { d with completed := d.completed + 1 })

end Sys2Proof.Machine
end

