-- ==== Sys2Proof/Machine/Frames.lean ====
section
/-!
DEFINITION. Frames.lean: the bytes of a transport frame, in fabric mode and in Ethernet mode (12 R282 to R285).
-/
namespace Sys2Proof.Machine

/-- The n low bytes of a number, most significant byte first (R282). -/
def toBE (n v : Nat) : List Byte := (toLE n v).reverse

/-- The number that bytes in network order spell. -/
def beNat (b : List Byte) : Nat := b.foldl (fun a x => a * 256 + x.toNat) 0

/-! ## Headers (Tables 12-3, 12-4) -/

/-- The carter transport header. -/
def Pkt.cth (p : Pkt) : List Byte :=
  let bit (b : Bool) (i : Nat) : Nat := if b then 2 ^ i else 0
  toBE 1 p.op ++ toBE 1 (bit p.first 0 + bit p.last 1 + bit p.ackreq 2 + bit p.oeth.isSome 3) ++ toBE 3 (p.dqpn % 2 ^ 20) ++
    toBE 3 p.psn ++ toBE 4 p.ts

def retHdr (x : Nat × Nat × Nat × Nat) : List Byte :=
  toBE 1 (x.1 % 64) ++ [0] ++ toBE 2 x.2.1 ++ toBE 6 x.2.2.1 ++ toBE 4 x.2.2.2 ++ [0, 0]
def ateHdr (x : Nat × Nat) : List Byte := toBE 8 x.1 ++ toBE 8 x.2
def oetHdr (x : Nat × Nat) : List Byte := toBE 1 x.1 ++ toBE 2 x.2 ++ [0]
def cltHdr (x : Nat × Nat × Nat × Nat × Nat × Nat) : List Byte :=
  toBE 4 x.1 ++ toBE 2 x.2.1 ++ toBE 2 x.2.2.1 ++ toBE 2 x.2.2.2.1 ++ toBE 1 x.2.2.2.2.1 ++ [0] ++ toBE 4 x.2.2.2.2.2
def aetHdr (x : Nat × Nat × Nat) : List Byte := toBE 8 x.1 ++ toBE 2 x.2.1 ++ toBE 1 x.2.2 ++ [0]

/-- From the CTH to the end of the payload (R285). -/
def Pkt.wire (p : Pkt) : List Byte :=
  p.cth ++ p.reth.elim [] retHdr ++ p.ateth.elim [] ateHdr ++ p.oeth.elim [] oetHdr ++ p.clth.elim [] cltHdr ++
    p.aeth.elim [] aetHdr ++ p.payload

/-- How many bytes that is. -/
def Pkt.wireLen (p : Pkt) : Nat :=
  let has (b : Bool) (n : Nat) : Nat := if b then n else 0
  12 + has p.reth.isSome 16 + has p.ateth.isSome 16 + has p.oeth.isSome 4 + has p.clth.isSome 16 + has p.aeth.isSome 12 +
    p.payload.length

/-! ## Checks -/

/-- One byte into the CRC-32 of IEEE 802.3, least significant bit first. -/
def crcByte (c : Nat) (b : Byte) : Nat :=
  (List.range 8).foldl (fun c _ => if c % 2 = 1 then (c / 2) ^^^ 0xEDB88320 else c / 2) (c ^^^ b.toNat)

/-- The frame check sequence, as its four bytes are sent. -/
def fcs (x : List Byte) : List Byte := toLE 4 (x.foldl crcByte 0xFFFFFFFF ^^^ 0xFFFFFFFF)

/-- The one's complement checksum of UDP over IPv6, with 0 sent as all ones. -/
def sum16 : List Byte → Nat
  | a :: b :: r => a.toNat * 256 + b.toNat + sum16 r
  | [a] => a.toNat * 256
  | [] => 0

def checksum16 (x : List Byte) : Nat :=
  let s := sum16 x
  let s := s % 65536 + s / 65536
  let s := s % 65536 + s / 65536
  if s = 0xFFFF then 0xFFFF else 0xFFFF - s

/-! ## Frames -/

/-- A fabric-mode transport frame of class k: link header, transport, CRC-32 (R283). -/
def fabricFrame (k : Nat) (p : Pkt) : List Byte :=
  let x := toBE 4 (p.wireLen % 4096 * 256 + k % 8 * 16 + 1) ++ p.wire
  x ++ fcs x

/-- What an Ethernet-mode frame takes from its queue pair, link and class. -/
structure EthHdr where
  dmac : List Byte
  smac : List Byte
  dscp : Nat
  flow : Nat
  src  : List Byte
  dst  : List Byte
  port : Nat
  deriving DecidableEq, Repr

/-- An Ethernet-mode transport frame (R284). -/
def etherFrame (e : EthHdr) (p : Pkt) : List Byte :=
  let n := 8 + p.wireLen
  let udp (sum : Nat) : List Byte := toBE 2 e.port ++ toBE 2 47072 ++ toBE 2 n ++ toBE 2 sum
  let pseudo := e.src ++ e.dst ++ toBE 4 n ++ toBE 4 17
  let x := e.dmac ++ e.smac ++ toBE 2 0x86DD ++ toBE 4 (6 * 2 ^ 28 + e.dscp % 64 * 2 ^ 22 + e.flow % 2 ^ 20) ++ toBE 2 n ++
    toBE 1 17 ++ toBE 1 64 ++ e.src ++ e.dst ++ udp (checksum16 (pseudo ++ udp 0 ++ p.wire)) ++ p.wire
  x ++ fcs x

/-- A frame longer than its mode allows: 2,100 bytes in fabric mode, 2,146 in Ethernet mode (R283, R284). -/
def Pkt.tooLong (eth : Bool) (p : Pkt) : Bool := if eth then decide (2146 < p.wireLen + 66) else decide (2100 < p.wireLen + 8)

end Sys2Proof.Machine
end

