-- ==== Sys2Proof/Machine/Carter.lean ====
section
/-!
DEFINITION. Carter.lean: the carters' links, queue pairs, transmission, acknowledgement and closing (12 R276 to R298, R303
to R307), and message-signalled interrupts.
-/
namespace Sys2Proof.Machine

/-! ## Interrupts (20 R454) -/

/-- An MSI to a hart's file (0 machine, 1 or 3 supervisor, 2 guest): pending, or discarded and counted while the hart is in
reset (18 R421). Identity 0 sends none, and there is no guest file 7. -/
def Hw.msi (h : Hw) (hart file guest ident : Nat) : Hw :=
  if ident = 0 ∨ (file = 2 ∧ 6 < guest) then h
  else if h.hartOn hart then
    let f := if file = 0 then 0 else if file = 2 then 2 + guest else 1
    { h with boot := { h.boot with imsic := SMap.set false h.boot.imsic (2048 * (9 * hart + f) + ident % 2048) true } }
  else h.bump (blkBase .clerk 0 + 0x40018) 0 32 1

/-! ## Attributes (12 Table 12-6) -/

def Qp.rq (q : Qp) : Nat := fld (recN q.attr 0 4) 0 20
def Qp.ctx (q : Qp) : Nat := fld (recN q.attr 0 4) 20 12
def Qp.cq (q : Qp) : Nat := fld (recN q.attr 4 4) 0 20
def Qp.fc (q : Qp) : Nat := fld (recN q.attr 4 4) 20 3
def Qp.ordered (q : Qp) : Bool := bitAt (recN q.attr 4 4) 23
def Qp.leaseOk (q : Qp) : Bool := bitAt (recN q.attr 4 4) 24
def Qp.dqpn (q : Qp) : Nat := fld (recN q.attr 8 4) 0 20
/-- Primary link, alternate link (8 × port + link), and whether the alternate is enabled. -/
def linkByte (b : Nat) : Nat := 8 * fld b 0 4 + fld b 4 3
def Qp.plink (q : Qp) : Nat := linkByte (recN q.attr 12 1)
def Qp.alink (q : Qp) : Nat := linkByte (recN q.attr 13 1)
def Qp.altEn (q : Qp) : Bool := bitAt (recN q.attr 13 1) 7
def Qp.chan (q : Qp) : Nat := recN q.attr 14 1
def Qp.retryMax (q : Qp) : Nat := fld (recN q.attr 15 1) 0 4
def Qp.rnrMax (q : Qp) : Nat := fld (recN q.attr 15 1) 4 4
/-- Its carter: that of its primary link's port (R286). -/
def Qp.carter (q : Qp) : Nat := q.plink / 8
/-- The link it transmits on. -/
def Qp.link (q : Qp) : Nat := if q.alt then q.alink else q.plink

def Qp.init : Qp :=
  { st := 0, attr := [], alt := false, nextPsn := 0, una := 0, credit := 64, out := [], txq := [], wrs := [], cwnd := 0,
    rtt := 0, round := none, rmin := none, timeouts := 0, rnrs := 0, rnrAt := none, adv := 0, paced := 0, exp := 0,
    limit := 65, rx := [], msg := none, rwr := none, rgot := 0, posted := [], accN := 0, accTs := 0, accAt := none,
    oow := [], overN := [], bad := false }

def Hw.modFab (h : Hw) (f : Fab → Fab) : Hw := { h with fab := f h.fab }
def Hw.qp (h : Hw) (n : Nat) : Option Qp := SMap.get none h.fab.qps n
def Hw.setQp (h : Hw) (n : Nat) (q : Qp) : Hw := h.modFab (fun f => { f with qps := SMap.set none f.qps n (some q) })
def Hw.modQp (h : Hw) (n : Nat) (f : Qp → Qp) : Hw := match h.qp n with
  | some q => h.setQp n (f q)
  | none => h
def Hw.flink (h : Hw) (l : Nat) : Link := SMap.get Link.init h.fab.links l
def Hw.modLink (h : Hw) (l : Nat) (f : Link → Link) : Hw :=
  h.modFab (fun x => { x with links := SMap.mod Link.init x.links l f })
def carterReg (c off : Nat) : Nat := blkBase .carter c + off

/-- A lamp bay, and whether its lamp is lit (21 R468). -/
def Hw.lamp (h : Hw) (n : Nat) : Lamp := SMap.get Lamp.init h.boot.lamps n
def Hw.lampLit (h : Hw) (n : Nat) : Bool := (h.lamp n).st == 4

/-- The optics of a port run: the lamp that feeds it is lit and its carter ready, and the accelerator side is out of reset
(01 R23, R27), from boot step 6 on (20 R449). -/
def Hw.optics (h : Hw) (c : Nat) : Bool := h.lampLit (c / 4) && (h.lamp (c / 4)).phase == 0 && !h.accelHeld && (h.boot.phase == 7 || h.boot.phase == 8)

/-- PORT_CFG.MODE: 0 fabric, 1 Ethernet, else off. -/
def Hw.portMode (h : Hw) (c : Nat) : Nat := h.regF (carterReg c 0) 0 2
/-- Links of a port at its width. -/
def Hw.portLinks (h : Hw) (c : Nat) : Nat := 2 ^ h.regF (carterReg c 0) 2 2
def Hw.linkUp (h : Hw) (l : Nat) : Bool := (h.flink l).st == 2

/-- Difference of PSNs modulo 2^24. -/
def pd (a b : Nat) : Nat := (a + 2 ^ 24 - b % 2 ^ 24) % 2 ^ 24
def padd (a b : Nat) : Nat := (a + b) % 2 ^ 24

/-! ## Completions (R288) -/

/-- A completion entry of a queue pair. -/
def qpCompl (wr : List Byte) (status qpn bytes reason now : Nat) : List Byte :=
  mkRec 32 [(0, 8, recN wr 48 8), (8, 1, status), (9, 1, recN wr 0 1), (12, 4, qpn), (16, 4, bytes % 2 ^ 32), (20, 1, reason),
    (24, 8, now)]

/-- A work request completes into the queue it came from: on SIGNAL, for a RECV, or on failure (Table 12-7). -/
def Hw.wrDone (h : Hw) (queue qpn : Nat) (wr : List Byte) (status bytes reason : Nat) : Hw :=
  if status ≠ 0 ∨ bitAt (recN wr 1 1) 0 ∨ recN wr 0 1 = 8 then
    h.produce queue (qpCompl wr status qpn bytes reason h.bellNs)
  else h

/-- The untaken entries of a ready queue whose ring can be read, oldest first. -/
def Hw.untaken (id : Ident) (h : Hw) (q : Nat) : List (List Byte) :=
  let d := h.q id q
  if d.st = 1 ∧ h.ringOk d then
    (List.range d.depth).filterMap (fun i => match h.ncRead id hintOut (h.slotAddr d (add32 d.head i)) (entrySize d.kind) with
      | (.ok b, _) => some b
      | _ => none)
  else []

/-- Take every entry of a queue. -/
def Hw.takeAll (id : Ident) (h : Hw) (q : Nat) : Hw :=
  if (h.q id q).st = 1 then (h.modQ id q (fun d => { d with head := d.tail })).setBit q false else h

/-! ## Transmission (R295 to R298) -/

/-- The bytes in which queue pair n's packet of class k leaves, as its link's port runs (R283, R284). -/
def Hw.frame (h : Hw) (n : Nat) (q : Qp) (k : Nat) (p : Pkt) : List Byte :=
  let c := q.link / 8
  if h.portMode c = 1 then
    let a := carterReg c (0x100 + 16 * (q.link % 8))
    etherFrame { dmac := subB q.attr 32 6, smac := toBE 6 (Config.mac q.link).toNat, dscp := fld (h.reg (carterReg c 0)) (16 + 6 * k) 6
                 flow := q.dqpn, src := toBE 8 (h.reg a) ++ toBE 8 (h.reg (a + 8)), dst := subB q.attr 16 16
                 port := 0xC000 + n % 16384 } p
  else fabricFrame k p

/-- A packet with the TS it leaves with: bell time, but in ACK and NAK the one it echoes (Table 12-3). -/
def Hw.stamped (h : Hw) (p : Pkt) : Pkt := { p with ts := if p.op = 8 ∨ p.op = 9 then p.ts else h.bellNs % 2 ^ 32 }

/-- Queue pair n's packet of class k leaves on its link; its carter counts it (19 Table 19-2). -/
def Hw.emit (h : Hw) (n : Nat) (q : Qp) (k : Nat) (p : Pkt) : Hw :=
  let p := h.stamped p
  let h := { h with out := h.out ++ [Outp.pkt (q.link / 8) (q.link % 8) p (h.frame n q k p)] }
  (h.countHub 0 (16 + 2 * q.carter) p.payload.length).countHub 1 (16 * q.carter + p.op % 16) 1

/-- PSNs a packet takes. -/
def Pkt.span (p : Pkt) : Nat :=
  if p.op = 2 then match p.reth with
    | some r => max 1 ((r.2.2.2 + 2047) / 2048)
    | none => 1
  else 1

/-- The SACK bitmap: which PSNs past the expected one have been received (Table 12-4). -/
def Qp.sackBits (q : Qp) : Nat :=
  (List.range 64).foldl (fun a i =>
    if q.rx.any (fun r => decide (pd (padd q.exp (1 + i)) r.pkt.psn < r.pkt.span)) then a + 2 ^ i else a) 0

/-- A control packet (ACK, NAK, CLOSE) leaves at once, on a link that is up. CREDIT counts packets beyond the expected one. -/
def Hw.control (h : Hw) (n : Nat) (q : Qp) (op ts reason : Nat) : Hw :=
  if h.linkUp q.link then
    h.emit n q 0 { Pkt.mk0 op q.dqpn q.exp ts with aeth := some (q.sackBits, q.limit - 1, reason) }
  else h

def TxPkt.cls (q : Qp) (p : TxPkt) : Nat := if p.pkt.op = 7 ∨ p.pkt.op = 0xB then 0 else q.fc

/-- Unacknowledged payload bytes. -/
def Qp.flight (q : Qp) : Nat := q.out.foldl (fun a p => a + p.pkt.payload.length) 0

/-- The class is open at the queue pair's carter; class 0 always is (R298). -/
def Hw.classOpen (h : Hw) (q : Qp) (k : Nat) : Bool := k == 0 || bitAt (h.reg (carterReg q.carter 0x220)) k

/-- A queue pair's next packet, when it may be sent now: a waiting packet of class 0 first, else the head of its transmit queue
(R279, R293, R295, R297, R298). -/
def Hw.txHead (h : Hw) (q : Qp) (pacedOk : Bool) : Option TxPkt :=
  let may (p : TxPkt) : Bool :=
    q.st == 1 && !q.bad && h.linkUp q.link && h.classOpen q (p.cls q) &&
      decide (q.flight < q.cwnd) && (pacedOk || decide (2048 ≤ q.cwnd)) &&
      (p.resp || (q.rnrAt.isNone && decide (pd p.pkt.psn q.una ≤ q.credit)))
  (((q.txq.find? (fun p => p.cls q == 0)).toList ++ q.txq.head?.toList).find? may)

/-- A transmission of PSN `psn` opens a round when none is running (R297). -/
def Qp.opens (q : Qp) (psn : Nat) : Option Nat := match q.round with
  | some r => some r
  | none => some psn

/-- Send a waiting packet. The retransmit timer starts with the first packet outstanding (R296). -/
def Hw.sendHead (h : Hw) (n : Nat) (q : Qp) (p : TxPkt) : Hw :=
  let again := p.sentAt.isSome
  let p' := { p with sentAt := some h.localNs }
  let q' := { q with
    txq := q.txq.erase p
    out := if p.resp then q.out else q.out ++ [p']
    round := if p.resp then q.round else q.opens p.pkt.psn
    adv := if !p.resp && q.out.isEmpty then h.localNs else q.adv
    paced := h.localNs }
  let h := (h.setQp n q').emit n q (p.cls q) p.pkt
  let h := if again then h.countHub 1 (256 + q.carter) 1 else h
  h.modFab (fun f => { f with lastFc := if p.cls q = 0 then f.lastFc else SMap.set 0 f.lastFc q.carter (p.cls q) })

/-- The next queue pair of a carter to send: class 0 first, then the classes in rotation (R298). -/
def Hw.txNext (h : Hw) (c : Nat) : Option (Nat × Qp × TxPkt) :=
  let ready := h.fab.qps.filterMap (fun e => match e.2 with
    | some q => if q.carter = c then (h.txHead q false).map (fun p => (e.1, q, p)) else none
    | none => none)
  let last := SMap.get 0 h.fab.lastFc c
  let order := 0 :: (List.range 7).map (fun i => (last + i) % 7 + 1)
  order.findSome? (fun k => ready.find? (fun e => e.2.2.cls e.2.1 == k))

def pumpLoop (c : Nat) : Nat → Hw → Hw
  | 0, h => h
  | f + 1, h => match h.txNext c with
    | some (n, q, p) => pumpLoop c f (h.sendHead n q p)
    | none => h

/-- Send whatever carter c may send now. -/
def Hw.pump (h : Hw) (c : Nat) : Hw :=
  pumpLoop c (h.fab.qps.foldl (fun a e => match e.2 with
    | some q => a + q.txq.length
    | none => a) 0) h

/-- Every carter sends what it may. -/
def Hw.pumpAll (h : Hw) : Hw := (List.range 16).foldl Hw.pump h

/-- A packet among the waiting ones, in the order of their PSNs from the first unacknowledged one. -/
def insertTx (una : Nat) (p : TxPkt) : List TxPkt → List TxPkt
  | [] => [p]
  | x :: xs => if x.resp || decide (pd x.pkt.psn una < pd p.pkt.psn una) then x :: insertTx una p xs else p :: x :: xs

/-- Everything unacknowledged waits for transmission again, from the first unacknowledged packet. -/
def Qp.requeue (q : Qp) : Qp :=
  { q with txq := q.out.foldl (fun t p => insertTx q.una { p with sacked := false } t) q.txq, out := [] }

/-! ## Acknowledgement by the receiver (R295) -/

/-- A gather write this queue pair holds under 08 R197 stops further credit (R302). -/
def Qp.holdsGather (q : Qp) : Bool := q.rx.any (fun r => r.pkt.op == 0xD && !r.placed)

/-- Send an ACK (op 8) or a NAK (op 9) with a reason, echoing the TS of the packet that caused it and renewing the credit. -/
def Hw.ackNow (h : Hw) (n op reason ts : Nat) : Hw :=
  match h.qp n with
  | none => h
  | some q =>
    let q := if q.holdsGather then q else { q with limit := 4096 }
    (h.setQp n { q with accN := if op = 8 then 0 else q.accN, accAt := if op = 8 then none else q.accAt }).control n q op
      ts reason

/-- ACK_TIMER: 2 µs after the first packet not acknowledged (R295). -/
def ackTimer (n : Nat) (h : Hw) : Hw :=
  match h.qp n with
  | some q => match q.accAt with
    | some t => if q.st = 1 ∧ t + 2000 ≤ h.localNs then h.ackNow n 8 0 q.accTs else h
    | none => h
  | none => h

/-! ## Closing (R287, R288, R301, Table 12-12) -/

/-- The rank a queue pair stands for in a map; the entry of the own rank r is ignored (R299). -/
def rankOf (map : List Nat) (r n : Nat) : Option Nat :=
  (List.range map.length).find? (fun k => k != r && map[k]? == some n)

/-- Forget a collective, its request no longer started. -/
def Hw.dropColl (h : Hw) (g : Nat) (c : Coll) : Hw :=
  (h.modFab (fun f => { f with colls := SMap.set none f.colls g none })).modQp c.qpn (fun q =>
    { q with wrs := q.wrs.filter (fun w => !(w.coll && fld (recN w.wr 32 1) 0 6 == g)) })

/-- A collective fails: its request completes with COLLECTIVE_FAILED and the reason of the close that failed it, else 0 (R301). -/
def Hw.failColl (h : Hw) (g reason : Nat) : Hw :=
  match SMap.get none h.fab.colls g with
  | none => h
  | some c => (h.dropColl g c).wrDone c.qpn c.qpn c.wr 0x49 0 reason

/-- Fail every collective whose map names a queue pair at another rank than the own. -/
def Hw.failColls (h : Hw) (n reason : Nat) : Hw :=
  h.fab.colls.foldl (fun h e => match e.2 with
    | some c => if (rankOf c.map c.r n).isSome then h.failColl e.1 reason else h
    | none => h) h

/-- Forget the collectives a closing queue pair issued whose maps do not name it: their requests are flushed with its others. -/
def Hw.dropIssued (h : Hw) (n : Nat) : Hw :=
  h.modFab (fun f => { f with colls := f.colls.filter (fun e => match e.2 with
    | some c => c.qpn != n
    | none => false) })

/-- A queue pair closes: CLOSE is sent once (never for peer-closed), collectives through it fail, every incomplete work
request completes, with its own cause for ring index `bad` and with `rest` for the others (R288). -/
def Hw.closeQp (id : Ident) (h : Hw) (n reason : Nat) (bad : Option (Nat × Nat × Nat)) (rest : Nat) (send : Bool) : Hw :=
  match h.qp n with
  | none => h
  | some q =>
    if q.st ≠ 1 then h
    else
      let h := if send && reason != 0xA then h.control n q 0xA q.accTs reason else h
      let h := (h.failColls n reason)
      match h.qp n with
      | none => h
      | some q =>
        let sq := h.untaken id n
        let rq := h.untaken id q.rq
        let h := (h.dropIssued n).setQp n { q with st := 2, out := [], txq := [], wrs := [], rx := [], posted := [], rwr := none, accAt := none }
        let h := q.wrs.foldl (fun h w => match bad with
          | some (i, st, rs) => if w.idx = i then h.wrDone n n w.wr st 0 rs else h.wrDone n n w.wr rest 0 reason
          | none => h.wrDone n n w.wr rest 0 reason) h
        let h := sq.foldl (fun h wr => h.wrDone n n wr rest 0 reason) h
        let h := (q.rwr.toList ++ q.posted ++ rq).foldl (fun h wr => h.wrDone q.rq n wr rest 0 reason) h
        let h := ((h.takeAll id n).takeAll id q.rq)
        h.event 0x0D 8 q.carter (some q.ctx) [(16, 4, n), (20, 1, reason)]

/-- The carter meets an uncorrectable error in its buffers for a queue pair: its record, and the queue pair closes with reason
local-error (18 R408). -/
def Hw.meetBuf (id : Ident) (h : Hw) (n : Nat) : Hw :=
  match h.qp n with
  | some q =>
    if q.bad && q.st == 1 then (h.err 0x05 1 (srcOf 8 0x13 q.carter) (some q.ctx) none [(40, 1, 6)]).closeQp id n 1 none 0x40 true else h
  | none => h

/-- The oldest incomplete work request, as the one that caused a close. -/
def Qp.oldest (q : Qp) (status reason : Nat) : Option (Nat × Nat × Nat) :=
  (q.wrs.find? (fun w => !w.coll)).map (fun w => (w.idx, status, reason))

/-- The started request that owns a PSN; no request owns a collective's packet. -/
def Qp.owner (q : Qp) (psn : Nat) : Option WorkReq := q.wrs.find? (fun w => !w.coll && decide (pd psn w.psn < max 1 w.span))

/-- The request that a close on the failure of PSN `psn` takes as its cause: its owner; with nothing unacknowledged, the oldest. -/
def Qp.cause (q : Qp) (psn status reason : Nat) : Option (Nat × Nat × Nat) :=
  if q.una = q.nextPsn then q.oldest status reason else (q.owner psn).map (fun w => (w.idx, status, reason))

/-- A queue pair is closing: closed to packets and requests, with completions of its queues still to be written (R286). -/
def Hw.closing (h : Hw) (n : Nat) (q : Qp) : Bool := q.st == 2 && h.compl.any (fun c => c.prod == n || c.prod == q.rq)

/-- Queue pairs of a context, or all. -/
def Hw.qpsOf (h : Hw) (c : Option Nat) : List Nat :=
  h.fab.qps.filterMap (fun e => match e.2 with
    | some q => if q.st = 1 && (c == none || c == some q.ctx) then some e.1 else none
    | none => none)

/-- R388 step 5, R401: close queue pairs with a reason. -/
def Hw.closeAll (id : Ident) (h : Hw) (ns : List Nat) (reason : Nat) : Hw :=
  ns.foldl (fun h n => match h.qp n with
    | some q => h.closeQp id n reason (if reason = 6 then q.oldest 0x4A 6 else none) 0x40 true
    | none => h) h

/-! ## Violations and the blacklist (R303 to R305) -/

/-- The partner of a frame: the link in fabric mode, the source IPv6 address in Ethernet mode. -/
def Hw.partner (h : Hw) (c l src : Nat) : Nat := if h.portMode c = 1 then 2 ^ 128 + src else 8 * c + l

/-- The partner a queue pair talks to. -/
def Hw.qpPartner (h : Hw) (q : Qp) : Nat :=
  if h.portMode (q.link / 8) = 1 then 2 ^ 128 + beNat (subB q.attr 16 16)
  else q.link

def Hw.blacklisted (h : Hw) (p : Nat) : Bool := h.fab.black.any (·.1 == p)

/-- A violation of a row of Table 12-10: counted, and recorded at most once per partner and row in each millisecond. -/
def Hw.violation (h : Hw) (c part row qpn op psn : Nat) (ctx : Option Nat) (record : Bool) : Hw :=
  let h := h.bump (carterReg c 0x228) 0 40 1
  if !record then h
  else if h.fab.recAt.any (fun e => e.1 == part && e.2.1 == row && decide (h.localNs < e.2.2 + 1000000)) then h
  else
    let rest := h.fab.recAt.filter (fun e => !(e.1 == part && e.2.1 == row))
    let h := h.modFab (fun f => { f with recAt := (part, row, h.localNs) :: rest })
    h.err 0x0F 1 (srcOf 8 0x13 c) ctx none [(40, 4, qpn), (44, 1, op), (45, 1, row), (48, 4, psn), (52, 12, part % 2 ^ 96)]

/-- R305: a partner reaches VIOL_LIMIT violation closes within one bell second. -/
def Hw.blacklist (id : Ident) (h : Hw) (c part : Nat) : Hw :=
  let lim := h.regF (carterReg c 0x208) 32 8
  let recent := (h.fab.closes.filter (fun e => e.1 == part && decide (h.bellNs < e.2 + 1000000000))).length
  if lim = 0 ∨ recent < lim ∨ h.blacklisted part then h
  else
    let e := (part, h.bellNs + h.regF (carterReg c 0x208) 40 16 * 1000000000)
    let h := h.modFab (fun f =>
      let b := if f.black.length < 64 then f.black
        else match f.black.foldl (fun (m : Option (Nat × Nat)) x => match m with
            | none => some x
            | some y => if x.2 < y.2 then some x else some y) none with
          | some m => f.black.erase m
          | none => f.black
      { f with black := b ++ [e] })
    h.closeAll id ((h.qpsOf none).filter (fun n => match h.qp n with
      | some q => h.qpPartner q == part
      | none => false)) 9

/-- A violation that closes the queue pair (R303). `nak` is the NAK reason, 0 for none, and
`ts` the TS of the packet. -/
def Hw.violClose (id : Ident) (h : Hw) (c part row n op psn ts nak : Nat) (record : Bool) : Hw :=
  match h.qp n with
  | none => h
  | some q =>
    let h := h.violation c part row n op psn (some q.ctx) record
    let h := if nak = 0 then h else h.ackNow n 9 nak ts
    let h := h.closeQp id n 2 none 0x40 true
    let recent := h.fab.closes.filter (fun e => decide (h.bellNs < e.2 + 1000000000))
    let h := (h.bump (carterReg c 0x228) 40 16 1).modFab (fun f => { f with closes := (part, h.bellNs) :: recent })
    h.blacklist id c part

/-- BLACKLIST_EXPIRY: a partner whose expiry bell time has come (R305). -/
def blacklistExpiry (part : Nat) (h : Hw) : Hw :=
  h.modFab (fun f => { f with black := f.black.filter (fun e => !(e.1 == part && decide (e.2 ≤ h.bellNs))) })

/-! ## Acknowledgement at the sender (R289, R295 to R297) -/

/-- Window parameters of CC_CFG; a 0 acts as the table says. -/
def Hw.cwndMin (h : Hw) (c : Nat) : Nat := 256 * max 1 (h.regF (carterReg c 0x200) 44 8)
def Hw.cwndMax (h : Hw) (c : Nat) : Nat := 65536 * max 1 (h.regF (carterReg c 0x200) 52 12)

/-- R297: the window at the end of a round whose smallest sample is rmin. -/
def Hw.roundEnd (h : Hw) (c cwnd rmin : Nat) : Nat × Bool :=
  let r := h.reg (carterReg c 0x200)
  let target := fld r 0 16
  let band := max 1 (fld r 28 8)
  let maxcut := if fld r 36 8 = 0 then 16 else fld r 36 8
  let (w, cut) := if rmin ≤ target then (cwnd + fld r 16 12, false)
    else
      let b := min ((rmin - target) / (64 * band)) 7
      (cwnd - cwnd * min (16 * (b + 1)) maxcut / 256, true)
  (min (max w (h.cwndMin c)) (h.cwndMax c), cut)

/-- A round-trip sample and the end of a round it may bring. -/
def Hw.sample (h : Hw) (n psn ts : Nat) : Hw :=
  match h.qp n with
  | none => h
  | some q =>
    let c := q.carter
    let r := (h.bellNs + 2 ^ 32 - ts % 2 ^ 32) % 2 ^ 32
    let m := match q.rmin with
      | some x => min x r
      | none => r
    let q := { q with rtt := r }
    match q.round with
    | some rp =>
      let q := { q with rmin := some m }
      if 1 ≤ pd psn rp ∧ pd psn rp < 2 ^ 23 then
        let (w, cut) := h.roundEnd c q.cwnd m
        (h.setQp n { q with cwnd := w, round := none, rmin := none }).countHub 1 (272 + c) (if cut then 1 else 0)
      else h.setQp n q
    | none => h.setQp n q

/-- The first PSN not sent. -/
def Qp.sentEnd (q : Qp) : Nat :=
  let e := q.out.foldl (fun a p => max a (pd (padd p.pkt.psn p.span) q.una)) 0
  q.txq.foldl (fun a p => if p.sentAt.isSome then max a (pd (padd p.pkt.psn p.span) q.una) else a) e

def Qp.acked (q : Qp) (psn span : Nat) : Bool := decide (span ≤ pd q.una psn ∧ pd q.una psn < 2 ^ 23)

/-- Requests whose packets are all acknowledged complete (R289). -/
def Hw.completeAcked (h : Hw) (n : Nat) : Hw :=
  match h.qp n with
  | none => h
  | some q =>
    let isDone (w : WorkReq) : Bool := !w.coll && [0, 1, 7].contains (recN w.wr 0 1) && q.acked w.psn w.span
    let h := h.setQp n { q with wrs := q.wrs.filter (fun w => !isDone w) }
    let h := (q.wrs.filter isDone).foldl (fun h w => h.wrDone n n w.wr 0 (recN w.wr 4 4) 0) h
    h.modFab (fun f => { f with colls := f.colls.map (fun e => (e.1, e.2.map (fun c =>
      { c with acks := c.acks.filter (fun a => !(a.1 == n && q.acked a.2 1)) }))) })

/-- The first unacknowledged PSN advances. -/
def Hw.advance (h : Hw) (n psn : Nat) : Hw :=
  match h.qp n with
  | none => h
  | some q =>
    let k := pd psn q.una
    if k = 0 ∨ 2 ^ 23 ≤ k then h
    else
      let keep (p : TxPkt) : Bool := p.resp || decide (k < pd (padd p.pkt.psn p.span) q.una)
      (h.setQp n { q with una := psn, out := q.out.filter keep, txq := q.txq.filter keep, adv := h.localNs, timeouts := 0
                          rnrs := 0 }).completeAcked n

/-- SACK: note what arrived; what a later packet overtook waits for retransmission, at most once per round-trip time (R296), under the
window and the pacing (R297). -/
def Hw.sack (h : Hw) (n psn bits : Nat) : Hw :=
  match h.qp n with
  | none => h
  | some q =>
    let got (p : Nat) : Bool := decide (1 ≤ pd p psn ∧ pd p psn ≤ 64) && bitAt bits (pd p psn - 1)
    let out := q.out.map (fun p => if got p.pkt.psn then { p with sacked := true } else p)
    let lost (p : TxPkt) : Bool := !p.sacked && out.any (fun x => x.sacked && decide (pd p.pkt.psn q.una < pd x.pkt.psn q.una)) &&
      (match p.sentAt with
        | some t => decide (t + q.rtt ≤ h.localNs)
        | none => false)
    h.setQp n { q with
      txq := (out.filter lost).foldl (fun t p => insertTx q.una p t) q.txq
      out := out.filter (fun p => !lost p) }

/-- RETRANSMIT_TIMEOUT (R296). -/
def retransmitTimeout (id : Ident) (n : Nat) (h : Hw) : Hw :=
  let h := h.meetBuf id n
  match h.qp n with
  | none => h
  | some q =>
    let c := q.carter
    let rto := max 1 (h.regF (carterReg c 0x208) 0 16) * 1000
    if q.st = 1 && !q.out.isEmpty && h.linkUp q.link && h.classOpen q q.fc && q.rnrAt.isNone &&
        decide (q.adv + rto ≤ h.localNs) then
      let t := q.timeouts + 1
      if q.retryMax ≤ t then h.closeQp id n 3 (q.cause q.una 0x46 3) 0x40 true
      else (h.setQp n { q.requeue with timeouts := t, adv := h.localNs, cwnd := h.cwndMin c, round := none, rmin := none }).pump c
    else h

/-- PACING_INTERVAL_EXPIRY (R297). -/
def pacingIntervalExpiry (n : Nat) (h : Hw) : Hw :=
  match h.qp n with
  | none => h
  | some q =>
    if q.cwnd < 2048 ∧ 0 < q.cwnd ∧ q.paced + q.rtt * 2048 / q.cwnd ≤ h.localNs then
      match h.txHead q true with
      | some p => h.sendHead n q p
      | none => h
    else h

/-- RNR_RETRY: RNR_US after an rnr NAK the message is tried again (R293). -/
def rnrRetry (n : Nat) (h : Hw) : Hw :=
  match h.qp n with
  | none => h
  | some q => match q.rnrAt with
    | some t =>
      if q.st = 1 ∧ t + h.regF (carterReg q.carter 0x208) 16 16 * 1000 ≤ h.localNs then
        (h.setQp n { q with rnrAt := none }).pump q.carter
      else h
    | none => h

/-- n ns pass in which a queue pair's retransmit timer stands: its link is down, or its class is closed (R279, R298). -/
def Hw.holdTimers (h : Hw) (n : Nat) : Hw :=
  h.modFab (fun f => { f with qps := f.qps.map (fun e => (e.1, e.2.map (fun q =>
    if h.linkUp q.link && h.classOpen q q.fc then q else { q with adv := q.adv + n }))) })

/-! ## Links (R276 to R279) -/

/-- Queue pairs transmitting on a link. -/
def Hw.qpsOn (h : Hw) (l : Nat) : List Nat :=
  (h.qpsOf none).filter (fun n => match h.qp n with
    | some q => q.link == l
    | none => false)

/-- LINK_CONTROL_FRAME: a fabric link shows what it last received (R278); a blacklisted partner's frame is dropped and counted
(R303 row 5, R305). -/
def linkControlFrame (c l serial port link : Nat) (h : Hw) : Hw :=
  if ¬ (c < 16 ∧ l < 8 ∧ h.portMode c = 0 ∧ h.linkUp (8 * c + l)) then h
  else if h.blacklisted (h.partner c l 0) then h.violation c (h.partner c l 0) 5 0 0 0 none false
  else h.modLink (8 * c + l) (fun x => { x with peerId := serial % 2 ^ 32, peerPort := port % 16, peerLink := link % 8 })

/-- LINK_CONTROL_SEND: every 1 ms (R278). -/
def linkControlSend (c l : Nat) (h : Hw) : Hw :=
  if c < 16 ∧ l < 8 ∧ h.portMode c = 0 ∧ h.linkUp (8 * c + l) then
    { h with out := h.out ++ [Outp.linkControl c l (Config.serial.toNat % 2 ^ 32)] }
  else h

/-- A link goes down: its queue pairs pause, and the hold starts (R279). -/
def Hw.linkLost (h : Hw) (l : Nat) : Hw :=
  if h.linkUp l then h.modLink l (fun x => { x with st := 3, since := h.localNs }) else h

def linkDown (c l : Nat) (h : Hw) : Hw := if c < 16 ∧ l < 8 then h.linkLost (8 * c + l) else h

/-- A link comes up, where its port's optics run: its queue pairs resume from their first unacknowledged packets (R279). -/
def Hw.linkGain (h : Hw) (l : Nat) : Hw :=
  if h.portMode (l / 8) < 2 && decide (l % 8 < h.portLinks (l / 8)) && h.optics (l / 8) && !h.linkUp l then
    let h := h.modLink l (fun x => { x with st := 2 })
    ((h.qpsOn l).foldl (fun h n => h.modQp n Qp.requeue) h).pumpAll
  else h

def linkUp (c l : Nat) (h : Hw) : Hw := if c < 16 ∧ l < 8 then h.linkGain (8 * c + l) else h

/-- LINK_HOLD_EXPIRY (R279). -/
def linkHoldExpiry (id : Ident) (c l : Nat) (h : Hw) : Hw :=
  let k := 8 * c + l
  let x := h.flink k
  if c < 16 ∧ l < 8 ∧ x.st = 3 ∧ x.since + h.regF (carterReg c 0x208) 56 8 * 1000 ≤ h.localNs then
    (h.qpsOn k).foldl (fun h n => match h.qp n with
      | some q =>
        if !q.alt && q.altEn && h.linkUp q.alink then (h.setQp n { q.requeue with alt := true }).pump q.carter
        else h.closeQp id n 5 (q.cause q.una 0x48 5) 0x40 true
      | none => h) (h.modLink k (fun x => { x with st := 0 }))
  else h

/-! ## The lease (R306) -/

def leaseReg : Nat := carterReg 0 0x8000
def Hw.leaseOn (h : Hw) : Bool := h.regF leaseReg 63 1 == 1

/-- The term in force from an accepted renewal or an enable. -/
def Hw.leaseTerm (h : Hw) : Hw :=
  let h := h.applyShadow leaseReg (leaseReg + 8)
  h.modFab (fun f => { f with leaseAt := h.localNs + max 1 (h.regF leaseReg 0 32) * 1000000 })

/-- A renewal with an epoch above the last accepted. -/
def Hw.renew (h : Hw) (epoch : Nat) : Hw :=
  if h.leaseOn && decide (h.fab.epoch < epoch) then (h.leaseTerm).modFab (fun f => { f with epoch := epoch }) else h

/-- Write the lease's enable, host flag and term: ENABLE = 1 arms it, ENABLE = 0 disables it. -/
def Hw.leaseWrite (h : Hw) (enable host : Bool) (term : Nat) : Hw :=
  let h := (h.setRegF leaseReg 63 1 (if enable then 1 else 0)).setRegF leaseReg 62 1 (if host then 1 else 0)
  let h := { h with shadow := SMap.set none h.shadow leaseReg (some (BitVec.ofNat 64 (term % 2 ^ 32))) }
  if enable then (h.leaseTerm).modFab (fun f => { f with leaseSt := 1 })
  else h.modFab (fun f => { f with leaseSt := if f.leaseSt = 2 then 2 else 0 })

/-- LEASE_ENABLE: a register write with ENABLE = 1. -/
def leaseEnable (v : Word) (h : Hw) : Hw :=
  if bitAt v.toNat 63 then h.leaseWrite true (bitAt v.toNat 62) (fld v.toNat 0 32) else h

end Sys2Proof.Machine
end

