-- ==== Sys2Proof/Machine/Replica.lean ====
section
/-!
DEFINITION. Replica.lean: replica groups and the digest exchange (08 R179 to R200).
-/
namespace Sys2Proof.Machine

/-! ## Record and list (Tables 08-2, 08-3) -/

def Group.replicated (g : Group) : Bool := fld (recN g.rcd 0 1) 0 2 == 1
def Group.recheck (g : Group) : Bool := bitAt (recN g.rcd 0 1) 2
def Group.refMax (g : Group) : Nat := fld (recN g.rcd 1 1) 0 4
def Group.size (g : Group) : Nat := recN g.rcd 2 2
def Group.rank (g : Group) : Nat := recN g.rcd 4 2
def Group.timeout (g : Group) : Nat := recN g.rcd 8 4
def Group.token (g : Group) : Nat := fld (recN g.rcd 12 1) 0 6
def Group.tiles (g : Group) : Nat := recN g.rcd 16 10
def Group.base (g : Group) : Nat := recN g.rcd 32 8
/-- Shard i's entry. -/
def Group.shard (g : Group) (i : Nat) : List Byte := g.shards[i]?.getD []
def shId (s : List Byte) : Nat := recN s 0 4
def shNp (s : List Byte) : Nat := recN s 4 4
def shOwner (s : List Byte) : Nat := recN s 8 2
def shPlanes (s : List Byte) : Nat := fld (recN s 10 1) 0 4
def shCompact (s : List Byte) : Bool := bitAt (recN s 11 1) 0
/-- Offsets: 0 HIGH0, 1 HIGH1, 2 LOW, 3 M, 4 V, 5 TALLY, 6 STAMP, 7 DIGEST. -/
def shOff (s : List Byte) (i : Nat) : Nat := recN s (16 + 6 * i) 6
def shNs (s : List Byte) : Nat := cdiv (shNp s) 1024
def shNb (s : List Byte) : Nat := cdiv (shNs s) 32
/-- Sheaves of block b. -/
def shSheaves (s : List Byte) (b : Nat) : Nat := min 32 (shNs s - 32 * b)
/-- A block's key. -/
def bkey (sh b : Nat) : Nat := 2 ^ 18 * sh + b
/-- Every block of the group, as (shard, block). -/
def Group.blocks (g : Group) : List (Nat × Nat) :=
  (List.range g.shards.length).flatMap (fun i => (List.range (shNb (g.shard i))).map (fun b => (i, b)))
/-- Blocks not yet verified. -/
def Group.pendingN (g : Group) : Nat := g.blocks.countP (fun e => !SMap.get false g.verified (bkey e.1 e.2))

def Hw.grp (h : Hw) (i : Nat) : Group := SMap.get Group.init h.repl i
def Hw.modGrp (h : Hw) (i : Nat) (f : Group → Group) : Hw := { h with repl := SMap.mod Group.init h.repl i f }
def replReg (off i : Nat) : Nat := blkBase .repl 0 + off + 8 * i

/-- The chronicle's event of an exchange state change (19 Table 19-5). -/
def Hw.grpEvent (h : Hw) (i : Nat) : Hw :=
  let g := h.grp i
  h.event 0x10 8 i (some g.ctx) [(16, 1, i), (17, 1, g.st), (24, 8, g.step)]

def Hw.setGrpSt (h : Hw) (i st reason : Nat) : Hw :=
  (h.modGrp i (fun g => { g with st := st, reason := if st = 3 ∨ st = 0 then reason else g.reason })).grpEvent i

/-! ## Digests (R184 to R186) -/

/-- K^n modulo p by square and multiply, 32 bits of n. -/
def kPow (n : Nat) : Nat :=
  ((List.range 32).foldr (fun i (acc : Nat) =>
    let sq := acc * acc % digestP
    if bitAt n i then sq * digestK % digestP else sq) 1)

/-- h0 of a block. -/
def digestH0 (sid b : Nat) : Nat := sid * 2 ^ 32 + b

/-- Words of a block in a mode. -/
def blockWords (replicated : Bool) (s : List Byte) (b : Nat) : Nat := shSheaves s b * (if replicated then 512 else 256)

/-- A plane's bytes of a block with the bytes of parameters at or above NP as zero (R184). -/
def maskNp (s : List Byte) (b : Nat) (x : List Byte) : List Byte :=
  let n := 2 * (shNp s - 32768 * b)
  if x.length ≤ n then x else x.take n ++ List.replicate (x.length - n) 0

/-- The digest of a block from its planes' bytes. -/
def blockDigest (s : List Byte) (b : Nat) (planes : List (List Byte)) : Nat :=
  digestFrom (digestH0 (shId s) b) (planes.flatMap (fun x => wordsOf (x.length / 8) (maskNp s b x)))

/-- Read a shard extent of a group at a window offset. DESIGN CHOICE (notes/assumptions/97): the replica unit has no hint of its own
and no HINT_DEFAULT field, and its accesses stream without allocation. -/
def Hw.grpRead (id : Ident) (h : Hw) (g : Group) (off n : Nat) : Option (List Byte) × Hw :=
  match h.through g.ctx g.win rRead off n with
  | none => (none, h)
  | some a => match h.ncRead id 0 a n with
    | (.ok b, h) => (some b, h)
    | (.fault _, h) => (none, h)
    | (.bad cls a, h) =>
      (none, h.unitBad cls (srcOf 8 0x15 0) (some g.ctx) a [(40, 1, 0)] none)

def Hw.grpWrite (id : Ident) (h : Hw) (g : Group) (off : Nat) (b : List Byte) : Hw :=
  match h.through g.ctx g.win rWrite off b.length with
  | none => h
  | some a => (h.ncWrite id 0 false a b).2

/-- The high plane in force for a step's parity (R179). -/
def shHigh (s : List Byte) (par : Nat) : Nat := shOff s (par % 2)

/-- A block's planes for its digest, read now. -/
def Hw.readBlock (id : Ident) (h : Hw) (g : Group) (sh b : Nat) : Option (List (List Byte)) × Hw :=
  let s := g.shard sh
  let n := shSheaves s b * 2048
  match h.grpRead id g (shHigh s (g.step % 2) + 65536 * b) n with
  | (none, h) => (none, h)
  | (some hi, h) =>
    if g.replicated then match h.grpRead id g (shOff s 2 + 65536 * b) n with
      | (none, h) => (none, h)
      | (some lo, h) => (some [hi, lo], h)
    else (some [hi], h)

/-- Write a digest into the table: 0 authority, 8 local (R186). -/
def Hw.digestTable (id : Ident) (h : Hw) (g : Group) (sh b at_ v : Nat) : Hw :=
  h.grpWrite id g (shOff (g.shard sh) 7 + 16 * b + at_) (toLE 8 v)

/-! ## Comparison (R190 to R194) -/

/-- DETAIL fields of R190. -/
def Group.detail (g : Group) (i sh b : Nat) : List (Nat × Nat × Nat) :=
  [(40, 1, i), (44, 4, shId (g.shard sh)), (48, 4, b),
    (52, 2, if g.replicated then g.elder else shOwner (g.shard sh)), (56, 8, g.step)]

/-- A failed refetch holds the group (R193): reason 0 exhausted, 1 STALE, 2 INTEGRITY, 3 tally-open. A group held already keeps its
first REASON (notes/assumptions/96). -/
def Hw.refetchFailed (h : Hw) (i sh b reason : Nat) : Hw :=
  let g := h.grp i
  let h := h.err 0x0C 0x20 (srcOf 8 0x15 i) (some g.ctx) none (g.detail i sh b ++ [(54, 1, reason)])
  let h := h.modGrp i (fun g => { g with due := SMap.del g.due (bkey sh b), flying := SMap.del g.flying (bkey sh b) })
  if g.st = 2 then h.setGrpSt i 3 0x02 else h

/-- Compare a block once both digests are present (R190): a mismatch writes its record, and is counted the first time in an
exchange. -/
def Hw.compareBlock (h : Hw) (i sh b : Nat) : Hw :=
  let g := h.grp i
  let k := bkey sh b
  if (g.st ≠ 2 ∧ g.st ≠ 3) ∨ SMap.get false g.verified k ∨ SMap.get false g.flying k ∨ SMap.get false g.due k then h
  else match SMap.get none g.auth k, SMap.get none g.loc k with
    | some a, some l =>
      if a = l then h.modGrp i (fun g => { g with verified := SMap.set false g.verified k true })
      else
        let h := if SMap.get false g.mism k then h
          else (h.bump (replReg 0x600 i) 0 32 1).modGrp i (fun g => { g with mism := SMap.set false g.mism k true })
        let h := h.err 0x0B 0 (srcOf 8 0x15 i) (some g.ctx) none (g.detail i sh b)
        if g.refMax ≤ SMap.get 0 g.tries k then h.refetchFailed i sh b 0
        else h.modGrp i (fun g => { g with due := SMap.set false g.due k true })
    | _, _ => h

/-- A shard-integrity error of step `step` (R194): the group is held, its own exchange closed or not. DESIGN CHOICE
(notes/assumptions/96): a group that is held already keeps its first REASON. -/
def Hw.shardIntegrity (h : Hw) (i sh b step : Nat) : Hw :=
  let g := h.grp i
  let h := (h.err 0x0D 0x20 (srcOf 8 0x15 i) (some g.ctx) none ({ g with step := step }.detail i sh b)).modGrp i
    (fun g => { g with refuse := SMap.set false g.refuse (bkey sh b) true })
  if g.st = 1 ∨ g.st = 2 then h.setGrpSt i 3 0x01 else h

/-- A local digest of a block is known. -/
def Hw.setLocal (id : Ident) (h : Hw) (i sh b v : Nat) : Hw :=
  let h := h.digestTable id (h.grp i) sh b 8 v
  (h.modGrp i (fun g => { g with loc := SMap.set none g.loc (bkey sh b) (some v) })).compareBlock i sh b

/-! ## Gather bytes (R185, R186, R197, R302) -/

/-- A set of byte ranges with [lo, hi) added. -/
def addRange : List (Nat × Nat) → Nat → Nat → List (Nat × Nat)
  | [], lo, hi => [(lo, hi)]
  | (a, b) :: r, lo, hi =>
    if hi < a then (lo, hi) :: (a, b) :: r
    else if b < lo then (a, b) :: addRange r lo hi
    else addRange r (min a lo) (max b hi)

/-- Σ v K^w over the bytes from byte `a` on that `got` does not cover, v a byte's value in its word, w the words after it up to the
last byte's. -/
def shareOf (got : List (Nat × Nat)) : Nat → List Byte → Nat → Nat
  | _, [], acc => acc
  | a, b :: bs, acc =>
    let v := if got.any (fun r => decide (r.1 ≤ a ∧ a < r.2)) then 0 else b.toNat * 2 ^ (8 * (a % 8))
    shareOf got (a + 1) bs (((if a % 8 = 0 then acc * digestK else acc) + v) % digestP)

/-- A part with the bytes `x` at offset `o` of its block of `words` words, each byte counted once. -/
def Part.add (p : Part) (words o : Nat) (x : List Byte) : Part :=
  if x = [] then p
  else { p with
    acc := (p.acc + shareOf p.got o x 0 * kPow (words - 1 - (o + x.length - 1) / 8)) % digestP
    got := addRange p.got o (o + x.length) }

/-- The digest of a complete part. -/
def Part.value (p : Part) (s : List Byte) (b : Nat) : Option Nat :=
  if p.got = [(0, 8 * blockWords false s b)] then
    some ((digestH0 (shId s) b * kPow (blockWords false s b) + p.acc) % digestP)
  else none

/-- A byte range of a plane cut by sheaves, as (sheaf, offset in its block, bytes), with the bytes of parameters at or above NP as
zero (R184, R185). -/
def planePieces (s : List Byte) (o : Nat) (x : List Byte) : List (Nat × Nat × List Byte) :=
  (List.range (cdiv (o % 2048 + x.length) 2048)).map (fun i =>
    let k := o / 2048 + i
    let lo := max o (2048 * k)
    let y := subB x (lo - o) (min (o + x.length) (2048 * k + 2048) - lo)
    (k, lo - 65536 * (k / 32), ((List.range y.length).zip y).map (fun e => if (lo + e.1) / 2 < shNp s then e.2 else 0)))

/-- The part of [a, a + n) that lies in a plane: (plane offset, index in the range, length). -/
def planeCut (base size a n : Nat) : Option (Nat × Nat × Nat) :=
  let lo := max base a
  let hi := min (base + size) (a + n)
  if lo < hi then some (lo - base, lo - a, hi - lo) else none

/-- Fold a function over the sharded shards whose gathered or owned high plane a physical range meets: shard, parity, plane
offset and bytes. -/
def Hw.overShards (h : Hw) (i : Nat) (own : Bool) (a : Nat) (x : List Byte)
    (f : Nat → Nat → Nat → List Byte → Hw → Hw) : Hw :=
  let g := h.grp i
  if g.st = 0 ∨ g.replicated then h
  else (List.range g.shards.length).foldl (fun h sh =>
    let s := g.shard sh
    if (shOwner s == g.rank) != own then h
    else (if own then [0] else [0, 1]).foldl (fun h par =>
      match planeCut ((h.win g.ctx g.win).base + shHigh s par) (shNs s * 2048) a x.length with
      | some (o, j, n) => f sh par o (subB x j n) h
      | none => h) h) h

/-- The step that last updated a sheaf of an owner's shard: its stamp. -/
def Hw.stampOf (id : Ident) (h : Hw) (g : Group) (s : List Byte) (k : Nat) : Nat :=
  leNat (h.cohBytes id ((h.win g.ctx g.win).base + shOff s 6 + 8 * k) 8)

/-- Bytes an all-gather reads from an owner's high plane enter the send digest of the step their sheaf's stamp names (R186,
notes/assumptions/83); complete, it is the authority digest of the step checked next. -/
def Hw.gatherSent (id : Ident) (h : Hw) (i a : Nat) (x : List Byte) : Hw :=
  h.overShards i true a x (fun sh _ o y h =>
    (planePieces ((h.grp i).shard sh) o y).foldl (fun h e =>
      let g := h.grp i
      let s := g.shard sh
      let b := e.1 / 32
      let st := h.stampOf id g s e.1
      let k := 2 * bkey sh b + st % 2
      let old := SMap.get Part.init g.sends k
      if st < old.step then h
      else
        let p := (if old.step = st then old else { Part.init with step := st }).add (blockWords false s b) e.2.1 e.2.2
        let h := h.modGrp i (fun g => { g with sends := SMap.set Part.init g.sends k p })
        match p.value s b with
        | some v => if g.st = 1 ∨ g.step = st then h.digestTable id g sh b 0 v else h
        | none => h) h)

/-- The send digest of a block for the step of the current exchange. -/
def Group.sendDigest (g : Group) (sh b : Nat) : Option Nat :=
  let p := SMap.get Part.init g.sends (2 * bkey sh b + g.step % 2)
  if p.step = g.step then p.value (g.shard sh) b else none

/-- Gather bytes delivered into a gathered copy enter its receive digest; a block that completes during its exchange is
compared (R186, R190). -/
def Hw.gatherDelivered (id : Ident) (h : Hw) (i a : Nat) (x : List Byte) : Hw :=
  h.overShards i false a x (fun sh par o y h =>
    (planePieces ((h.grp i).shard sh) o y).foldl (fun h e =>
      let g := h.grp i
      let s := g.shard sh
      let b := e.1 / 32
      let k := 2 * bkey sh b + par
      let p := (SMap.get Part.init g.recvs k).add (blockWords false s b) e.2.1 e.2.2
      let h := h.modGrp i (fun g => { g with recvs := SMap.set Part.init g.recvs k p })
      match p.value s b with
      | some v => if (g.st = 2 ∨ g.st = 3) ∧ g.step % 2 = par then h.setLocal id i sh b v else h
      | none => h) h)

/-- R197: a gather write into the copies of the parity of an exchange that is open or held waits. -/
def Hw.gatherHeld (h : Hw) (i a n : Nat) : Bool :=
  let g := h.grp i
  (g.st == 2 || g.st == 3) && !g.replicated && (List.range g.shards.length).any (fun sh =>
    let s := g.shard sh
    shOwner s != g.rank && (planeCut ((h.win g.ctx g.win).base + shHigh s (g.step % 2)) (shNs s * 2048) a n).isSome)

/-! ## Enable, disable (R198 to R200) -/

/-- An extent lies in the window and is sheaf-aligned. -/
def extOk (w : Window) (off n : Nat) : Bool := off % 2048 == 0 && decide (off + n ≤ w.len)

/-- The first failing field of a shard entry, as its offset in the entry (R199). -/
def shardBad (mode size rank : Nat) (w : Window) (s : List Byte) : Option Nat :=
  let ns := shNs s
  let used := mode == 1 || shOwner s == rank
  let mb := 1024 * mBytes (shCompact s)
  if shNp s = 0 then some 4
  else if mode = 0 ∧ size ≤ shOwner s then some 8
  else if fld (recN s 10 1) 4 4 ≠ 0 then some 10
  else if fld (recN s 11 1) 1 7 ≠ 0 then some 11
  else if recN s 12 4 ≠ 0 then some 12
  else if !extOk w (shOff s 0) (ns * 2048) then some 16
  else if !extOk w (shOff s 1) (ns * 2048) then some 22
  else if used && !extOk w (shOff s 2) (ns * 2048) then some 28
  else if used && bitAt (shPlanes s) 2 && !extOk w (shOff s 3) (ns * mb) then some 34
  else if used && bitAt (shPlanes s) 3 && !extOk w (shOff s 4) (ns * 4096) then some 40
  else if used && !extOk w (shOff s 5) (25 * 2048) then some 46
  else if used && !extOk w (shOff s 6) (8 * ns) then some 52
  else if !extOk w (shOff s 7) (16 * shNb s) then some 58
  else none

/-- The first failing field of a group record. -/
def groupBad (w : Window) (r : List Byte) : Option Nat :=
  if 1 < fld (recN r 0 1) 0 2 ∨ fld (recN r 0 1) 3 5 ≠ 0 then some 0
  else if recN r 1 1 = 0 ∨ fld (recN r 1 1) 4 4 ≠ 0 then some 1
  else if recN r 2 2 = 0 then some 2
  else if recN r 2 2 ≤ recN r 4 2 then some 4
  else if recN r 6 2 ≠ 0 then some 6
  else if recN r 8 4 = 0 then some 8
  else if fld (recN r 12 1) 6 2 ≠ 0 then some 12
  else if recN r 13 3 ≠ 0 then some 13
  else if recN r 26 6 ≠ 0 then some 26
  else if recN r 32 8 = 0 then some 32
  else if recN r 40 6 % 64 ≠ 0 ∨ w.len < recN r 40 6 + 64 * fld (recN r 48 4) 0 20 then some 40
  else if recN r 46 2 ≠ 0 then some 46
  else if fld (recN r 48 4) 0 20 = 0 ∨ fld (recN r 48 4) 20 12 ≠ 0 then some 48
  else if recN r 52 12 ≠ 0 then some 52
  else none

/-- A refused Idle-only write (00 R15). -/
def Hw.busyWrite (h : Hw) (pa v kept : Nat) (src : Nat) : Hw :=
  h.err 0x01 0 src none (some pa) [(40, 8, v), (48, 8, kept)]

/-- REPL_GROUP_ENABLE: hart `hart` writes GRP_CTRL[i] = v with ENABLE set (R199). -/
def replGroupEnable (id : Ident) (hart i : Nat) (v : Word) (h : Hw) : Hw :=
  let pa := replReg 0 i
  let w := v.toNat &&& 0x8FFFFFFFFFFFFFFF
  let g := h.grp i
  if 64 ≤ i ∨ !bitAt w 63 ∨ h.accelHeld then h
  else if 2 ≤ g.st then
    if w = h.reg pa then h else h.busyWrite pa v.toNat (h.reg pa) (srcHart hart)
  else
    let h := h.setReg pa w
    if g.st = 1 then h
    else
      let c := fld w 48 12
      let win := fld w 0 6
      let off := fld w 6 42 * 64
      let wd := h.win c win
      let fail (h : Hw) (o : Nat) : Hw :=
        ((h.setRegF pa 63 1 0).modGrp i (fun g => { g with reason := 4 })).err 0x13 0 (srcOf 8 0x15 i) (some c) none [(40, 1, o)]
      let tmp : Group := { Group.init with ctx := c, win := win }
      match h.grpRead id tmp off 64 with
        | (none, h) => fail h 0
        | (some r, h) => match groupBad wd r with
          | some o => fail h o
          | none => match h.grpRead id tmp (recN r 40 6) (64 * fld (recN r 48 4) 0 20) with
            | (none, h) => fail h 40
            | (some l, h) =>
              let shards := (List.range (fld (recN r 48 4) 0 20)).map (fun k => subB l (64 * k) 64)
              match shards.findSome? (shardBad (fld (recN r 0 1) 0 2) (recN r 2 2) (recN r 4 2) wd) with
              | some o => fail h o
              | none => (h.modGrp i (fun g => { Group.init with
                  st := 1, late := g.late, reason := g.reason, step := g.step, ctx := c, win := win, rcd := r, shards := shards })).grpEvent i

/-- REPL_GROUP_DISABLE: a write of ENABLE = 0 disables an idle group; REASON and LATE keep showing its last exchange (R200). -/
def replGroupDisable (hart i : Nat) (v : Word) (h : Hw) : Hw :=
  let pa := replReg 0 i
  let w := v.toNat &&& 0x8FFFFFFFFFFFFFFF
  if 64 ≤ i ∨ bitAt w 63 ∨ h.accelHeld then h
  else if 2 ≤ (h.grp i).st then
    if w = h.reg pa then h else h.busyWrite pa v.toNat (h.reg pa) (srcHart hart)
  else if (h.grp i).st = 1 then (h.setReg pa w).setGrpSt i 0 (h.grp i).reason else h.setReg pa w

/-- A teardown disables every group of a context (R198). -/
def Hw.disableGroups (h : Hw) (c : Nat) : Hw :=
  (List.range 64).foldl (fun h i =>
    let g := h.grp i
    if g.st ≠ 0 ∧ g.ctx = c then
      (((h.modGrp i (fun g => { g with due := [], flying := [] })).setRegF (replReg 0 i) 63 1 0)).setGrpSt i 0 5
    else h) h

/-! ## The exchange (R187 to R196) -/

/-- The path to another rank is usable: the group's rank map names for it a queue pair that is ready and on a link that is up
(12 R299). -/
def Hw.pathTo (h : Hw) (i k : Nat) : Bool :=
  match (SMap.get [] h.fab.maps i)[k]?.bind h.qp with
  | some q => q.st == 1 && h.linkUp q.link
  | none => false

/-- A group's paths are usable: those to every other rank are (12 R299). -/
def Hw.pathsUsable (h : Hw) (i : Nat) (g : Group) : Bool := (List.range g.size).all (fun k => k == g.rank || h.pathTo i k)

/-- The elder at this instant: the lowest rank whose group paths are usable (R188). With this member's paths usable every member is
reached, and it is rank 0. Otherwise this member is no candidate: it takes the lowest rank it reaches, or, where it reaches none, the
lowest other rank, whose digests then do not come (notes/assumptions/86). -/
def Hw.elderOf (h : Hw) (i : Nat) (g : Group) : Nat :=
  if h.pathsUsable i g then 0
  else
    let others := (List.range g.size).filter (· != g.rank)
    match others.find? (h.pathTo i) with
    | some k => k
    | none => others.headD 0

/-- DIGEST_EXCHANGE_OPEN: the group's exchange for the next step opens; false when the previous one is still open or held
(R187). Blocks this member is the authority of are verified at once. -/
def Hw.digestOpen (id : Ident) (h : Hw) (i : Nat) (late : Bool) : Hw :=
  let g := h.grp i
  let s := if g.ran then g.step + 1 else g.base
  let elder := h.elderOf i g
  let mine (sh : Nat) : Bool := if g.replicated then elder == g.rank else shOwner (g.shard sh) == g.rank
  let ver := g.blocks.foldl (fun m e => if mine e.1 then SMap.set false m (bkey e.1 e.2) true else m) ([] : SMap Bool)
  let h := ({ h with bell := { h.bell with digs := h.bell.digs.filter (·.2 != i) } }).modGrp i (fun g => { g with
    st := 2, late := late, reason := 0, step := s, ran := true, elder := elder, openAt := h.localNs, verified := ver
    prevStep := g.step, prevAuth := g.auth, auth := [], loc := [], mism := [], tries := [], due := [], flying := [], sent := [], refuse := [] })
  let h := h.grpEvent i
  if g.replicated then h
  else g.blocks.foldl (fun h e =>
    if mine e.1 then match (h.grp i).sendDigest e.1 e.2 with
      | some v => h.digestTable id (h.grp i) e.1 e.2 0 v
      | none => h
    else match (SMap.get Part.init (h.grp i).recvs (2 * bkey e.1 e.2 + s % 2)).value (g.shard e.1) e.2 with
      | some v => h.setLocal id i e.1 e.2 v
      | none => h) h

/-- Every stamp of a shard equals s and no record of its tally is OPEN (R189). -/
def Hw.shardStamped (id : Ident) (h : Hw) (g : Group) (sh : Nat) : Bool × Hw :=
  let s := g.shard sh
  match h.grpRead id g (shOff s 6) (8 * shNs s) with
  | (none, h) => (false, h)
  | (some st, h) => match h.grpRead id g (shOff s 5) 64 with
    | (none, h) => (false, h)
    | (some l, h) => ((wordsOf (shNs s) st).all (· == g.step) && (openRecs l).isEmpty, h)

/-- The digests of every block of a shard, from its planes now. -/
def Hw.blockDigests (id : Ident) (g : Group) (sh : Nat) : List Nat → Hw → Option (List Nat) × Hw
  | [], h => (some [], h)
  | b :: bs, h => match h.readBlock id g sh b with
    | (none, h) => (none, h)
    | (some x, h) => match Hw.blockDigests id g sh bs h with
      | (some ds, h) => (some (blockDigest (g.shard sh) b x :: ds), h)
      | r => r

/-- SHARD_READY_SEND: a shard is ready: local digests are formed (replicated), the authority's digests go to every other
member, and an owner with OWNER_RECHECK rereads its blocks (R186, R188, R189, R194). An authority whose own exchange has already
closed still sends (notes/assumptions/83). -/
def shardReadySend (id : Ident) (i sh : Nat) (h : Hw) : Hw :=
  let g := h.grp i
  let s := g.shard sh
  let bs := List.range (shNb s)
  let mine := if g.replicated then g.elder == g.rank else shOwner s == g.rank
  if g.st = 0 ∨ !g.ran ∨ (g.st = 1 ∧ !mine) ∨ g.shards.length ≤ sh ∨ SMap.get false g.sent sh then h
  else
    let others := (List.range g.size).filter (· != g.rank)
    let sendAll (ds : List Nat) (h : Hw) : Hw :=
      { h with out := h.out ++ others.map (fun r => Outp.digests i r sh g.step ds) }
    let mark (h : Hw) : Hw := h.modGrp i (fun g => { g with sent := SMap.set false g.sent sh true })
    if g.replicated then
      match h.shardStamped id g sh with
      | (false, h) => h
      | (true, h) => match Hw.blockDigests id g sh bs h with
        | (none, h) => h
        | (some ds, h) =>
          let h := (bs.zip ds).foldl (fun h e => h.setLocal id i sh e.1 e.2) (mark h)
          if g.elder = g.rank then
            sendAll ds ((bs.zip ds).foldl (fun h e => (h.digestTable id g sh e.1 0 e.2).modGrp i
              (fun g => { g with auth := SMap.set none g.auth (bkey sh e.1) (some e.2) })) h)
          else h
    else if shOwner s ≠ g.rank then h
    else
      let ds := bs.filterMap (g.sendDigest sh)
      if ds.length ≠ bs.length then h
      else
        let h := sendAll ds ((bs.zip ds).foldl (fun h e => h.modGrp i
          (fun g => { g with auth := SMap.set none g.auth (bkey sh e.1) (some e.2) })) (mark h))
        if g.recheck then match Hw.blockDigests id g sh bs h with
          | (none, h) => h
          | (some es, h) => ((bs.zip ds).zip es).foldl (fun h e =>
              if e.1.2 = e.2 then h else h.shardIntegrity i sh e.1.1 g.step) h
        else h

/-- DIGEST_TABLE_RECEIVE: the authority's digest of a block for step `step` arrives from rank `rank` (R190). One that comes before the
member's own exchange for that step has opened is not kept (notes/assumptions/84). -/
def digestTableReceive (id : Ident) (i rank sh b step v : Nat) (h : Hw) : Hw :=
  let g := h.grp i
  let from_ := if g.replicated then g.elder else shOwner (g.shard sh)
  if (g.st = 2 ∨ g.st = 3) ∧ sh < g.shards.length ∧ b < shNb (g.shard sh) ∧ rank = from_ ∧ rank ≠ g.rank ∧ step = g.step ∧
      (SMap.get none g.auth (bkey sh b)).isNone then
    let h := (h.digestTable id g sh b 0 v).modGrp i (fun g => { g with auth := SMap.set none g.auth (bkey sh b) (some v) })
    h.compareBlock i sh b
  else h

/-- An update command on a shard has been dispatched and has not completed (07 R177). DESIGN CHOICE (notes/assumptions/98): a shard is
known by its context and its SHARD_ID. -/
def Hw.updating (h : Hw) (ctx sid : Nat) : Bool :=
  h.tiles.any (fun e => match e.2.upd with
    | some u => u.ctx == ctx && udShard u.desc == sid
    | none => false)

/-- REFETCH_START (R192 steps 1 and 2). -/
def refetchStart (id : Ident) (i sh b : Nat) (h : Hw) : Hw :=
  let g := h.grp i
  let k := bkey sh b
  let s := g.shard sh
  if !SMap.get false g.due k ∨ (g.st ≠ 2 ∧ g.st ≠ 3) ∨ (g.replicated && h.updating g.ctx (shId s)) then h
  else
    let ask (h : Hw) : Hw :=
      let h := h.modGrp i (fun g => { g with due := SMap.del g.due k, flying := SMap.set false g.flying k true })
      { h with out := h.out ++ [Outp.refetchReq i (if g.replicated then g.elder else shOwner s) sh b g.step] }
    if g.replicated then match h.grpRead id g (shOff s 5) 64 with
      | (some l, h) => if (openRecs l).isEmpty then ask h else h.refetchFailed i sh b 3
      | (none, h) => h
    else ask h

/-- Moment planes that travel with a replicated block: (offset, bytes per sheaf). -/
def momentExts (s : List Byte) : List (Nat × Nat) :=
  (if bitAt (shPlanes s) 2 then [(shOff s 3, 1024 * mBytes (shCompact s))] else []) ++
    (if bitAt (shPlanes s) 3 then [(shOff s 4, 4096)] else [])

/-- Planes of a block that a refetch moves, as (window offset, bytes). -/
def Group.refetchExts (g : Group) (sh b : Nat) : List (Nat × Nat) :=
  let s := g.shard sh
  let n := shSheaves s b
  (shHigh s (g.step % 2) + 65536 * b, n * 2048) ::
    (if g.replicated then (shOff s 2 + 65536 * b, n * 2048) :: (momentExts s).map (fun e => (e.1 + 32 * b * e.2, n * e.2))
     else [])

def Hw.grpReads (id : Ident) (g : Group) : List (Nat × Nat) → Hw → Option (List Byte) × Hw
  | [], h => (some [], h)
  | (o, n) :: es, h => match h.grpRead id g o n with
    | (none, h) => (none, h)
    | (some x, h) => match Hw.grpReads id g es h with
      | (some y, h) => (some (x ++ y), h)
      | r => r

/-- The authority digest of a block for a step that this member holds: of its current or last exchange, or of the one before it. -/
def Group.authOf (g : Group) (sh b step : Nat) : Option Nat :=
  if step = g.step then SMap.get none g.auth (bkey sh b)
  else if step = g.prevStep then SMap.get none g.prevAuth (bkey sh b)
  else none

/-- REFETCH_SERVE: this authority answers rank `rank`'s request (R192 steps 3 to 5): answer 0 with the block, 1 STALE where the
block's stamps differ from the step, 2 INTEGRITY. A step whose digest it does not hold, with the stamps as they are to be, answers
STALE as well (notes/assumptions/83). -/
def refetchServe (id : Ident) (i rank sh b step : Nat) (h : Hw) : Hw :=
  let g := h.grp i
  let s := g.shard sh
  let mine := if g.replicated then g.elder == g.rank || (g.authOf sh b step).isSome else shOwner s == g.rank
  let ans (a : Nat) (x : List Byte) (h : Hw) : Hw := { h with out := h.out ++ [Outp.refetchAns i rank sh b a x] }
  if g.st = 0 ∨ !g.ran ∨ g.shards.length ≤ sh ∨ shNb s ≤ b ∨ !mine then h
  else match h.grpRead id g (shOff s 6 + 8 * 32 * b) (8 * shSheaves s b) with
    | (none, h) => h
    | (some st, h) =>
      if !(wordsOf (shSheaves s b) st).all (· == step) then ans 1 [] h
      else if step = g.step ∧ SMap.get false g.refuse (bkey sh b) then ans 2 [] h
      else match g.authOf sh b step with
        | none => ans 1 [] h
        | some a =>
          let g := { g with step := step }
          match h.readBlock id g sh b with
          | (none, h) => h
          | (some x, h) =>
            if a ≠ blockDigest s b x then ans 2 [] (h.shardIntegrity i sh b step)
            else match Hw.grpReads id g (g.refetchExts sh b) h with
              | (some d, h) => ans 0 d h
              | (none, h) => h

/-- Write the parts of a returned block. -/
def Hw.grpWrites (id : Ident) (g : Group) : List (Nat × Nat) → List Byte → Hw → Hw
  | [], _, h => h
  | (o, n) :: es, x, h => Hw.grpWrites id g es (x.drop n) (h.grpWrite id g o (subB x 0 n))

/-- REFETCH_DELIVER: the answer arrives: a block is written, digested and compared again (R192 step 6, R193). -/
def refetchDeliver (id : Ident) (i sh b answer : Nat) (data : List Byte) (h : Hw) : Hw :=
  let g := h.grp i
  let k := bkey sh b
  let s := g.shard sh
  if !SMap.get false g.flying k then h
  else if answer ≠ 0 then h.refetchFailed i sh b (if answer = 1 then 1 else 2)
  else
    let n := shSheaves s b * 2048
    let h := Hw.grpWrites id g (g.refetchExts sh b) data h
    let v := blockDigest s b ((if g.replicated then [subB data 0 n, subB data n n] else [subB data 0 n]))
    let h := (h.modGrp i (fun g => { g with flying := SMap.del g.flying k
                                            tries := SMap.set 0 g.tries k (SMap.get 0 g.tries k + 1) })).bump (replReg 0x800 i) 0 32 1
    h.setLocal id i sh b v

/-- Signal the gate token on every tile of GATE_TILES (R191). -/
def Hw.gate (id : Ident) (h : Hw) (g : Group) : Hw :=
  (List.range 80).foldl (fun h t => if bitAt g.tiles t then (h.signalFor id srcRepl g.ctx t g.token 1 0).2 else h) h

/-- An exchange closes: the group is idle, and the receive digests of its parity start anew. -/
def Hw.closeExchange (h : Hw) (i : Nat) : Hw :=
  (h.modGrp i (fun g => { g with
    st := 1, due := [], flying := [], recvs := g.recvs.filter (fun e => e.1 % 2 != g.step % 2) })).grpEvent i

/-- XCHG_TIMEOUT (R195). -/
def xchgTimeout (i : Nat) (h : Hw) : Hw :=
  let g := h.grp i
  if g.st = 2 ∧ g.openAt + g.timeout * 1000 ≤ h.localNs then h.setGrpSt i 3 0x03 else h

end Sys2Proof.Machine
end

