-- ==== Sys2Proof/Machine/Fabric.lean ====
section
/-!
DEFINITION. Fabric.lean: what an inbound packet does, in the order of Table 12-10; placement in PSN and CSN order; the
ends of a digest exchange, which release held gathers; the completion write (12 R287 to R305, 08 R191 to R197, 15 R366).
-/
namespace Sys2Proof.Machine

/-! ## Remote access (R294) -/

def rRemRead : Nat := 3
def rRemWrite : Nat := 4
def rRemAtomic : Nat := 5

/-- The physical address a request's RETH names, when R294 permits it. -/
def Hw.remote (h : Hw) (q : Qp) (reth : Nat × Nat × Nat × Nat) (right : Nat) : Option Nat :=
  let w := h.win q.ctx (reth.1 % 64)
  if h.ctxActive q.ctx && w.valid && bitAt w.rights right && !w.isDoorbell && decide (reth.2.1 = w.gen) &&
      decide (reth.2.2.1 + reth.2.2.2 ≤ w.len) then some (w.base + reth.2.2.1) else none

/-- A window of the queue pair's own context, for a work request. -/
def Hw.local_ (h : Hw) (q : Qp) (w right off n : Nat) : Option Nat :=
  h.through q.ctx w right off n

/-- A read by the carter for a context: an uncorrectable error is contained as the context's (18 R415). -/
def Hw.carterRead (id : Ident) (h : Hw) (c ctx a n : Nat) : Option (List Byte) × Hw :=
  match h.ncRead id hintOut a n with
  | (.ok b, h) => (some b, h)
  | (.fault _, h) => (none, h)
  | (.bad cls e, h) =>
    (none, h.unitBad cls (srcOf 8 0x13 c) (some ctx) e [(40, 1, 0)] none)

/-- A carter's atomic on 8 bytes for a context, one transaction of a non-caching agent (10 R246): the old bytes. -/
def Hw.carterAtomic (id : Ident) (h : Hw) (c ctx a op : Nat) (opnd : List Byte) : Option (List Byte) × Hw :=
  if !h.reachable id a || closedTo id 0 (keyOf a) then (none, h)
  else match h.ncAtomic id hintIn (keyOf a) 8 op opnd with
    | (.ok b, h) => (some b, h)
    | (.fault _, h) => (none, h)
    | (.bad cls e, h) => (none, h.unitBad cls (srcOf 8 0x13 c) (some ctx) e [(40, 1, 0)] none)

/-! ## Header shapes (Tables 12-4, 12-5) -/

/-- Extension headers, LEN and payload are as the opcode calls for. -/
def Pkt.hdrOk (q : Qp) (p : Pkt) : Bool :=
  let r := p.reth.isSome
  let a := p.ateth.isSome
  let o := p.oeth.isSome
  let c := p.clth.isSome
  let e := p.aeth.isSome
  let ext (r' a' o' c' e' : Bool) : Bool := r == r' && a == a' && o == o' && c == c' && e == e'
  match p.op with
  | 0 => ext false false q.ordered false false
  | 1 => ext p.first false q.ordered false false
  | 2 => ext true false false false false && (match p.reth with
    | some x => x.2.2.2 != 0
    | none => false)
  | 4 => ext true true false false false
  | 5 => ext true true false false false
  | 7 => ext false false false false false && p.payload.isEmpty
  | 8 => ext false false false false true
  | 9 => ext false false false false true
  | 0xA => ext false false false false true
  | 0xC => ext false false false true false
  | 0xD => ext false false false true false
  | _ => ext false false false false false

/-- Opcodes whose PSN is a number of this direction. -/
def Pkt.sequenced (p : Pkt) : Bool := [0, 1, 2, 4, 5, 7, 0xB, 0xC, 0xD].contains p.op

def cdivF (n : Nat) : Nat := (n + 2047) / 2048

/-! ## Collectives, receiving side (R300, R301) -/

/-- Elements of segment j: start and count (R300). -/
def segOf (e n j : Nat) : Nat × Nat := (j * e / n, (j + 1) * e / n - j * e / n)

/-- m of 08 R181. -/
def splitOf (a b : Nat) : Nat := a + 2 ^ Nat.log2 (b - a - 1)

/-- The parent of node (a, b) in T(lo, hi), and none where it is no node below the root. -/
def parentOf : Nat → Nat → Nat → Nat → Nat → Option (Nat × Nat)
  | 0, _, _, _, _ => none
  | f + 1, lo, hi, a, b =>
    if hi < lo + 2 then none
    else
      let m := splitOf lo hi
      if (a = lo ∧ b = m) ∨ (a = m ∧ b = hi) then some (lo, hi)
      else if b ≤ m then parentOf f lo m a b
      else if m ≤ a then parentOf f m hi a b
      else none

def collKind (wr : List Byte) : Nat := fld (recN wr 33 1) 0 2
def collIform (wr : List Byte) : Bool := bitAt (recN wr 34 1) 0
def collOform (wr : List Byte) : Bool := bitAt (recN wr 34 1) 1
def collE (wr : List Byte) : Nat := recN wr 36 4
/-- Element bytes of the output. -/
def collOut (wr : List Byte) : Nat := if (if collKind wr = 2 then collIform wr else collOform wr) then 8 else 4
def collIn (wr : List Byte) : Nat := if collIform wr then 8 else 4

def nodeKey (j a b : Nat) : Nat := j * 2 ^ 32 + a * 2 ^ 16 + b

/-- A pair as the 8 bytes that carry it: s low, e high (03 Table 03-3). -/
def pairWord (p : Pair) : Word := BitVec.ofNat 64 (p.s + p.e * 2 ^ 32)
def wordPair (w : Word) : Pair := ⟨w.toNat % 2 ^ 32, w.toNat / 2 ^ 32⟩

/-- Elements of a payload, as pairs. -/
def pairsOf (pair : Bool) (x : List Byte) : List Word :=
  if pair then (List.range (x.length / 8)).map (fun i => BitVec.ofNat 64 (recN x (8 * i) 8))
  else (List.range (x.length / 4)).map (fun i => BitVec.ofNat 64 (recN x (4 * i) 4))

/-- Put elements of a node from an offset on. -/
def Coll.put (c : Coll) (key off : Nat) (ws : List Word) : Coll :=
  let m := SMap.get [] c.ops key
  let m := ((List.range ws.length).zip ws).foldl (fun m e => SMap.set none m (off + e.1) (some e.2)) m
  { c with ops := SMap.set [] c.ops key m }

def Hw.coll (h : Hw) (g : Nat) : Option Coll := SMap.get none h.fab.colls g
def Hw.setColl (h : Hw) (g : Nat) (c : Option Coll) : Hw :=
  h.modFab (fun f => { f with colls := SMap.set none f.colls g c })

/-- The output bytes written for a result at the output's byte offset. -/
def Hw.collWrite (id : Ident) (h : Hw) (ctx : Nat) (wr : List Byte) (o : Nat) (x : List Byte) : Hw :=
  match h.through ctx (fld (recN wr 9 1) 0 6) rWrite (fld (recN wr 24 8) 0 48 + o) x.length with
  | some a => (h.ncWrite id hintIn false a x).2
  | none => h

/-- That write reaches its home: the window serves it, and no access fault meets it. -/
def Hw.collHome (id : Ident) (h : Hw) (ctx : Nat) (wr : List Byte) (o : Nat) (x : List Byte) : Bool :=
  x == [] || (match h.through ctx (fld (recN wr 9 1) 0 6) rWrite (fld (recN wr 24 8) 0 48 + o) x.length with
    | some a => (h.ncWrite id hintIn false a x).1.isNone
    | none => false)

/-- Nodes of T(lo, hi), leaves apart, whose left end is a. -/
def nodesFrom : Nat → Nat → Nat → Nat → Nat
  | 0, _, _, _ => 0
  | f + 1, lo, hi, a =>
    if hi < lo + 2 then 0
    else (if lo = a then 1 else 0) + (if a < splitOf lo hi then nodesFrom f lo (splitOf lo hi) a else nodesFrom f (splitOf lo hi) hi a)

/-- Chunk combinations that fall to rank r of n in reducing e elements (R300). -/
def combosOf (e n r : Nat) : Nat :=
  (List.range n).foldl (fun t j => t + ((segOf e n j).2 + 511) / 512 * nodesFrom 17 0 n ((r + n - j) % n)) 0

/-- Collectives whose every packet is sent and acknowledged and every output byte home complete (R300). -/
def Hw.finishColls (h : Hw) : Hw :=
  h.fab.colls.foldl (fun h e => match e.2 with
    | some c =>
      if c.left = 0 ∧ c.todo = 0 ∧ c.acks = [] then (h.dropColl e.1 c).wrDone c.qpn c.qpn c.wr 0 (recN c.wr 4 4) 0
      else h
    | none => h) h

/-- What is to be done with a REDUCE or GATHER packet of a queue pair. -/
inductive CollVerdict where
  | wait
  | bad
  | take (g : Nat) (c : Coll) (k : Nat)     -- group, collective, sender's rank
  deriving DecidableEq, Repr

/-- Which collective a packet belongs to, by CSEQ; one that this rank has not started waits (R301). -/
def Hw.collOf (h : Hw) (n cseq : Nat) : CollVerdict :=
  let mine := h.fab.colls.filterMap (fun e => match e.2 with
    | some c => (rankOf c.map c.r n).map (fun k => (e.1, c, k))
    | none => none)
  match mine.find? (fun e => e.2.1.cseq == cseq) with
  | some (g, c, k) => .take g c k
  | none =>
    let started := h.fab.maps.filterMap (fun e => if (rankOf e.2 (h.grp e.1).rank n).isSome then some (SMap.get 0 h.fab.cseq e.1) else none)
    if started ≠ [] ∧ started.all (fun s => decide (cseq ≤ s)) then .bad else .wait

/-- The bytes of an output element. -/
def resultBytes (oform : Bool) (w : Word) : List Byte :=
  if oform then toLE 8 w.toNat else toLE 4 (wordPair w).round32

/-- A gather packet's place: the offset in the output and whether its fields are as expected (R300, R301); elements that one has
delivered are not expected again. -/
def gatherOk (c : Coll) (k : Nat) (clth : Nat × Nat × Nat × Nat × Nat × Nat) (len : Nat) : Option Nat :=
  let (_, j, a, b, form, off) := clth
  let sz := collOut c.wr
  let (st, cnt) := segOf (collE c.wr) c.n j
  if collKind c.wr = 0 ∨ j ≠ k ∨ a ≠ 0 ∨ b ≠ c.n ∨ form ≠ 2 ∨ len = 0 ∨ len % sz ≠ 0 ∨ cnt < off + len / sz ∨
      c.got.any (fun g => decide (st + off < g.1 + g.2 ∧ g.1 < st + off + len / sz)) then none
  else some ((st + off) * sz)

/-- A REDUCE packet's fields are as expected: its node is an operand combined here, sent by the rank that holds it. -/
def reduceOk (c : Coll) (k : Nat) (clth : Nat × Nat × Nat × Nat × Nat × Nat) (len : Nat) : Bool :=
  let (_, j, a, b, form, off) := clth
  let leaf := b = a + 1
  let pair := if leaf then collIform c.wr else true
  let sz := if pair then 8 else 4
  let (_, cnt) := segOf (collE c.wr) c.n j
  decide (collKind c.wr < 2 ∧ j < c.n ∧ a < b ∧ b ≤ c.n ∧ form = (if pair then 1 else 0)) &&
    decide (0 < len ∧ len % sz = 0 ∧ off + len / sz ≤ cnt) &&
    decide (k = if leaf then a else (a + j) % c.n) &&
    (match parentOf 17 0 c.n a b with
      | some p => decide ((p.1 + j) % c.n = c.r) &&
          (List.range (len / sz)).all (fun i => (SMap.get none (SMap.get [] c.ops (nodeKey j a b)) (off + i)).isNone &&
            !SMap.get false c.seen (nodeKey j p.1 p.2 * 2 ^ 23 + (off + i) / 512))
      | none => false)

/-! ## Placing one packet at the expected PSN -/

/-- What placing a packet came to. -/
inductive Placed where
  | done (span : Nat)
  | wait
  | viol (row nak : Nat)
  | drop (row : Nat)                 -- recorded or counted; not accepted
  | rnr
  | badLocal                         -- local access fault of the receive request
  deriving DecidableEq, Repr

/-- The channel of an ordered queue pair: CHAN on the peer module, which link control names, or whose address the attributes give
(R291; notes/assumptions/52). -/
def Hw.chanKey (h : Hw) (q : Qp) : Nat :=
  if h.portMode q.carter = 1 then 2 ^ 48 * (1 + (Config.moduleAt (BitVec.ofNat 128 (beNat (subB q.attr 16 16)))).toNat) + q.chan
  else q.chan * 2 ^ 32 + (h.flink q.plink).peerId

/-- The last packet of a message of an ordered queue pair waits for every lower CSN of its channel (R291). -/
def Hw.csnOk (h : Hw) (q : Qp) (p : Pkt) : Bool := match p.oeth with
  | some (_, csn) => !q.ordered || csn % 65536 == SMap.get 0 h.fab.recvCsn (h.chanKey q)
  | none => true

/-- The message is home: the channel's next CSN. -/
def Hw.csnNext (h : Hw) (q : Qp) : Hw :=
  if q.ordered then
    let k := h.chanKey q
    h.modFab (fun f => { f with recvCsn := SMap.set 0 f.recvCsn k ((SMap.get 0 f.recvCsn k + 1) % 65536) })
  else h

/-- An inbound WRITE packet (R290, R294). `placed` says that its data is written already. -/
def Hw.placeWrite (id : Ident) (h : Hw) (n : Nat) (q : Qp) (p : Pkt) (placed : Bool) : Placed × Hw :=
  let (start, f) : Nat × Option Pkt := if p.first then (p.psn, some p) else match q.msg with
    | some (s, f) => (s, some f)
    | none => (0, none)
  match f with
  | none => (.viol 8 1, h)
  | some f => match f.reth with
    | none => (.viol 8 1, h)
    | some r => match h.remote q r rRemWrite with
      | none => (.viol 10 2, h)
      | some base =>
        let o := 2048 * pd p.psn start
        if r.2.2.2 < o + p.payload.length then (.viol 10 2, h)
        else if p.last && !h.csnOk q p then (.wait, h)
        else
          let (bad, h) := if placed then (none, h) else h.ncWrite id hintIn false (base + o) p.payload
          if bad.isSome then (.viol 10 2, h)
          else
            let h := h.setQp n { q with msg := if p.last then none else some (start, f) }
            (.done 1, if p.last then h.csnNext q else h)

/-- An inbound SEND packet (R293). -/
def Hw.placeSend (id : Ident) (h : Hw) (n : Nat) (q : Qp) (p : Pkt) : Placed × Hw :=
  let (rwr, got, posted) : Option (List Byte) × Nat × List (List Byte) := match (if p.first then none else q.rwr) with
    | some w => (some w, q.rgot, q.posted)
    | none => (q.posted.head?, 0, q.posted.drop 1)
  match rwr with
  | none => (.rnr, h)
  | some w =>
    if recN w 4 4 < got + p.payload.length then (.viol 11 3, h)
    else if p.last && !h.csnOk q p then (.wait, h)
    else
      let put : Option Hw := if p.payload = [] then some h
        else match h.local_ q (fld (recN w 8 1) 0 6) rWrite (fld (recN w 16 8) 0 48 + got) p.payload.length with
          | none => none
          | some a => match h.ncWrite id hintIn false a p.payload with
            | (none, h) => some h
            | (some _, _) => none
      match put with
      | none => (.badLocal, h.setQp n { q with rwr := some w, rgot := got, posted := posted })
      | some h =>
        let got := got + p.payload.length
        if p.last then
          let h := h.setQp n { q with rwr := none, rgot := 0, posted := posted }
          (.done 1, (h.csnNext q).wrDone q.rq n w 0 got 0)
        else (.done 1, h.setQp n { q with rwr := some w, rgot := got, posted := posted })

/-- READ_RESP packets of the data read, one reserved PSN each. -/
def respPkts (q : Qp) (op psn : Nat) (x : List Byte) : List TxPkt :=
  let k := max 1 (cdivF x.length)
  (List.range k).map (fun i =>
    { pkt := { Pkt.mk0 op q.dqpn (padd psn i) 0 with
        first := i == 0, last := i + 1 == k, payload := (x.drop (2048 * i)).take 2048 }
      span := 1, resp := true, sentAt := none, sacked := false })

/-- Answers leave ahead of this side's own requests, oldest first. -/
def Qp.addResp (q : Qp) (ps : List TxPkt) : Qp :=
  { q with txq := q.txq.filter (·.resp) ++ ps ++ q.txq.filter (fun p => !p.resp) }

/-- An inbound READ_REQ (R290, R294). -/
def Hw.placeRead (id : Ident) (h : Hw) (c n : Nat) (q : Qp) (p : Pkt) : Placed × Hw :=
  match p.reth with
  | none => (.viol 8 1, h)
  | some r => match h.remote q r rRemRead with
    | none => (.viol 10 2, h)
    | some a => match h.carterRead id c q.ctx a r.2.2.2 with
      | (none, h) => (.viol 10 2, h)
      | (some x, h) => (.done p.span, h.modQp n (fun q => q.addResp (respPkts q 3 p.psn x)))

/-- An inbound FADD or CAS (R294): an atomic of a non-caching agent on 8 bytes (10 R246). -/
def Hw.placeAtomic (id : Ident) (h : Hw) (c n : Nat) (q : Qp) (p : Pkt) : Placed × Hw :=
  match p.reth, p.ateth with
  | some r, some o =>
    if r.2.2.1 % 8 ≠ 0 then (.viol 9 1, h)
    else match h.remote q (r.1, r.2.1, r.2.2.1, 8) rRemAtomic with
      | none => (.viol 10 2, h)
      | some a =>
        if !cacheable id (keyOf a) then (.viol 9 1, h)
        else match h.carterAtomic id c q.ctx a (if p.op = 4 then 0 else 1) (toLE 8 o.1 ++ toLE 8 o.2) with
          | (none, h) => (.viol 10 2, h)
          | (some x, h) =>
            (.done 1, h.modQp n (fun q => q.addResp (respPkts q 6 p.psn x)))
  | _, _ => (.viol 8 1, h)

/-- An inbound LEASE packet (R306). -/
def Hw.placeLease (h : Hw) (q : Qp) (p : Pkt) : Placed × Hw :=
  let e := recN p.payload 0 8
  if !q.leaseOk || decide (e ≤ h.fab.epoch) then (.drop 18, h) else (.done 1, h.renew e)

/-- An inbound REDUCE or GATHER packet (R300 to R302, 08 R197). -/
def Hw.placeColl (id : Ident) (h : Hw) (n : Nat) (q : Qp) (p : Pkt) : Placed × Hw :=
  match p.clth with
  | none => (.viol 8 1, h)
  | some x => match h.collOf n x.1 with
    | .wait => (.wait, h)
    | .bad => (.viol 17 7, h)
    | .take g c k =>
      let (_, j, a, b, form, off) := x
      if p.op = 0xC then
        if reduceOk c k x p.payload.length then
          (.done 1, h.setColl g (some (c.put (nodeKey j a b) off (pairsOf (form == 1) p.payload))))
        else (.viol 17 7, h)
      else match gatherOk c k x p.payload.length with
        | none => (.viol 17 7, h)
        | some o =>
          match h.through q.ctx (fld (recN c.wr 9 1) 0 6) rWrite (fld (recN c.wr 24 8) 0 48 + o) p.payload.length with
          | none => (.done 1, h.failColl g 0)
          | some ad =>
            if h.repl.any (fun e => h.gatherHeld e.1 ad p.payload.length) then (.wait, h)
            else
              match h.ncWrite id hintIn false ad p.payload with
              | (some _, h) => (.done 1, h.failColl g 0)
              | (none, h) =>
                let h := h.repl.foldl (fun h e => h.gatherDelivered id e.1 ad p.payload) h
                let len := p.payload.length / collOut c.wr
                (.done 1, h.setColl g (some { c with left := c.left - len, got := (o / collOut c.wr, len) :: c.got }))

/-- Place the packet whose PSN is the expected one. -/
def Hw.place (id : Ident) (h : Hw) (c n : Nat) (q : Qp) (r : RxPkt) : Placed × Hw :=
  match r.pkt.op with
  | 0 => h.placeSend id n q r.pkt
  | 1 => h.placeWrite id n q r.pkt r.placed
  | 2 => h.placeRead id c n q r.pkt
  | 4 => h.placeAtomic id c n q r.pkt
  | 5 => h.placeAtomic id c n q r.pkt
  | 7 => (.wait, h)
  | 0xB => h.placeLease q r.pkt
  | 0xC => h.placeColl id n q r.pkt
  | 0xD => h.placeColl id n q r.pkt
  | _ => (.done 1, h)

/-- A packet that an ACK has covered only by its SACK bitmap is placed: an ACK that advances over it falls due (R295). -/
def Qp.ackDue (q : Qp) (ts now : Nat) : Qp := if q.accAt.isNone then { q with accAt := some now, accTs := ts } else q

/-- Take a packet off the receive list. -/
def Qp.unrx (q : Qp) (psn : Nat) : Qp := { q with rx := q.rx.filter (fun r => r.pkt.psn != psn) }

/-- A receive request fails locally: it completes with LOCAL_ACCESS and the queue pair closes (R287). -/
def Hw.recvFault (id : Ident) (h : Hw) (n : Nat) : Hw :=
  match h.qp n with
  | none => h
  | some q => match q.rwr with
    | some w => ((h.setQp n { q with rwr := none }).wrDone q.rq n w 0x42 q.rgot 1).closeQp id n 1 none 0x40 true
    | none => h.closeQp id n 1 none 0x40 true

/-- Act on what placing came to: the packet leaves the receive list, and the expected PSN moves over its span. -/
def Hw.settle (id : Ident) (h : Hw) (c part n : Nat) (p : Pkt) (r : Placed) : Hw :=
  match r with
  | .done k => h.modQp n (fun q => { (q.unrx p.psn).ackDue p.ts h.localNs with exp := padd q.exp k, limit := q.limit - k })
  | .wait => h
  | .viol row nak => h.violClose id c part row n p.op p.psn p.ts nak true
  | .drop row => (h.violation c part row n p.op p.psn ((h.qp n).map Qp.ctx) true).modQp n (fun q => q.unrx p.psn)
  | .rnr => (((h.violation c part 12 n p.op p.psn none false).modQp n (fun q =>
      { q with rx := [] })).ackNow n 9 6 p.ts)
  | .badLocal => h.recvFault id n

/-- Place packets in PSN order from the expected one on. `late` lets the next packet that closes a message, or a RFENCE,
through; the packets after it do not wait unless they close a message (R290, R292). -/
def drainRx (id : Ident) (c part n : Nat) : Nat → Bool → Hw → Hw
  | 0, _, h => h
  | f + 1, late, h => match h.qp n with
    | none => h
    | some q =>
      if q.st ≠ 1 then h
      else match q.rx.find? (fun r => r.pkt.psn == q.exp) with
        | none => h
        | some r =>
          if !late && (r.pkt.op == 0 || r.pkt.op == 1) && r.pkt.last then h
          else
            let (res, h) := h.place id c n q r
            match res with
            | .done _ => drainRx id c part n f false (h.settle id c part n r.pkt res)
            | _ => h.settle id c part n r.pkt res

def Hw.drain (id : Ident) (h : Hw) (c part n : Nat) (late : Bool) : Hw :=
  match h.qp n with
  | none => h
  | some q => drainRx id c part n (q.rx.length + 1) late h

/-- Place a WRITE packet that came ahead of an earlier one, when its message's FIRST packet is known and permits it: never
the last of a message (R290). -/
def Hw.placeAhead (id : Ident) (h : Hw) (n : Nat) (p : Pkt) : Hw :=
  match h.qp n with
  | none => h
  | some q =>
    if p.op ≠ 1 ∨ p.last ∨ q.st ≠ 1 then h
    else
      let firsts := q.msg.toList ++ (q.rx.filter (fun r => r.pkt.op == 1 && r.pkt.first)).map (fun r => (r.pkt.psn, r.pkt))
      match firsts.find? (fun f => match f.2.reth with
          | some r => decide (pd p.psn f.1 < cdivF r.2.2.2)
          | none => false) with
      | none => h
      | some (s, f) => match f.reth with
        | none => h
        | some r => match h.remote q r rRemWrite with
          | none => h
          | some base =>
            if r.2.2.2 < 2048 * pd p.psn s + p.payload.length then h
            else match h.ncWrite id hintIn false (base + 2048 * pd p.psn s) p.payload with
              | (some _, h) => h
              | (none, h) => h.modQp n (fun q => { q with
                  rx := q.rx.map (fun r => if r.pkt.psn = p.psn then { r with placed := true } else r) })

/-- Packets of local time at most 1 ms old. -/
def recentMs (now : Nat) (ts : List Nat) : List Nat := ts.filter (fun t => decide (now < t + 1000000))

/-- A packet on its queue pair with its PSN tested against the window and the credit (R295, rows 13 to 15). -/
def Hw.recvSeq (id : Ident) (h : Hw) (c part n : Nat) (p : Pkt) : Hw :=
  match h.qp n with
  | none => h
  | some q =>
    let k := pd p.psn q.exp
    if 2 ^ 23 ≤ k ∨ q.rx.any (fun r => r.pkt.psn == p.psn) then
      (h.violation c part 13 n p.op p.psn none false).ackNow n 8 0 p.ts
    else if 4096 ≤ k then
      let ts := h.localNs :: recentMs h.localNs q.oow
      let h := h.setQp n { q with oow := ts }
      if 16 ≤ ts.length then h.violClose id c part 14 n p.op p.psn p.ts 4 true
      else (h.violation c part 14 n p.op p.psn none false).ackNow n 9 4 p.ts
    else if q.limit ≤ k then
      let ts := h.localNs :: recentMs h.localNs q.overN
      let h := h.setQp n { q with overN := ts }
      if 3 ≤ ts.length then h.violClose id c part 15 n p.op p.psn p.ts 5 true
      else (h.violation c part 15 n p.op p.psn none false).ackNow n 9 5 p.ts
    else
      let gap := decide (k ≠ 0) && !q.rx.any (fun r => r.pkt.psn == padd q.exp (k - 1))
      let h := h.setQp n { q with
        rx := q.rx ++ [⟨p, false⟩]
        accN := q.accN + 1
        accTs := if q.accN = 0 then p.ts else q.accTs
        accAt := match q.accAt with
          | some t => some t
          | none => some h.localNs }
      let h := if k = 0 then h.drain id c part n true else h.placeAhead id n p
      match h.qp n with
      | none => h
      | some q =>
        if q.st = 1 && decide (0 < q.accN) && (p.ackreq || gap || decide (8 ≤ q.accN)) then
          h.ackNow n 8 0 p.ts
        else h

/-! ## Packets that answer this side (R288, R289, R295, R296) -/

/-- A READ_RESP or ATOMIC_RESP (R289). -/
def Hw.onResp (id : Ident) (h : Hw) (c part n : Nat) (p : Pkt) : Hw :=
  match h.qp n with
  | none => h
  | some q =>
    let fits (w : WorkReq) : Bool := !w.coll && decide (pd p.psn w.psn < w.span) &&
      (if p.op = 3 then recN w.wr 0 1 == 2 else recN w.wr 0 1 == 4 || recN w.wr 0 1 == 5)
    match q.wrs.find? fits with
    | none => h.violClose id c part 16 n p.op p.psn p.ts 0 true
    | some w =>
      let i := pd p.psn w.psn
      if w.got.contains i then h
      else
        let len := if p.op = 3 then recN w.wr 4 4 else 8
        let x := p.payload.take (len - 2048 * i)
        let fail := h.closeQp id n 1 (some (w.idx, 0x42, 1)) 0x40 true
        match h.local_ q (fld (recN w.wr 8 1) 0 6) rWrite (fld (recN w.wr 16 8) 0 48 + 2048 * i) x.length with
        | none => fail
        | some a => match h.ncWrite id hintIn false a x with
          | (some _, _) => fail
          | (none, h) =>
            let w' := { w with got := i :: w.got }
            if w'.got.length = w.span then
              (h.setQp n { q with wrs := q.wrs.filter (fun y => y.psn != w.psn || y.coll) }).wrDone n n w.wr 0 len 0
            else h.setQp n { q with wrs := q.wrs.map (fun y => if y.psn = w.psn ∧ !y.coll then w' else y) }

/-- The PSN an answer carries has been sent. -/
def Qp.sentPsn (q : Qp) (psn : Nat) : Bool := decide (pd psn q.una ≤ q.sentEnd ∨ 2 ^ 23 ≤ pd psn q.una)

/-- An ACK (R295 to R297). -/
def Hw.onAck (id : Ident) (h : Hw) (c part n : Nat) (p : Pkt) : Hw :=
  match h.qp n, p.aeth with
  | some q, some (sack, credit, _) =>
    if !q.sentPsn p.psn then h.violClose id c part 16 n p.op p.psn p.ts 0 true
    else if 2 ^ 23 ≤ pd p.psn q.una then h
    else
      let h := if p.psn = q.una then h else (h.sample n p.psn p.ts).advance n p.psn
      let h := (h.modQp n (fun q => { q with credit := credit % 65536 })).sack n p.psn sack
      (h.pump q.carter).finishColls
  | _, _ => h

/-- The status a request takes from the peer's NAK. -/
def nakStatus (reason : Nat) : Nat := if reason = 1 then 0x44 else if reason = 2 then 0x43 else 0x45

/-- A NAK (R293, R296, R303). -/
def Hw.onNak (id : Ident) (h : Hw) (c part n : Nat) (p : Pkt) : Hw :=
  match h.qp n, p.aeth with
  | some q, some (_, credit, reason) =>
    if !q.sentPsn p.psn then h.violClose id c part 16 n p.op p.psn p.ts 0 true
    else if 2 ^ 23 ≤ pd p.psn q.una then h
    else
      let h := h.advance n p.psn
      let h := h.modQp n (fun q => { q with credit := credit % 65536 })
      match h.qp n with
      | none => h
      | some q =>
        if reason = 4 ∨ reason = 5 then ((h.setQp n q.requeue).pump q.carter).finishColls
        else if reason = 6 then
          if q.rnrMax ≤ q.rnrs + 1 then h.closeQp id n 4 (q.cause p.psn 0x47 4) 0x40 true
          else (h.setQp n { q.requeue with rnrs := q.rnrs + 1, rnrAt := some h.localNs }).finishColls
        else if reason = 1 ∨ reason = 2 ∨ reason = 3 then
          h.closeQp id n 2 (q.cause p.psn (nakStatus reason) reason) 0x40 false
        else if reason = 7 then h.closeQp id n 2 none 0x40 false
        else h
  | _, _ => h

/-! ## A frame arrives (R303) -/

/-- The queue pair a frame may be for: it names this carter's link as its primary or alternate (R279). -/
def Hw.qpFor (h : Hw) (l n : Nat) : Option Qp := match h.qp n with
  | some q => if q.st = 1 ∧ (q.plink = l ∨ (q.altEn ∧ q.alink = l)) then some q else none
  | none => none

/-- An inbound frame on link l of carter c from partner `src`, in the order of Table 12-10. -/
def Hw.recvPkt (id : Ident) (h : Hw) (c l src : Nat) (p : Pkt) : Hw :=
  let k := 8 * c + l
  if 16 ≤ c ∨ 8 ≤ l ∨ !h.linkUp k then h
  else
    let part := h.partner c l src
    let n := p.dqpn % 2 ^ 20
    let h := h.countHub 0 (17 + 2 * c) p.payload.length
    let h := h.bump (carterReg c (0x80 + 8 * l)) 40 24 p.fec
    if p.frame = 1 then h.bump (carterReg c (0x80 + 8 * l)) 0 20 1
    else if p.frame = 5 then h.bump (carterReg c (0x80 + 8 * l)) 20 20 1
    else if p.frame = 2 then h.violation c part 2 n p.op p.psn none true
    else if p.frame = 3 then h.violation c part 3 n p.op p.psn none false
    else if p.frame ≠ 0 ∨ p.tooLong (h.portMode c == 1) then h.violation c part 4 n p.op p.psn none true
    else if h.blacklisted part then h.violation c part 5 n p.op p.psn none false
    else match h.qpFor k n with
      | none => h.violation c part 6 n p.op p.psn none true
      | some q =>
        let c := q.carter
        if q.bad then h.meetBuf id n else
        let h := if k = q.alink ∧ q.altEn ∧ !q.alt ∧ k ≠ q.plink then h.setQp n { q with alt := true } else h
        if 0xE ≤ p.op ∨ p.resv then h.violClose id c part 7 n p.op p.psn p.ts 1 true
        else if !p.hdrOk q then h.violClose id c part 8 n p.op p.psn p.ts 1 true
        else if p.sequenced then ((h.recvSeq id c part n p).pump c).finishColls
        else match p.op with
          | 3 => h.onResp id c part n p
          | 6 => h.onResp id c part n p
          | 8 => h.onAck id c part n p
          | 9 => h.onNak id c part n p
          | _ => h.closeQp id n 0xA none 0x4B false

/-- A frame whose opcode is `op`; SEND's command also brings the reserved opcodes. -/
def recvOp (id : Ident) (op c l src : Nat) (p : Pkt) (h : Hw) : Hw :=
  if p.op = op ∨ (op = 0 ∧ 0xE ≤ p.op) then h.recvPkt id c l src p else h

/-- LAST_PACKET_WRITE: a message's last packet that waited is written once every lower PSN and CSN is home (R290, R291). -/
def lastPacketWrite (id : Ident) (n : Nat) (h : Hw) : Hw :=
  match h.qp n with
  | none => h
  | some q => ((h.drain id q.carter (h.qpPartner q) n true).pump q.carter).finishColls

/-- RFENCE_ACKNOWLEDGE: the expected packet is a read fence, and every write completed before it is home (R292). -/
def rfenceAcknowledge (id : Ident) (n : Nat) (h : Hw) : Hw :=
  match h.qp n with
  | none => h
  | some q => match q.rx.find? (fun r => r.pkt.psn == q.exp) with
    | some r =>
      if q.st = 1 ∧ r.pkt.op = 7 then
        let h := h.settle id q.carter (h.qpPartner q) n r.pkt (.done 1)
        let h := h.ackNow n 8 0 r.pkt.ts
        (h.drain id q.carter (h.qpPartner q) n false).finishColls
      else h
    | none => h

/-- Gathers and collectives that waited are placed where they now may be. -/
def Hw.drainAll (id : Ident) (h : Hw) : Hw :=
  (h.fab.qps.foldl (fun h e => match h.qp e.1 with
    | some q => if q.rx = [] then h else h.drain id q.carter (h.qpPartner q) e.1 false
    | none => h) h).finishColls

/-! ## The end of a digest exchange (08 R191, R196) -/

/-- EXCHANGE_CLOSE_GATE: every block is verified, and the refetch writes are home (R191). -/
def exchangeCloseGate (id : Ident) (i : Nat) (h : Hw) : Hw :=
  let g := h.grp i
  if g.st = 2 ∧ g.pendingN = 0 ∧ g.flying = [] then ((h.closeExchange i).gate id g).drainAll id else h

/-- REPL_RELEASE: a write of 1 to RELEASE on a held group (R196). -/
def replRelease (id : Ident) (i : Nat) (h : Hw) : Hw :=
  let g := h.grp i
  if g.st = 3 then ((h.closeExchange i).gate id g).drainAll id else h

/-- REPL_ABORT: a write of 1 to ABORT on an open or held group (R196). -/
def replAbort (id : Ident) (i : Nat) (h : Hw) : Hw :=
  let g := h.grp i
  if g.st = 2 ∨ g.st = 3 then (h.closeExchange i).drainAll id else h

/-! ## Completions (15 R366) -/

/-- COMPLETION_WRITE of a producing queue: a carter queue that breaks closes its queue pair. -/
def completionWrite (id : Ident) (q : Nat) (h : Hw) : Hw :=
  h.writeCompletion id q (fun h =>
    (h.qpsOf none).foldl (fun h n => match h.qp n with
      | some x => if n = q ∨ x.rq = q then h.closeQp id n 1 none 0x40 true else h
      | none => h) h)

end Sys2Proof.Machine
end

