-- ==== Sys2Proof/Machine/WorkReqs.lean ====
section
/-!
DEFINITION. WorkReqs.lean: fetching, checking and starting work requests, and the ordered collectives (12 R287, R289, R299
to R302).
-/
namespace Sys2Proof.Machine

/-! ## Checks (Tables 12-7, 12-9) -/

def wrOp (w : List Byte) : Nat := recN w 0 1
def wrLen (w : List Byte) : Nat := recN w 4 4
def wrLwin (w : List Byte) : Nat := fld (recN w 8 1) 0 6
def wrRwin (w : List Byte) : Nat := fld (recN w 9 1) 0 6
def wrGen (w : List Byte) : Nat := recN w 10 2
def wrLoff (w : List Byte) : Nat := fld (recN w 16 8) 0 48
def wrRoff (w : List Byte) : Nat := fld (recN w 24 8) 0 48

/-- Opcodes of a send queue. -/
def sendOps : List Nat := [0, 1, 2, 4, 5, 7, 0xC]

/-- A work request's fields are as Table 12-7 asks. -/
def wrOk (recv : Bool) (w : List Byte) : Bool :=
  let op := wrOp w
  let zero (o n : Nat) : Bool := recN w o n == 0
  (if recv then op == 8 else sendOps.contains op) && decide (fld (recN w 1 1) 2 6 = 0) && zero 2 2 &&
    decide (fld (recN w 8 1) 6 2 = 0) && decide (fld (recN w 9 1) 6 2 = 0) && zero 12 4 &&
    decide (recN w 16 8 < 2 ^ 48) && decide (recN w 24 8 < 2 ^ 48) && zero 56 8 &&
    (match op with
      | 1 => decide (1 ≤ wrLen w) && zero 32 16
      | 2 => decide (1 ≤ wrLen w) && zero 32 16
      | 4 => wrLen w == 8 && wrLoff w % 8 == 0 && wrRoff w % 8 == 0 && zero 40 8
      | 5 => wrLen w == 8 && wrLoff w % 8 == 0 && wrRoff w % 8 == 0
      | 7 => wrLen w == 0 && zero 32 16
      | 0xC => decide (fld (recN w 32 1) 6 2 = 0 ∧ recN w 33 1 < 3 ∧ fld (recN w 34 1) 2 6 = 0) && zero 35 1 &&
          decide (1 ≤ collE w) && decide (recN w 40 8 < 2 ^ 48 ∧ recN w 40 8 % 4 = 0)
      | _ => zero 32 16)

/-! ## Fetching (R287) -/

/-- The work request at the head of a carter queue, when the carter can fetch it: the queue is ready and not stalled on a
completion, and its ring can be read. A ring that cannot be read breaks the queue (15 R366). -/
def Hw.wrHead (id : Ident) (h : Hw) (q kind : Nat) : Option (List Byte) × Hw :=
  let d := h.q id q
  if d.st ≠ 1 ∨ d.kind ≠ kind ∨ d.depth = 0 ∨ h.stalled id q then (none, h)
  else if !h.ringOk d then (none, h.breakQ id q 0x03)
  else match h.ncRead id hintOut (h.slotAddr d d.head) 64 with
    | (.ok b, h) => (some b, h)
    | (.fault _, h) => (none, h.breakQ id q 0x03)
    | (.bad cls e, h) =>
      (none, h.unitBad cls (srcOf 8 0x13 0) (some d.ctx) e [(40, 1, 0)] none)

/-- The head is taken. -/
def Hw.wrTake (id : Ident) (h : Hw) (q : Nat) : Hw :=
  let d := h.q id q
  let h := h.setQ id q { d with head := add32 d.head 1 }
  if d.depth = 1 then h.setBit q false else h

/-- A work request fails a check: its completion, and the queue pair closes with reason local-error (R287). -/
def Hw.wrFail (id : Ident) (h : Hw) (n queue : Nat) (w : List Byte) (status : Nat) : Hw :=
  (h.wrDone queue n w status 0 1).closeQp id n 1 none 0x40 true

/-! ## Sending (R285, R289, R290, R291) -/

/-- Cut a message's payload into packets' payloads. -/
def cutPayload (x : List Byte) : List (List Byte) :=
  (List.range (max 1 (cdivF x.length))).map (fun i => (x.drop (2048 * i)).take 2048)

/-- Queue packets of one message on a queue pair, with the next PSNs. ACKREQ is as the carter chooses
(notes/assumptions/6). -/
def Hw.queueMsg (h : Hw) (n : Nat) (ps : List Pkt) (span : Nat) : Hw :=
  match h.qp n with
  | none => h
  | some q =>
    let (v, h) := h.draw
    let k := ps.length
    let tx := ((List.range k).zip ps).map (fun e =>
      ({ pkt := { e.2 with psn := padd q.nextPsn e.1, first := e.1 == 0, last := e.1 + 1 == k, dqpn := q.dqpn
                           ackreq := bitAt v.toNat e.1 }
         span := span, resp := false, sentAt := none, sacked := false } : TxPkt))
    h.setQp n { q with txq := q.txq ++ tx, nextPsn := padd q.nextPsn (k * span) }

/-- The OETH of a message, counted on its channel (R291). -/
def Hw.takeCsn (h : Hw) (q : Qp) : Option (Nat × Nat) × Hw :=
  if q.ordered then
    let k := h.chanKey q
    let c := SMap.get 0 h.fab.sendCsn k
    (some (q.chan, c), h.modFab (fun f => { f with sendCsn := SMap.set 0 f.sendCsn k ((c + 1) % 65536) }))
  else (none, h)

/-- Start a request: its packets are queued and the request is kept until it completes. -/
def Hw.startWr (h : Hw) (n idx : Nat) (w : List Byte) (ps : List Pkt) (span : Nat) : Hw :=
  match h.qp n with
  | none => h
  | some q =>
    let total := if ps.length = 1 then span else ps.length
    let h := h.modQp n (fun q => { q with
      wrs := q.wrs ++ [{ idx := idx, wr := w, psn := q.nextPsn, span := total, got := [], coll := false }] })
    (h.queueMsg n ps span).pump q.carter

def wrReth (w : List Byte) : Option (Nat × Nat × Nat × Nat) := some (wrRwin w, wrGen w, wrRoff w, wrLen w)

/-- Fetch the head of a send queue when it is of one of the opcodes `mine`, and start it by `go` (R287). -/
def Hw.fetchSend (id : Ident) (h : Hw) (n : Nat) (mine : Nat → Bool) (go : Qp → Nat → List Byte → Hw → Hw) : Hw :=
  let h := if h.accelHeld then h else h.meetBuf id n
  match h.qp n with
  | none => h
  | some q =>
    if q.st ≠ 1 ∨ h.accelHeld then h
    else match h.wrHead id n 1 with
      | (none, h) => h
      | (some w, h) =>
        let fenced := bitAt (recN w 1 1) 1 && q.wrs.any (fun x => [2, 4, 5].contains (wrOp x.wr))
        if !mine (wrOp w) || fenced then h
        else
          let idx := (h.q id n).head
          let h := h.wrTake id n
          if !wrOk false w then h.wrFail id n n w 0x41 else go q idx w h

/-- SEND_WORK_REQUEST: also the head whose opcode no send queue takes, which fails its check. -/
def sendWorkRequest (id : Ident) (n : Nat) (h : Hw) : Hw :=
  h.fetchSend id n (fun o => o == 0 || !sendOps.contains o) (fun q idx w h =>
    let payload : Option (List Byte) × Hw := if wrLen w = 0 then (some [], h)
      else match h.local_ q (wrLwin w) rRead (wrLoff w) (wrLen w) with
        | none => (none, h)
        | some a => h.carterRead id q.carter q.ctx a (wrLen w)
    match payload with
    | (none, h) => h.wrFail id n n w 0x42
    | (some x, h) =>
      let (o, h) := h.takeCsn q
      h.startWr n idx w ((cutPayload x).map (fun y => { Pkt.mk0 0 0 0 0 with payload := y, oeth := o })) 1)

/-- WRITE_WORK_REQUEST. -/
def writeWorkRequest (id : Ident) (n : Nat) (h : Hw) : Hw :=
  h.fetchSend id n (· == 1) (fun q idx w h =>
    match h.local_ q (wrLwin w) rRead (wrLoff w) (wrLen w) with
    | none => h.wrFail id n n w 0x42
    | some a => match h.carterRead id q.carter q.ctx a (wrLen w) with
      | (none, h) => h.wrFail id n n w 0x42
      | (some x, h) =>
        let (o, h) := h.takeCsn q
        let ys := cutPayload x
        h.startWr n idx w (((List.range ys.length).zip ys).map (fun e =>
          { Pkt.mk0 1 0 0 0 with payload := e.2, oeth := o, reth := if e.1 = 0 then wrReth w else none })) 1)

/-- READ_WORK_REQUEST. -/
def readWorkRequest (id : Ident) (n : Nat) (h : Hw) : Hw :=
  h.fetchSend id n (· == 2) (fun q idx w h =>
    if (h.local_ q (wrLwin w) rWrite (wrLoff w) (wrLen w)).isNone then h.wrFail id n n w 0x42
    else h.startWr n idx w [{ Pkt.mk0 2 0 0 0 with reth := wrReth w }] (cdivF (wrLen w)))

/-- An FADD or CAS request. -/
def Hw.atomicWr (id : Ident) (h : Hw) (n op : Nat) : Hw :=
  h.fetchSend id n (· == op) (fun q idx w h =>
    if (h.local_ q (wrLwin w) rWrite (wrLoff w) 8).isNone then h.wrFail id n n w 0x42
    else h.startWr n idx w [{ Pkt.mk0 op 0 0 0 with reth := wrReth w, ateth := some (recN w 32 8, recN w 40 8) }] 1)

def faddWorkRequest (id : Ident) (n : Nat) (h : Hw) : Hw := h.atomicWr id n 4
def casWorkRequest (id : Ident) (n : Nat) (h : Hw) : Hw := h.atomicWr id n 5

/-- RFENCE_WORK_REQUEST. -/
def rfenceWorkRequest (id : Ident) (n : Nat) (h : Hw) : Hw :=
  h.fetchSend id n (· == 7) (fun _ idx w h => h.startWr n idx w [Pkt.mk0 7 0 0 0] 1)

/-- RECV_WORK_REQUEST: the head of a queue pair's receive queue is checked and posted (R287, R293). -/
def recvWorkRequest (id : Ident) (n : Nat) (h : Hw) : Hw :=
  let h := if h.accelHeld then h else h.meetBuf id n
  match h.qp n with
  | none => h
  | some q =>
    if q.st ≠ 1 ∨ h.accelHeld then h
    else match h.wrHead id q.rq 2 with
      | (none, h) => h
      | (some w, h) =>
        let h := h.wrTake id q.rq
        if !wrOk true w then h.wrFail id n q.rq w 0x41
        else if wrLen w ≠ 0 ∧ (h.local_ q (wrLwin w) rWrite (wrLoff w) (wrLen w)).isNone then h.wrFail id n q.rq w 0x42
        else h.modQp n (fun q => { q with posted := q.posted ++ [w] })

/-! ## Collectives (R299 to R302) -/

/-- Send collective data to rank k: packets of at most 2,048 bytes, each a message of its own. -/
def Hw.sendColl (h : Hw) (g op k : Nat) (clth : Nat × Nat × Nat × Nat × Nat) (off sz : Nat) (x : List Byte) : Hw :=
  if x = [] then h
  else match h.coll g with
    | none => h
    | some c =>
      let n := c.map[k]?.getD 0
      let (cseq, j, a, b, form) := clth
      ((List.range (cdivF x.length)).foldl (fun h i => match h.qp n, h.coll g with
        | some q, some c =>
          let p := { Pkt.mk0 op 0 0 0 with
            payload := (x.drop (2048 * i)).take 2048, clth := some (cseq, j, a, b, form, off + 2048 * i / sz) }
          (h.setColl g (some { c with acks := (n, q.nextPsn) :: c.acks })).queueMsg n [p] 1
        | _, _ => h) h)

/-- A result of elements off onward of this rank's own segment: written, and in an all-reduce sent to every rank. A
write that does not reach its home fails the collective. -/
def Hw.collResult (id : Ident) (h : Hw) (g j off : Nat) (ws : List Word) : Hw :=
  match h.coll g with
  | none => h
  | some c =>
    let oform := collOform c.wr
    let sz := collOut c.wr
    let x := ws.flatMap (resultBytes oform)
    let st := (segOf (collE c.wr) c.n j).1
    let ctx := match h.qp c.qpn with
      | some q => q.ctx
      | none => 0
    let o := (if collKind c.wr = 0 then off else st + off) * sz
    let home := h.collHome id ctx c.wr o x
    let h := h.collWrite id ctx c.wr o x
    let h := h.setColl g (some { c with left := c.left - ws.length })
    if !home then h.failColl g 0
    else if collKind c.wr = 0 then h
    else ((List.range c.n).filter (· != c.r)).foldl (fun h k => h.sendColl g 0xD k (c.cseq, j, 0, c.n, 2) off sz x) h

/-- Deliver the elements of a node of segment j to where its parent is combined. -/
def Hw.collForward (h : Hw) (g j a b off : Nat) (pair : Bool) (ws : List Word) : Hw :=
  match h.coll g with
  | none => h
  | some c => match parentOf 17 0 c.n a b with
    | none => h
    | some (lo, _) =>
      let k := (lo + j) % c.n
      if k = c.r then h.setColl g (some (c.put (nodeKey j a b) off ws))
      else
        let sz := if pair then 8 else 4
        h.sendColl g 0xC k (c.cseq, j, a, b, if pair then 1 else 0) off sz (ws.flatMap (fun w => toLE sz w.toNat))

/-- The rank map of a COLL request names, at every other rank, a ready queue pair of the context (R299). -/
def Hw.mapOk (h : Hw) (ctx r : Nat) (m : List Nat) : Bool :=
  (List.range m.length).all (fun k => k == r || (match m[k]? with
    | some v => decide (v < 2 ^ 20) && (match h.qp v with
      | some q => q.st == 1 && q.ctx == ctx
      | none => false)
    | none => false))

/-- COLL_WORK_REQUEST: one collective of a group at a time runs; the next waits (R299 to R301). -/
def collWorkRequest (id : Ident) (n : Nat) (h : Hw) : Hw :=
  let busy (w : List Byte) : Bool := (h.coll (fld (recN w 32 1) 0 6)).isSome
  let head : Bool := match (h.wrHead id n 1).1 with
    | some w => wrOp w == 0xC && busy w
    | none => false
  if head then h
  else h.fetchSend id n (· == 0xC) (fun q idx w h =>
    let g := fld (recN w 32 1) 0 6
    let grp := h.grp g
    let nn := grp.size
    let r := grp.rank
    let e := collE w
    let seg := segOf e nn r
    let kind := collKind w
    let outN := if kind = 0 then seg.2 else e
    if grp.st = 0 ∨ grp.ctx ≠ q.ctx then h.wrFail id n n w 0x41
    else match h.local_ q (wrLwin w) rRead (recN w 40 8) (4 * nn), h.local_ q (wrLwin w) rRead (wrLoff w) (e * collIn w),
        h.local_ q (wrRwin w) rWrite (wrRoff w) (outN * collOut w) with
      | some ma, some ia, some _ => match h.carterRead id q.carter q.ctx ma (4 * nn) with
        | (none, h) => h.wrFail id n n w 0x42
        | (some mb, h) =>
          let m := (List.range nn).map (fun k => recN mb (4 * k) 4)
          if !h.mapOk q.ctx r m then h.wrFail id n n w 0x41
          else
            let rd : Nat × Nat := if kind = 2 then (ia + seg.1 * collIn w, seg.2 * collIn w) else (ia, e * collIn w)
            match (if rd.2 = 0 then (some [], h) else h.carterRead id q.carter q.ctx rd.1 rd.2) with
            | (none, h) => h.wrFail id n n w 0x42
            | (some x, h) =>
              let cseq := SMap.get 0 h.fab.cseq g + 1
              let c : Coll := { qpn := n, wr := w, n := nn, r := r, cseq := cseq, map := m, ops := [], acks := [], left := outN
                                todo := if kind = 2 then 0 else combosOf e nn r, seen := [], got := [] }
              let h := h.modFab (fun f => { f with cseq := SMap.set 0 f.cseq g cseq, maps := SMap.set [] f.maps g m })
              let h := h.modQp n (fun q => { q with wrs := q.wrs ++
                [{ idx := idx, wr := w, psn := q.nextPsn, span := 0, got := [], coll := true }] })
              let h := h.setColl g (some c)
              let h := if kind = 2 then
                  let h := h.repl.foldl (fun h e => h.gatherSent id e.1 rd.1 x) h
                  let home := h.collHome id q.ctx w (seg.1 * collOut w) x
                  let h := h.collWrite id q.ctx w (seg.1 * collOut w) x
                  let h := h.setColl g (some { c with left := outN - seg.2 })
                  if !home then h.failColl g 0 else ((List.range nn).filter (· != r)).foldl (fun h k =>
                    h.sendColl g 0xD k (cseq, r, 0, nn, 2) 0 (collIn w) x) h
                else
                  let ws := pairsOf (collIform w) x
                  (List.range nn).foldl (fun h j =>
                    let (st, cnt) := segOf e nn j
                    if cnt = 0 then h
                    else
                      let part := (ws.drop st).take cnt
                      if nn = 1 then h.collResult id g j 0 part
                      else h.collForward g j r (r + 1) 0 (collIform w) part) h
              ((h.drainAll id).pumpAll).finishColls
      | _, _, _ => h.wrFail id n n w 0x42)

/-- COLLECTIVE_COMBINE: node (a, b) of segment j at this rank, elements of one chunk, once both operands have arrived
(R300). -/
def collectiveCombine (id : Ident) (g j a b chunk : Nat) (h : Hw) : Hw :=
  match h.coll g with
  | none => h
  | some c =>
    let (_, cnt) := segOf (collE c.wr) c.n j
    let lo := 512 * chunk
    let hi := min (lo + 512) cnt
    let m := splitOf a b
    let root := a = 0 ∧ b = c.n
    let node := b ≤ c.n ∧ a + 2 ≤ b ∧ (root ∨ (parentOf 17 0 c.n a b).isSome)
    if collKind c.wr < 2 ∧ j < c.n ∧ node ∧ (a + j) % c.n = c.r ∧ lo < hi then
      let l := SMap.get [] c.ops (nodeKey j a m)
      let r := SMap.get [] c.ops (nodeKey j m b)
      let es := (List.range (hi - lo)).map (fun i => (SMap.get none l (lo + i), SMap.get none r (lo + i)))
      if es.all (fun e => e.1.isSome && e.2.isSome) then
        let ws := es.map (fun e => pairWord ((wordPair (e.1.getD 0)).comb (wordPair (e.2.getD 0))))
        let drop (t : SMap (Option Word)) : SMap (Option Word) := t.filter (fun e => !decide (lo ≤ e.1 ∧ e.1 < hi))
        let ops := SMap.set [] (SMap.set [] c.ops (nodeKey j a m) (drop l)) (nodeKey j m b) (drop r)
        let h := h.setColl g (some { c with
          ops := ops, todo := c.todo - 1, seen := SMap.set false c.seen (nodeKey j a b * 2 ^ 23 + chunk) true })
        let h := if root then h.collResult id g j lo ws else h.collForward g j a b lo true ws
        h.pumpAll.finishColls
      else h
    else h

end Sys2Proof.Machine
end

