-- ==== Sys2Proof/Machine/Cellar.lean ====
section
/-!
DEFINITION. Cellar.lean: accesses at a cellar slice, flushes, self-refresh, and the scrubs (09 R209 to R215, R230 to R232).
-/
namespace Sys2Proof.Machine

/-- What error detection finds in the word read: 0 nothing, 1 a correctable error, 2 an uncorrectable one. -/
abbrev Found := Nat

/-- A request that reaches no memory is an access fault to its requester, with its record (09 R202, R206). -/
def Hw.missFault (h : Hw) (kind addr : Nat) : Hw := (h.err 0x02 1 (srcOf 8 0x10 (sliceOf (keyOf addr))) none (some (keyOf addr)) [(40, 1, kind)]).respond .fault

/-- CELLAR_READ: a read of part of one line reaches its slice (R210, R215, R223). -/
def cellarReadCmd (id : Ident) (addr len hint : Nat) (e : Found) (h : Hw) : Hw :=
  match locate id (keyOf addr) with
  | .hbm d o =>
    if !h.reachable id addr then h.missFault 1 addr
    else
      let h := (h.upset id (keyOf addr) e).stackReq id (keyOf addr) (inLine o len)
      match h.cellarRead (hint % 8) d o (inLine o len) with
      | (.ok b, h) => h.respond (.bytes b)
      | (.fault _, h) => h.respond .fault
      | (.bad cls x, h) =>
        let k := stackOf d o
        (h.unitBad cls (srcOf d (if cls = 6 then 6 else 7) (k % 2)) none x [] none).respond .error
  | _ => h.missFault 1 addr

/-- CELLAR_WRITE: a write of part of one line reaches its slice (R211). `thru` marks the update command's writes. -/
def cellarWriteCmd (id : Ident) (addr hint : Nat) (thru : Bool) (data : List Byte) (h : Hw) : Hw :=
  match locate id (keyOf addr) with
  | .hbm d o =>
    if !h.reachable id addr then h.missFault 2 addr
    else ((h.stackReq id (keyOf addr) (inLine o data.length)).cellarWrite (hint % 8) thru d o (data.take (inLine o data.length))).respond .done
  | _ => h.missFault 2 addr

/-! ## Flush and self-refresh (R214) -/

/-- Lines of a slice that are dirty. -/
def Slice.dirty (s : Slice) : List Nat := s.lines.filterMap (fun e => match e.2 with
  | some l => if l.dirty then some e.1 else none
  | none => none)

/-- Write dirty lines back to DRAM; they stay, clean. A dirty line with an uncorrectable error is lost (R215). -/
def Hw.writeBackLines (h : Hw) (k : Nat) (ls : List Nat) : Hw :=
  ls.foldl (fun h ln => match SMap.get none (h.slice k).lines ln with
    | some l =>
      if !l.dirty then h
      else if l.bad then h.cellarLost k ln
      else (h.toDram k ln l.data).setLine k ln (some { l with dirty := false })
    | none => h) h

/-- CELLAR_FLUSH: a write of 1 to CELLAR.CFG.FLUSH. -/
def cellarFlush (k : Nat) (h : Hw) : Hw :=
  if k < 16 ∧ h.dieUp (k / 2) then h.modSlice k (fun s => { s with flushing := s.dirty }) else h

/-- CELLAR_FLUSH_DONE: every line dirty at the flush has been written back. -/
def cellarFlushDone (k : Nat) (h : Hw) : Hw :=
  (h.writeBackLines k (h.slice k).flushing).modSlice k (fun s => { s with flushing := [] })

/-- The bytes of a stack. -/
def inStack (k a : Nat) : Bool :=
  let d := k / 2
  decide (dieLocalBase d ≤ a ∧ a < dieLocalBase d + hbmSize) && stackOf d (a - dieLocalBase d) == k

/-- Training or a march test overwrites a stack: its contents are lost (notes/assumptions/3). -/
def Hw.wipeStack (h : Hw) (k : Nat) : Hw :=
  h.modMem (fun m => ⟨m.cells.filter (fun e => !inStack k e.1), m.bad.filter (fun a => !inStack k a), m.soft.filter (fun a => !inStack k a)⟩)

/-- A stack is to enter self-refresh (1) or go offline (2) when its slice has been written back. -/
def Hw.enterStack (h : Hw) (k how : Nat) : Hw :=
  if (h.stack k).st = .online ∨ (how = 2 ∧ (h.stack k).st = .selfRefresh) then h.modStack k (fun s => { s with entering := how })
  else h

/-- STACK_SELF_REFRESH_ENTRY: the slice's dirty lines are accepted, and the stack enters self-refresh; in
power-fail retention the hold is timed from the last stack's entry (17 R406). -/
def stackSelfRefreshEntry (k : Nat) (h : Hw) : Hw :=
  let x := h.stack k
  if x.entering = 0 then h
  else
    let h := h.writeBackLines k (h.slice k).dirty
    let h := h.modSlice k (fun s => { s with flushing := [] })
    let h := h.modStack k (fun s => { s with st := if x.entering = 2 then .offline else .selfRefresh, entering := 0 })
    if h.power.action = 3 then { h with boot := { h.boot with holdAt := some h.localNs } } else h

/-- R214: an invalidated slice loses its lines. -/
def Hw.dropSlices (h : Hw) : Hw :=
  h.modMemS (fun m => { m with slices := m.slices.filterMap (fun e =>
    let s : Slice := { e.2 with lines := [], flushing := [] }
    if s = Slice.init then none else some (e.1, s)) })

/-! ## Scrubbing (R230 to R232, 18 R418) -/

/-- A scrub's uncorrectable error: its record, and a save image's model marked (R418). -/
def Hw.scrubBad (h : Hw) (cls src a : Nat) (detail : List (Nat × Nat × Nat)) : Hw :=
  match h.imageModel a with
  | some m => (h.send { mkErr h cls 4 src none (some a) detail with model := m, marks := [m] }).markModel m
  | none => h.err cls 0 src none (some a) detail

/-- Bursts of a full pass: a stack's, or a DDR5 channel's sixteenth in 64-byte bursts. -/
def scrubLen (id : Ident) (t : Nat) : Nat := if t < 16 then stackBytes / hbmBurst else ddrBytes id / 16 / 64

/-- The address of a burst of a target: stack t, or DDR5 channel t − 16 (R204, R229). -/
def scrubAddr (t p : Nat) : Nat :=
  if t < 16 then lineKey t (p / 2) + p % 2 * 32
  else
    let c := t - 16
    let m := p / 32
    ddrBase + m * 0x8000 + (c ^^^ (m % 16)) * 0x800 + p % 32 * 64

/-- PATROL_SCRUB_STEP: the patrol scrub reads the next burst of stack t or of DDR5 channel t − 16, where its die and stack let it; a
pass that starts takes up SCRUB.CFG. What the read meets (1 correctable, 2 uncorrectable) is counted, corrected or recorded; a burst
that takes an error after it (3, 4) keeps it for its next reader (notes/assumptions/81). -/
def patrolScrubStep (id : Ident) (t : Nat) (e : Found) (h : Hw) : Hw :=
  let cfg := if t < 16 then blkBase .scrub (t / 2) else blkBase .ddr 0
  let ecc := if t < 16 then blkBase .hbm t + 8 else blkBase .ddr 0 + 0x100 + 8 * (t - 16)
  let p := SMap.get 0 h.boot.scrub t
  if 32 ≤ t ∨ (t < 16 ∧ (!h.dieUp (t / 2) ∨ (h.stack t).st ≠ .online)) then h
  else
    let h := if p = 0 then h.applyShadow cfg (cfg + 8) else h
    if h.regF cfg 16 1 = 0 then h
    else
      let a := scrubAddr t p
      let h := ({ h with boot := { h.boot with scrub := SMap.set 0 h.boot.scrub t ((p + 1) % scrubLen id t) } }).modMem (fun m => m.hurt a e)
      let h :=
        if h.memS.mem.bad.contains a then
          (h.bump ecc 32 16 1).scrubBad (if t < 16 then 0x07 else 0x08)
            (if t < 16 then srcOf (t / 2) 8 (t % 2) else srcOf 8 8 (t - 16)) a [(40, 1, 1)]
        else if h.memS.mem.soft.contains a then
          let h := (h.bump ecc 0 32 1).modMem (fun m => { m with soft := m.soft.erase a })
          if t < 16 then h.count (t / 2) 1 242 1 else h
        else h
      h.modMem (fun m => m.hurt a (e - 2))

/-- A word of a core's stores takes an error. -/
def Core.hurt (x : Core) (w : Nat × Nat) (e : Found) : Core :=
  if e = 1 then { x with soft := w :: x.soft.erase w } else if e = 2 then { x with bad := w :: x.bad.erase w } else x

/-- SRAM_SCRUB_STEP: the SRAM scrub reads a word of a store (R232): kind 0 granary of tile `u` at byte `w`; 1 matrix core
(tile × 1024 + core), its store `w / 1024` and word `w % 1024` there; 2 cellar slice `u`, line `w`; 3 the column remap word of
stack `u` that serves the burst at address `w`; 4 the cache of caching agent `u`, the word at key `w` of a line it holds; 5 a buffer of
chute `u` that holds the sample of slot `w`; 6 a carter's buffers and queues for queue pair `u`; 7 slot `u` of the error ring, which
keeps its damage (ErrRing.scrub). `e` is as for the patrol scrub. -/
def sramScrubStep (id : Ident) (kind u w : Nat) (e : Found) (h : Hw) : Hw :=
  let src (d : Nat) : Nat := srcOf d 8 0xFFFFF
  if kind = 0 then
    if !h.present id u ∨ granSize ≤ w then h
    else
      let a := granBase u + w / 8 * 8
      let h := h.modMem (fun m => m.hurt a e)
      let h :=
        if h.memS.mem.bad.contains a then (h.bump (tileReg u 0xCC0) 32 16 1).scrubBad 0x05 (src (u / 10)) a [(40, 1, 0)]
        else if h.memS.mem.soft.contains a then h.granMend u (w / 8 * 8) 8
        else h
      h.modMem (fun m => m.hurt a (e - 2))
  else if kind = 1 then
    let g := u / 1024
    let c := u % 1024
    let b := (w / 1024, w % 1024)
    if !h.present id g ∨ storeWords b.1 ≤ b.2 then h
    else
      let h := h.modTile g (fun t => t.modCore c (fun x => x.hurt b e))
      let h :=
        if ((h.tile g).core c).bad.contains b then h.err 0x05 0 (src (g / 10)) none (some (coreAddr g)) [(40, 1, 1)]
        else if ((h.tile g).core c).soft.contains b then
          (h.modTile g (fun t => t.modCore c (fun x => { x with soft := x.soft.erase b }))).count (g / 10) 1 242 1
        else h
      h.modTile g (fun t => t.modCore c (fun x => x.hurt b (e - 2)))
  else if kind = 2 then
    if 16 ≤ u ∨ !h.dieUp (u / 2) then h
    else
      let mark (e : Nat) (h : Hw) : Hw := match SMap.get none (h.slice u).lines w with
        | some l => if e = 1 then h.setLine u w (some { l with soft := true })
          else if e = 2 then h.setLine u w (some { l with bad := true }) else h
        | none => h
      let h := mark e h
      mark (e - 2) (match SMap.get none (h.slice u).lines w with
        | none => h
        | some l =>
          if l.bad && l.dirty then (h.bump (blkBase .cellar u + 0x20) 32 16 1).scrubBad 0x06 (src (u / 2)) (lineKey u w) []
          else if l.bad then (h.setLine u w none).bump (blkBase .cellar u + 0x20) 0 32 1
          else h.cellarFix u w l)
  else if kind = 3 then
    let a := w / 32 * 32
    if 16 ≤ u ∨ (h.stack u).used 3 = 0 ∨ !inStack u a then h
    else
      let h := h.modMem (fun m => m.hurt a e)
      let h :=
        if h.memS.mem.bad.contains a then (h.bump (blkBase .hbm u + 8) 32 16 1).scrubBad 0x07 (src (u / 2)) a [(40, 1, 1)]
        else if h.memS.mem.soft.contains a then (h.hbmFixed u 1).modMem (fun m => { m with soft := m.soft.erase a })
        else h
      h.modMem (fun m => m.hurt a (e - 2))
  else if kind = 4 then
    if 0x61 < u ∨ ((h.rollLine w).state u).isNone then h
    else
      let a := w / 8 * 8
      let die := if u < 0x50 then u / 10 else 8
      let h := if e = 2 then h.cacheHurt u a else h
      let h :=
        if (h.cacheWord u a 8).isSome then h.scrubBad 0x05 (src die) a [(40, 1, cacheStore u)]
        else if e = 1 ∧ die < 8 then h.count die 1 242 1
        else h
      if e = 4 then h.cacheHurt u a else h
  else if kind = 5 then
    let x := h.chute u
    if !x.samples.any (fun m => m.slot == w && !m.done) then h
    else
      let h := if e = 2 then h.err 0x05 0 (src 8) none none [(40, 1, 5)] else h
      if e = 2 ∨ e = 4 then h.modChute u (fun x => { x with samples := x.samples.map (fun m => if m.slot = w then { m with bad := true } else m) }) else h
  else if kind = 6 then
    match h.qp u with
    | none => h
    | some q =>
      if q.st ≠ 1 then h
      else
        let h := if e = 2 then h.err 0x05 0 (src 8) none none [(40, 1, 6)] else h
        if e = 2 ∨ e = 4 then h.setQp u { q with bad := true } else h
  else h

end Sys2Proof.Machine
end

