-- ==== Sys2Proof/Machine/Observe.lean ====
section
/-!
DEFINITION. Observe.lean: the chronicle, the census, the tithe's control, energy latches and gauges (19 R427 to R444), and
the tile watchdog, which may take a census first (04 R111).
-/
namespace Sys2Proof.Machine

/-- A background command's work is done: BACKGROUND_COMMAND_DONE writes its reply (15 R352). -/
def Hw.cmdReady (h : Hw) (id status : Nat) (results : List Byte) : Hw :=
  { h with clerk := { h.clerk with bg := h.clerk.bg.map (fun c =>
      if c.id = id ∧ !c.ready then { c with ready := true, status := status, results := results } else c) } }

def hobsReg (off : Nat) : Nat := blkBase .hobs 0 + off

/-! ## The chronicle (R429 to R432) -/

def Chron.free (c : Chron) : Nat := 2 ^ c.log2n - sub32 c.write c.read

/-- Start: false where the ring is not configured (R429). -/
def Hw.chronStart (h : Hw) : Bool × Hw :=
  if h.chron.configured then (true, { h with chron := { h.chron with running := true } }) else (false, h)
def Hw.chronStop (h : Hw) : Hw := { h with chron := { h.chron with running := false } }

/-- A 32-byte chronicle entry (Table 19-3). -/
def ChronEv.bytes (e : ChronEv) : List Byte :=
  mkRec 32 ([(0, 8, e.ns), (8, 1, e.type), (9, 1, e.die % 16), (10, 2, e.unit), (12, 2, match e.ctx with
    | some c => c % 4096 + 0x8000
    | none => 0)] ++ e.data)

/-- Write one entry into the ring: WRITE advances once it is home. -/
def Hw.chronPut (id : Ident) (h : Hw) (b : List Byte) : Hw :=
  let c := h.chron
  let h := (h.ncWrite id hintClerk false (c.base + 32 * (c.write % 2 ^ c.log2n)) b).2
  { h with chron := { h.chron with write := add32 c.write 1 } }

/-- CHRONICLE_WRITE: the writer takes one loss marker or one buffered entry (R430, R431). -/
def chronicleWrite (id : Ident) (h : Hw) : Hw :=
  let c := h.chron
  let dies := List.range 9
  let room := decide (2 ≤ c.free)
  if !c.configured then h
  else match (if room then dies.find? (fun d => SMap.get 0 c.lost d != 0) else none) with
    | some d =>
      let b := mkRec 32 [(0, 8, h.bellNs), (8, 1, 0xFF), (9, 1, d), (16, 8, SMap.get 0 c.lost d), (24, 8, SMap.get 0 c.firstLost d)]
      ({ h with chron := { c with lost := SMap.set 0 c.lost d 0, firstLost := SMap.set 0 c.firstLost d 0 } }).chronPut id b
    | none => match (dies.map (fun i => (c.turn + 1 + i) % 9)).find? (fun d => SMap.get [] c.bufs d != []) with
      | none => h
      | some d => match SMap.get [] c.bufs d with
        | [] => h
        | e :: es =>
          let h := { h with chron := { c with bufs := SMap.set [] c.bufs d es, turn := d } }
          if room then h.chronPut id e.bytes
          else
            let n := SMap.get 0 c.lost d
            { h with chron := { h.chron with
                lost := SMap.set 0 c.lost d (n + 1)
                firstLost := if n = 0 then SMap.set 0 c.firstLost d e.ns else c.firstLost
                total := c.total + 1 } }

/-- CHRON_MARK: a hart's 64-bit write to OBS.CHRON_MARK (Table 19-14). -/
def chronMark (hart : Nat) (v : Word) (h : Hw) : Hw := h.event 0x11 8 0 none [(16, 8, v.toNat), (24, 8, hart)]

/-! ## Wait reasons (04 Table 04-14) -/

/-- The unit of a stream's head accepts it, its wait apart: the engine chooses only among heads whose wait is met (R85). -/
def Hw.unitFree (h : Hw) (g s : Nat) (c : QCmd) : Bool :=
  let t := h.tile g
  if c.op.isVec && !t.waitMet c then t.vec.isNone && t.upd.isNone else h.accepts g s c

/-- The array commands of a stream wait for the thermal hold to lift (R53, R108). -/
def Hw.heldArray (h : Hw) (g s : Nat) : Bool := h.held g && (h.tile g).arr.any (·.stream == s)

/-- WAIT and WTOKEN of a stream. DESIGN CHOICE (notes/assumptions/76): Table 04-14 gives no precedence; the control core's own wait
comes first, then the queue head's, then the hold, then TEND. The head's token is not a reason while its unit does not accept (R85). -/
def Hw.waitOf (h : Hw) (g s : Nat) : Nat × Nat :=
  let t := h.tile g
  let x := t.stream s
  let rest : Nat × Nat := if h.heldArray g s then (9, 0) else if x.tend then (6, 0) else (0, 0)
  if x.st ≠ .running then (0, 0)
  else if x.startReq then (5, 0)
  else match x.twait with
    | some (tok, _, _) => (2, tok)
    | none =>
      if x.full && x.queue.length == 32 then (1, 0)
      else if !(x.waitsOn x.stall).isEmpty then (7, 0)
      else match x.queue with
        | c :: _ =>
          if !h.unitFree g s c then (match c.op with
            | .talloc _ => (5, 0)
            | _ => (4, 0))
          else if !t.waitMet c then (3, syWTok c.sync)
          else rest
        | [] => rest

/-! ## The census (R433 to R436) -/

/-- Queues that are not free: those whose descriptor holds a STATE other than 0. -/
def Hw.queuesUsed (id : Ident) (h : Hw) : List Nat :=
  let of (a : Nat) : Option Nat := if clerkBase id ≤ a ∧ a - clerkBase id < 0x4000000 then some ((a - clerkBase id) / 64) else none
  let home := (h.memS.mem.cells.filter (fun c => (c.1 - clerkBase id) % 64 == 3)).filterMap (fun c => of c.1)
  let held := (h.memS.roll.filterMap (fun e => of (e.1 * 64))).filter (fun q => !home.contains q)
  (home ++ held).filter (fun q => (h.q id q).st != 0)

/-- Hops of R258, as 32-bit identities: kind at [27:24], inbound at [8]. Every physical tile of a die has a mesh router (11 R272);
homes are the stacks' on their dies and the DDR5 channels' on the hub (notes/assumptions/62). -/
def Hw.hops (id : Ident) (h : Hw) : List Nat :=
  let one (die kind idx : Nat) : List Nat := [die * 2 ^ 28 + kind * 2 ^ 24 + idx * 2 ^ 16, die * 2 ^ 28 + kind * 2 ^ 24 + idx * 2 ^ 16 + 256]
  ((List.range 80).filter (h.present id)).flatMap (fun g => one (g / 10) 0 (g % 10)) ++
    ((List.range 8).filter h.dieUp).flatMap (fun d => (List.range 11).flatMap (one d 1) ++ (List.range 4).flatMap (one d 2) ++
      one d 5 (2 * d) ++ one d 5 (2 * d + 1)) ++
    (List.range 8).flatMap (one 8 2) ++ (List.range 8).flatMap (one 8 3) ++ (List.range 16).flatMap (one 8 4) ++
    (List.range 16).flatMap (one 8 5) ++ (List.range 16).flatMap (one 8 6) ++ one 8 7 0

/-- The length a census needs now (R435). -/
def Hw.censusLen (id : Ident) (h : Hw) (nq : Nat) : Nat :=
  let n := ((List.range 80).filter (h.present id)).length
  256 + 3 * n * 32 + n * 132 + 24 * nq + 32 * (h.hops id).length + 32 * 16384

def Hw.setCensus (h : Hw) (c : Option Census) : Hw := { h with obs := { h.obs with census := c } }

/-- Begin a census into `dest`: what it samples, and so its length, is fixed now (R435). -/
def Hw.beginCensus (id : Ident) (h : Hw) (trigger dest tile strm : Nat) (entry cmd : Option Nat) : Hw :=
  h.setCensus (some { trigger := trigger, dest := dest, win := none, tile := tile, strm := strm, entry := entry, cmd := cmd
                      start := h.bellNs, queues := h.queuesUsed id, tiles := (List.range 80).filter (h.present id), hops := h.hops id })

/-- An automatic census into OBS.CENSUS_AREA (R433, R434): taken, or not. -/
def Hw.autoCensus (id : Ident) (h : Hw) (trigger tile strm : Nat) (entry : Option Nat) : Bool × Hw :=
  let a := h.reg (hobsReg 0x3000)
  let base := fld a 11 37 * 2048
  let len := fld a 48 16 * 65536
  let missed (h : Hw) : Hw := h.bump (hobsReg 0x3008) 0 16 1
  if len = 0 then (false, h)
  else if h.obs.census.isSome then (false, missed h)
  else if len < h.censusLen id (h.queuesUsed id).length then (false, (missed h).setRegF (hobsReg 0x3008) 62 1 1)
  else match h.ncRead id hintClerk (base + 6) 1 with
    | (.ok b, h) => if bitAt (leNat b) 0 then (false, missed h) else (true, h.beginCensus id trigger base tile strm entry none)
    | (_, h) => (false, missed h)

/-- Entries of the stream section for a tile. -/
def Hw.censusStreams (h : Hw) (g : Nat) : List Byte :=
  (List.range 3).flatMap (fun s =>
    let x := h.stream g s
    let (w, tok) := h.waitOf g s
    let st := match x.st with
      | .idle => 0
      | .running => 1
      | .stopping => 2
      | .faulted => 3
    mkRec 32 [(0, 1, g), (1, 1, s), (2, 1, st), (3, 1, w), (4, 1, tok), (5, 1, x.queue.length), (6, 1, x.cause),
      (7, 1, x.detail), (8, 8, x.pc), (16, 4, x.granted), (20, 4, x.request), (24, 4, (x.issued - x.retired) % 2 ^ 32),
      (28, 2, (h.res g).ctx)])

/-- The five sections, as (TYPE, entry size, bytes). The buffers and credits of a hop are open (notes/assumptions/62). -/
def Hw.censusSections (id : Ident) (h : Hw) (c : Census) : List (Nat × Nat × List Byte) × Hw :=
  let (hb, h) := c.hops.foldl (fun (a : List Byte × Hw) k =>
    let (v1, h) := a.2.draw
    let (v2, h) := h.draw
    let (v3, h) := h.draw
    (a.1 ++ mkRec 32 [(0, 4, k), (4, 8, v1.toNat), (12, 8, v2.toNat), (20, 8, v3.toNat)], h)) ([], h)
  let txn (waiting : Bool) (t : Txn) : List Byte :=
    mkRec 32 [(0, 1, sliceOf t.key), (1, 1, if !waiting then 0 else if t.roll then 2 else 1), (2, 1, t.agent), (3, 1, t.kind),
      (4, 4, t.len), (8, 8, t.key), (16, 4, (h.localNs - t.born) % 2 ^ 32), (20, 4, t.snoops.length)]
  ([(1, 32, c.tiles.flatMap h.censusStreams),
    (2, 132, c.tiles.flatMap (fun g => mkRec 132 ((0, 2, g) :: (List.range 64).map (fun i => (4 + 2 * i, 2, (h.tile g).token i))))),
    (3, 24, c.queues.flatMap (fun q =>
      let d := h.q id q
      let alarm := h.mill.chutes.any (fun e => e.2.on && e.2.alarm && bitAt (recN e.2.rcd 0 1) 1 && fld (recN e.2.rcd 48 4) 0 20 == q)
      mkRec 24 [(0, 4, q), (4, 1, d.kind), (5, 1, d.st), (6, 1, d.reason),
        (7, 1, (if SMap.get false h.bitmap q then 1 else 0) + (if alarm then 2 else 0)), (8, 4, d.head), (12, 4, d.tail),
        (16, 2, d.ctx)])),
    (4, 32, hb),
    (5, 32, h.memS.open_.flatMap (txn false) ++ h.memS.wait.flatMap (txn true))], h)

/-- Write the census: sections, then the header with VALID = 1 last (R433, R436). -/
def Hw.writeCensus (id : Ident) (h : Hw) (c : Census) : Nat × Hw :=
  let (ss, h) := h.censusSections id c
  let body := ss.flatMap (·.2.2)
  let offs := ss.foldl (fun (a : List Nat × Nat) s => (a.1 ++ [a.2], a.2 + s.2.2.length)) ([], 256)
  let len := 256 + body.length
  let dir := ((List.range 5).zip (ss.zip offs.1)).flatMap (fun e =>
    let o := 64 + 16 * e.1
    [(o, 1, e.2.1.1), (o + 4, 4, e.2.1.2.2.length / e.2.1.2.1), (o + 8, 4, e.2.2), (o + 12, 4, e.2.1.2.1)])
  let hdr := mkRec 256 ([(0, 4, 0x534E4543), (4, 1, 1), (5, 1, c.trigger), (6, 1, 1), (8, 8, c.start), (16, 8, h.bellNs),
    (24, 2, if c.trigger = 1 then c.tile else 0xFFFF), (26, 1, if c.trigger = 1 then c.strm else 0xFF), (27, 1, 5),
    (28, 4, len)] ++ dir)
  let h := (h.ncWrite id hintClerk false (c.dest + 256) body).2
  (len, (h.ncWrite id hintClerk false c.dest hdr).2)

/-- The first CENSUS_TAKE of those waiting that still stands and whose buffer holds the length needed now begins; the ones before it
that fail that check are answered, and cancelled ones passed over (R433, R435). -/
def Hw.nextOf (id : Ident) : List Nat → Hw → Hw
  | [], h => { h with obs := { h.obs with waits := [] } }
  | k :: ks, h => match h.clerk.bg.find? (fun b => b.id == k && !b.ready) with
    | none => Hw.nextOf id ks h
    | some b =>
      let need := h.censusLen id (h.queuesUsed id).length
      if recN b.results 8 8 < need then Hw.nextOf id ks (h.cmdReady k 0xC (mkRec 48 [(0, 8, need)]))
      else ({ h with obs := { h.obs with waits := ks } }).beginCensus id 0 (recN b.results 0 8) 0 0 none (some k)

def Hw.nextCensus (id : Ident) (h : Hw) : Hw := Hw.nextOf id h.obs.waits h

/-- CENSUS_COMPLETE: sampling ends and the header is written; the stream of a watchdog census faults, a bell entry's busy
condition ends, a command's reply is due, and a CENSUS_TAKE that waited begins. -/
def censusComplete (id : Ident) (h : Hw) : Hw :=
  match h.obs.census with
  | none => h
  | some c =>
    let (len, h) := h.writeCensus id c
    let h := h.setCensus none
    let h := if c.trigger = 1 ∧ (h.stream c.tile c.strm).st = .running then
        h.streamFault c.tile c.strm 0x09 0 (h.stream c.tile c.strm).pc else h
    let h := match c.cmd with
      | some k => h.cmdReady k 0 (mkRec 48 [(0, 4, len)])
      | none => h
    h.nextCensus id

/-! ## The tile watchdog (04 R111) -/

/-- WATCHDOG_EXPIRY: a running stream that has made no progress for LIMIT µs, thermal hold not counted, faults, after a
census when CENSUS is set. -/
def watchdogExpiry (id : Ident) (g s : Nat) (h : Hw) : Hw :=
  let x := h.stream g s
  let lim := h.regF (tileReg g 0x100) 0 16
  let own : Bool := match h.obs.census with
    | some c => c.trigger == 1 && c.tile == g && c.strm == s
    | none => false
  if !h.present id g ∨ x.st ≠ .running ∨ lim = 0 ∨ h.held g ∨ own ∨ h.localNs < x.progress + lim * 1000 then h
  else
    let fault (h : Hw) : Hw := h.streamFault g s 0x09 0 x.pc
    if h.regF (tileReg g 0x100) 16 1 = 1 then match h.autoCensus id 1 g s none with
      | (true, h) => h
      | (false, h) => fault h
    else fault h

/-! ## The tithe (R437, R441) -/

/-- A TITHE action on tiles `gs` for context c: the entry is busy while a watch it enabled has not written. -/
def Hw.titheAction (h : Hw) (c entry : Nat) (gs : List Nat) : Bool × Hw :=
  let hit (k : Nat) (t : Tithe) : Bool := gs.contains (k / 4) && t.ctx == c && t.once
  let any := h.tithe.any (fun e => hit e.1 e.2)
  (any, { h with tithe := h.tithe.map (fun e => if hit e.1 e.2 then (e.1, { e.2 with enable := true, bell := entry :: e.2.bell.erase entry }) else e) })

/-- A bell entry's tithe is still to be written. -/
def Hw.titheBusy (h : Hw) (entry : Nat) : Bool := h.tithe.any (fun e => e.2.enable && e.2.bell.contains entry)

/-- A teardown clears ENABLE on the context's watches (R437). -/
def Hw.clearTithe (h : Hw) (c : Nat) : Hw :=
  { h with tithe := h.tithe.filterMap (fun e =>
      let t := if e.2.ctx = c then { e.2 with enable := false, bell := [] } else e.2
      if t = Tithe.init then none else some (e.1, t)) }

/-! ## Energy latch (R428) -/

/-- LATCH_ENERGY: every energy accumulator in one bell nanosecond. -/
def Hw.latchEnergy (h : Hw) : Hw :=
  let p := h.power
  let dies := (List.range 8).flatMap (fun d =>
    (List.range 10).map (fun t => (16 * d + t, SMap.get 0 p.tileUj (10 * d + t))) ++
      [(16 * d + 10, SMap.get 0 p.uj d), (16 * d + 11, h.bellNs)])
  let lamps := (List.range 4).foldl (fun a i => a + SMap.get 0 p.hubUj (2 + i)) 0
  let hub := [(128, SMap.get 0 p.hubUj 0), (129, SMap.get 0 p.hubUj 1), (130, lamps), (131, SMap.get 0 p.hubUj 6), (132, h.bellNs)]
  { h with obs := { h.obs with elatch := (dies ++ hub).foldl (fun m e => SMap.set 0 m e.1 e.2) h.obs.elatch } }

/-! ## Gauges (R442) -/

def Gauge.source (g : Gauge) : Nat := recN g.cfg 0 1
def Gauge.log2 (g : Gauge) : Bool := bitAt (recN g.cfg 3 1) 0
def Gauge.base (g : Gauge) : Int := sgn 32 (recN g.cfg 4 4)
def Gauge.width (g : Gauge) : Nat := recN g.cfg 8 4

/-- The bin of a value. -/
def Gauge.bin (g : Gauge) (v : Int) : Nat :=
  if v < g.base then 0
  else if g.log2 then Nat.min 31 (Nat.log2 (v / g.base).toNat + 1)
  else Nat.min 31 ((v - g.base) / (Nat.max 1 g.width : Nat)).toNat

def Hw.gauge (h : Hw) (i : Nat) : Gauge := SMap.get Gauge.init h.obs.gauges i

/-- What gauge g samples: the filtered level its SOURCE and indices name where the state holds it, the value presented for the
latencies and the die rails (notes/assumptions/110). -/
def Hw.gaugeValue (h : Hw) (g : Gauge) (v : Int) : Int :=
  let filtered (i : Nat) : Int := match (SMap.get WIn.init h.power.ins i).y with
    | some y => y
    | none => 0
  match g.source with
  | 0x11 => filtered (recN g.cfg 1 1)
  | 0x12 => (h.stack (2 * recN g.cfg 1 1 + recN g.cfg 2 1)).temp
  | 0x13 => filtered 11
  | 0x14 => filtered 12
  | 0x15 => filtered 13
  | _ => v

/-- GAUGE_SAMPLE: gauge i's source is sampled, or presents v; every 2^RATE-th is taken. -/
def gaugeSample (i : Nat) (v : Int) (h : Hw) : Hw :=
  let g := h.gauge i
  let v := h.gaugeValue g v
  if 32 ≤ i ∨ !bitAt (recN g.cfg 13 1) 0 then h
  else
    let seen := g.seen + 1
    let put (g : Gauge) : Hw := { h with obs := { h.obs with gauges := SMap.set Gauge.init h.obs.gauges i g } }
    if seen % 2 ^ (recN g.cfg 12 1) ≠ 0 then put { g with seen := seen }
    else
      let b := g.bin v
      put { g with
        seen := seen
        min := some (match g.min with
          | some m => if v < m then v else m
          | none => v)
        max := some (match g.max with
          | some m => if m < v then v else m
          | none => v)
        n := Nat.min (g.n + 1) (2 ^ 64 - 1)
        bins := SMap.set 0 g.bins b (Nat.min (SMap.get 0 g.bins b + 1) (2 ^ 32 - 1)) }

end Sys2Proof.Machine
end

