-- ==== Sys2Proof/Machine/Bell.lean ====
section
/-!
DEFINITION. Bell.lean: bell time, its corrections, PTP, and the bell book (13 R309 to R325, R482).
-/
namespace Sys2Proof.Machine

def bellReg (off : Nat) : Nat := blkBase .bell 0 + off
/-- Registers of entry i. -/
def eDue (i : Nat) : Nat := bellReg (0x10000 + 32 * i)
def ePeriod (i : Nat) : Nat := bellReg (0x10008 + 32 * i)
def eCtrl (i : Nat) : Nat := bellReg (0x10010 + 32 * i)
def eArg (i : Nat) : Nat := bellReg (0x10018 + 32 * i)
def eStat (i : Nat) : Nat := bellReg (0x30000 + 8 * i)

def Hw.eArmed (h : Hw) (i : Nat) : Bool := h.regF (eCtrl i) 63 1 == 1
def Hw.eGlobal (h : Hw) (i : Nat) : Bool := h.regF (eCtrl i) 62 1 == 1
def Hw.eCtx (h : Hw) (i : Nat) : Nat := h.regF (eCtrl i) 44 12
def Hw.eAction (h : Hw) (i : Nat) : Nat := h.regF (eCtrl i) 32 8

def Hw.modBell (h : Hw) (f : Bell → Bell) : Hw := { h with bell := f h.bell }

/-- Armed entries, in index order. -/
def Hw.armed (h : Hw) : List Nat :=
  h.regs.filterMap (fun e =>
    let o := e.1 - bellReg 0x10000
    if bellReg 0x10000 ≤ e.1 ∧ o < 0x20000 ∧ o % 32 = 16 ∧ bitAt e.2.toNat 63 then some (o / 32) else none)

/-! ## Busy instances (R320, R321) -/

/-- Tiles a TITHE entry names; of a TITHE for every tile of its context, one that swaps is judged when the swap has ended. -/
def Hw.titheTiles (h : Hw) (i : Nat) : List Nat :=
  let t := h.regF (eArg i) 0 7
  if t = 0x7F then (List.range 80).filter (fun g => h.tileCtx g == some (h.eCtx i) && !h.swapping g) else [t]

/-- An instance of an entry's TITHE waits at a swapping tile. -/
def Hw.titheWaits (h : Hw) (i : Nat) : Bool := h.bell.waitT.contains i || h.bell.waitAll.any (·.1 == i)

/-- The busy condition of an entry's action holds on its target: a census, or a one-shot tithe on a tile, from whatever source
(notes/assumptions/109). -/
def Hw.eBusy (h : Hw) (i : Nat) : Bool :=
  match h.eAction i with
  | 5 => h.bell.opp.contains i
  | 8 => h.obs.census.isSome
  | 9 => h.titheWaits i || h.titheBusy i || h.tithe.any (fun e => e.2.enable && e.2.once && (h.titheTiles i).contains (e.1 / 4))
  | 0xC => decide (2 ≤ (h.grp (h.regF (eArg i) 0 6)).st)
  | _ => false

/-- An instance of the entry itself is busy (R325). -/
def Hw.eRunning (h : Hw) (i : Nat) : Bool :=
  h.bell.opp.contains i || h.titheWaits i || h.titheBusy i || (match h.obs.census with
    | some c => c.entry == some i
    | none => false) || h.bell.digs.any (fun e => e.1 == i && decide (2 ≤ (h.grp e.2).st))

/-- An entry's idle condition for its Idle-only fields. -/
def Hw.eIdle (h : Hw) (i : Nat) : Bool := !h.eArmed i && !h.eRunning i

def Hw.addLate (h : Hw) (i n : Nat) : Hw := h.bump (eStat i) 48 16 n

/-- An instance meets the chronicle (19 Table 19-5): bit 0 of `how` late, bit 1 coalesced. -/
def Hw.eEvent (h : Hw) (i how : Nat) : Hw :=
  h.event 0x0E 8 i (if h.eGlobal i then none else some (h.eCtx i)) [(16, 2, i), (18, 1, h.eAction i), (19, 1, how)]

/-- An instance is coalesced (R321); `late` says that it is counted in LATE already, as a late firing. -/
def Hw.coalesce (h : Hw) (i : Nat) (late : Bool) : Hw :=
  ((if late then h else h.addLate i 1).bump (eStat i) 32 16 1).eEvent i (if late then 3 else 2)

/-! ## Consuming instances (R316, R323) -/

/-- Instances of entry i that bell time has reached. -/
def Hw.missed (h : Hw) (i : Nat) : Nat :=
  let d := h.reg (eDue i)
  let p := h.reg (ePeriod i)
  let c := h.regF (eCtrl i) 0 32
  if h.bellNs < d then 0
  else if p = 0 then 1
  else
    let m := (h.bellNs - d) / p + 1
    if c = 0 then m else min m c

/-- Consume m instances: D moves on, COUNT falls, and the last clears ARMED. A one-shot entry's only instance is its last. -/
def Hw.consume (h : Hw) (i m : Nat) : Hw :=
  let p := h.reg (ePeriod i)
  let c := h.regF (eCtrl i) 0 32
  if p = 0 then (h.setRegF (eCtrl i) 0 32 (c - m)).setRegF (eCtrl i) 63 1 0
  else
    let h := h.setReg (eDue i) ((h.reg (eDue i) + m * p) % 2 ^ 64)
    if c = 0 then h
    else
      let h := h.setRegF (eCtrl i) 0 32 (c - m)
      if c ≤ m then h.setRegF (eCtrl i) 63 1 0 else h

/-- Order dues by due time, ties by index. -/
def insertDue (d : Due) : List Due → List Due
  | [] => [d]
  | e :: es => if d.at_ < e.at_ ∨ (d.at_ = e.at_ ∧ d.entry < e.entry) then d :: e :: es else e :: insertDue d es

/-- Entries whose D bell time has reached fall due: each instance consumes its COUNT; one that finds its entry busy is
coalesced (R316, R317, R321). -/
def Hw.collectDue (h : Hw) : Hw :=
  let (h, ds) := h.armed.foldl (fun (a : Hw × List Due) i =>
    let h := a.1
    let m := h.missed i
    if m = 0 then a
    else
      let d := h.reg (eDue i)
      let p := h.reg (ePeriod i)
      let busy := h.eBusy i
      let ds := (List.range m).map (fun k => (⟨i, d + k * p, false⟩ : Due))
      let h := h.consume i m
      if busy then ((List.range m).foldl (fun h _ => h.coalesce i false) h, a.2)
      else (h, ds.foldl (fun l d => insertDue d l) a.2)) (h, [])
  h.modBell (fun b => { b with due := b.due ++ ds })

/-- The late instances of one entry after a forward step (R323): they fire once, or are coalesced where the entry is busy (R321). -/
def Hw.fallLate (h : Hw) (i : Nat) : Hw × List Due :=
  let m := h.missed i
  if m = 0 then (h, [])
  else
    let last := h.reg (eDue i) + (m - 1) * h.reg (ePeriod i)
    let busy := h.eBusy i
    let h := (h.consume i m).addLate i m
    if busy then (h.coalesce i true, []) else (h, [⟨i, last, true⟩])

/-- A forward step has just passed every D at or before bell time. -/
def Hw.fallLates (h : Hw) (is : List Nat) : Hw :=
  let (h, ds) := is.foldl (fun (a : Hw × List Due) i =>
    let (h, l) := a.1.fallLate i
    (h, l.foldl (fun l d => insertDue d l) a.2)) (h, [])
  h.modBell (fun b => { b with due := b.due ++ ds })

/-- An armed entry is disarmed: instances fallen due and not issued do not issue. One whose last instance cleared ARMED by its
own consumption has nothing left to disarm, and that instance still issues (R482). -/
def Hw.disarm (h : Hw) (i : Nat) : Hw :=
  if h.eArmed i then (h.setRegF (eCtrl i) 63 1 0).modBell (fun b => { b with due := b.due.filter (·.entry != i) }) else h

/-- A teardown disarms every entry of a context (R318). -/
def Hw.disarmCtx (h : Hw) (c : Nat) : Hw :=
  (h.armed.filter (fun i => !h.eGlobal i && h.eCtx i == c)).foldl Hw.disarm h

/-- A fallow reset disarms the entries that act on what it discards (R318). -/
def Hw.disarmFallow (h : Hw) : Hw :=
  (h.armed.filter (fun i => [1, 2, 9, 0xC].contains (h.eAction i))).foldl Hw.disarm h

/-! ## Issue (R317, R320, R323) -/

/-- A refused instance: `n` refusals counted, one record naming the target. -/
def Hw.eRefuse (h : Hw) (i n target : Nat) : Hw :=
  if n = 0 then h
  else (h.bump (eStat i) 16 16 n).err 0x14 0 (srcOf 8 0x16 i) (if h.eGlobal i then none else some (h.eCtx i)) none
    [(40, 1, h.eAction i), (44, 4, target)]

/-- A TITHE instance takes its tithe, or is refused. -/
def Hw.titheNow (id : Ident) (h : Hw) (i : Nat) : Hw :=
  let c := h.eCtx i
  let gs := h.titheTiles i
  let bad := gs.filter (fun g => !h.present id g || h.tileCtx g != some c)
  if bad ≠ [] ∨ h.accelHeld then h.eRefuse i (max 1 bad.length) (bad.head?.getD (h.regF (eArg i) 0 7)) else (h.titheAction c i gs).2

/-- The tile an entry's TITHE names is swapping (16 R479). -/
def Hw.titheHeld (id : Ident) (h : Hw) (i : Nat) : Bool :=
  let g := h.regF (eArg i) 0 7
  g != 0x7F && h.present id g && h.swapping g && !h.accelHeld

/-- Perform an instance's action. An OPPOINT is busy until its grant (notes/assumptions/87); a TITHE addressed to a swapping tile
waits at the tile (16 R479). -/
def Hw.eAct (id : Ident) (h : Hw) (i : Nat) (late : Bool) : Hw :=
  let c := h.eCtx i
  let arg := h.reg (eArg i)
  match h.eAction i with
  | 1 =>
    let q := fld arg 0 20
    let d := h.q id q
    if d.st = 0 ∨ d.ctx ≠ c ∨ h.accelHeld then h.eRefuse i 1 q
    else
      let (v, h) := h.draw
      h.ring id q (fld v.toNat 0 32)
  | 2 =>
    let g0 := fld arg 0 7
    let g1 := fld arg 8 7
    let inst := h.bell.insts
    let h := h.modBell (fun b => { b with insts := b.insts + 1 })
    let (h, bad) := ((List.range 128).filter (fun g => decide (g0 ≤ g ∧ g ≤ g1))).foldl (fun (a : Hw × List Nat) g =>
      if h.accelHeld then (a.1, a.2 ++ [g])
      else match a.1.signalFor id (srcBell i) c g (fld arg 16 6) (max 1 (fld arg 24 8)) inst with
        | (true, h) => (h, a.2)
        | (false, h) => (h, a.2 ++ [g])) (h, [])
    (if bad = [] then h else h.told (srcBell i) inst).eRefuse i bad.length (bad.head?.getD 0)
  | 3 =>
    if h.accelHeld then h.eRefuse i 1 0
    else ((List.range 16).filter (bitAt arg)).foldl (fun h k =>
      (h.setReg (carterReg k 0x220) (h.reg (carterReg k 0x220) ||| (fld arg 17 7 * 2))).pump k) h
  | 4 =>
    if h.accelHeld then h.eRefuse i 1 0
    else ((List.range 16).filter (bitAt arg)).foldl (fun h k =>
      h.setReg (carterReg k 0x220) (h.reg (carterReg k 0x220) &&& (0xFF - fld arg 17 7 * 2))) h
  | 5 =>
    let set (x : Ctx) : Ctx := { x with prefs := SMap.set 1 x.prefs (fld arg 0 3) (fld arg 4 3) }
    if !h.eGlobal i && (h.ctx c).st == 0 then h.eRefuse i 1 c
    else
      let h := h.modBell (fun b => { b with opp := b.opp ++ [i] })
      if h.eGlobal i then { h with ctxs := h.ctxs.map (fun e => if e.2.st = 0 then e else (e.1, set e.2)) }
      else h.modCtx c set
  | 6 => match h.chronStart with
    | (true, h) => h
    | (false, h) => h.eRefuse i 1 0
  | 7 => h.chronStop
  | 8 => (h.autoCensus id 2 0 0 (some i)).2
  | 9 => if h.titheHeld id i then h.modBell (fun b => { b with waitT := b.waitT ++ [i] })
    else
      let swaps := (List.range 80).filter (fun g => fld arg 0 7 == 0x7F && h.present id g && h.swapping g && !h.accelHeld)
      (h.titheNow id i).modBell (fun b => { b with waitAll := b.waitAll ++ swaps.map (fun g => (i, g)) })
  | 0xA => h.latchEnergy
  | 0xB =>
    let hart := fld arg 16 6
    if h.hartOn hart then h.msi hart (fld arg 22 2) (fld arg 24 3) (fld arg 0 11) else h.eRefuse i 1 hart
  | 0xC =>
    let g := h.grp (fld arg 0 6)
    if g.st = 0 ∨ g.ctx ≠ c ∨ h.accelHeld then h.eRefuse i 1 (fld arg 0 6) 
    else (h.digestOpen id (fld arg 0 6) late).modBell (fun b => { b with digs := b.digs ++ [(i, fld arg 0 6)] })
  | _ => h

/-- An instance issues: coalesced where its target is busy, counted late beyond 512 ns. -/
def Hw.eIssue (id : Ident) (h : Hw) (d : Due) : Hw :=
  if h.eBusy d.entry then
    h.coalesce d.entry d.late
  else
    let late := d.late || decide (d.at_ + 512 < h.bellNs)
    let h := if late && !d.late then h.addLate d.entry 1 else h
    let h := h.eEvent d.entry (if late then 1 else 0)
    h.eAct id d.entry d.late

/-- Issue the first instance of a kind when it is entry i's; entry i's TITHE that waited for a swap goes first, once that has
ended. -/
def Hw.issueNext (id : Ident) (h : Hw) (i : Nat) (late : Bool) : Hw :=
  if h.bell.waitT.contains i && !h.titheHeld id i then
    (h.modBell (fun b => { b with waitT := b.waitT.filter (· != i) })).titheNow id i
  else match h.bell.waitAll.find? (fun e => e.1 == i && !(h.present id e.2 && h.swapping e.2)) with
  | some e =>
    let h := h.modBell (fun b => { b with waitAll := b.waitAll.erase e })
    if h.present id e.2 && h.tileCtx e.2 == some (h.eCtx i) && !h.accelHeld then (h.titheAction (h.eCtx i) i [e.2]).2 else h
  | none => match h.bell.due.find? (fun d => d.late == late) with
  | some d =>
    if d.entry = i then (h.modBell (fun b => { b with due := b.due.erase d })).eIssue id d else h
  | none => h

/-- BELL_ENTRY_ISSUE: the earliest due instance issues (R317). -/
def bellEntryIssue (id : Ident) (i : Nat) (h : Hw) : Hw := (h.collectDue).issueNext id i false

/-- LATE_FIRING: the first late instance issues (R323). -/
def lateFiring (id : Ident) (i : Nat) (h : Hw) : Hw := h.issueNext id i true

/-! ## Arming (R319, R325) -/

/-- ARG bits an action names, and its reserved values. -/
def argOk (action arg : Nat) : Bool :=
  let only (m : Nat) : Bool := arg &&& m == arg
  match action with
  | 1 => only 0xFFFFF
  | 2 => only 0xFF3F7F7F
  | 3 => only 0xFEFFFF
  | 4 => only 0xFEFFFF
  | 5 => only 0x77 && decide (fld arg 0 3 ≤ 4 ∧ fld arg 4 3 ≤ 4)
  | 9 => only 0x7F
  | 0xB => only 0x7FF07FF && fld arg 0 11 != 0 && fld arg 22 2 != 3 && !(fld arg 22 2 == 2 && fld arg 24 3 == 7)
  | 0xC => only 0x3F
  | _ => arg == 0

/-- The first failing check of R319, as the offset of the register that holds the field. -/
def Hw.armBad (h : Hw) (i : Nat) : Option Nat :=
  let a := h.eAction i
  let p := h.reg (ePeriod i)
  if a = 0 ∨ 0xC < a then some 0x10
  else if !argOk a (h.reg (eArg i)) then some 0x18
  else if h.eGlobal i ∧ [1, 2, 9, 0xC].contains a then some 0x10
  else if 1 ≤ p ∧ p ≤ 99 then some 0x08
  else if !h.eGlobal i ∧ (h.ctx (h.eCtx i)).st = 0 then some 0x10
  else none

/-- Arm an idle entry. -/
def Hw.arm (h : Hw) (i : Nat) : Hw :=
  match h.armBad i with
  | some o =>
    (h.modBell (fun b => { b with bad := SMap.set false b.bad i true })).err 0x13 0 (srcOf 8 0x16 i)
      (if h.eGlobal i then none else some (h.eCtx i)) none [(40, 1, o)]
  | none =>
    let h := (h.setRegF (eCtrl i) 63 1 1).modBell (fun b => { b with bad := SMap.set false b.bad i false })
    if h.reg (eDue i) ≤ h.bellNs then h.fallLates [i] else h

/-- A write to E_CTRL[i]: Idle-only fields first, then ARMED (R325). -/
def Hw.eCtrlWrite (h : Hw) (hart i : Nat) (v : Word) : Hw :=
  let w := v.toNat &&& 0x40FFF0FFFFFFFFFF
  let old := h.reg (eCtrl i)
  let rest := old % 2 ^ 63
  let h := if w = rest then h
    else if h.eIdle i then h.setReg (eCtrl i) w
    else h.busyWrite (eCtrl i) v.toNat old (srcHart hart)
  if bitAt v.toNat 63 then (if h.eArmed i then h else h.arm i) else (if bitAt old 63 then h.disarm i else h)

/-- BELL_ENTRY_ARM: hart `hart` writes E_CTRL[i] with ARMED = 1. -/
def bellEntryArm (hart i : Nat) (v : Word) (h : Hw) : Hw :=
  if i < 4096 ∧ bitAt v.toNat 63 then h.eCtrlWrite hart i v else h

/-! ## Bell time (R309, R312, R313) -/

/-- The count in 2^-16 ns. -/
def Hw.bell16 (h : Hw) : Int := h.bellNs * 65536 + h.bell.frac / 2 ^ 32

/-- Set the count. -/
def Hw.setBell (h : Hw) (ns frac : Nat) : Hw := ({ h with bellNs := ns % 2 ^ 64 }).modBell (fun b => { b with frac := frac })

/-- n ns pass at a tile under the thermal hold without running its watchdogs (04 R108, R111, 09 R220). -/
def Hw.holdProgress (h : Hw) (n : Nat) : Hw :=
  { h with tiles := h.tiles.map (fun e =>
      if h.held e.1 then (e.1, { e.2 with strm := e.2.strm.map (fun x =>
        if x.2.st = .running then (x.1, { x.2 with progress := x.2.progress + n }) else x) }) else e) }

/-- Time passes: n ns of the reference clock, with `s` of a slew absorbed (2^-16 ns). -/
def Hw.elapse (h : Hw) (n : Nat) (s : Int) : Hw :=
  let rate := sgn 32 (h.regF (bellReg 0x20) 0 32)
  let cur : Int := h.bellNs * 2 ^ 48 + h.bell.frac
  let new := (cur + n * 2 ^ 48 + n * rate * 2 ^ 16 + s * 2 ^ 32).toNat
  let h := ({ h with localNs := h.localNs + n }).setBell (new / 2 ^ 48) (new % 2 ^ 48)
  (((h.modBell (fun b => { b with slew := b.slew - s })).holdProgress n).holdTimers n).collectDue

/-- The slew one nanosecond absorbs: at most 6 × 2^-16 ns, within 100 ppm. -/
def slewStep (x : Int) : Int := if x < 0 then max x (-6) else min x 6

/-- Round 2^-16 ns to whole ns, halves away from zero. -/
def roundNs (x : Int) : Int := if x < 0 then -((-x + 32768) / 65536) else (x + 32768) / 65536

/-- A step of the count by `jump`, to ns and fraction (R312). -/
def Hw.stepTo (h : Hw) (ns frac : Nat) (lastStep : Int) : Hw :=
  let h := h.collectDue
  let fwd := decide (h.bellNs < ns ∨ (h.bellNs = ns ∧ h.bell.frac ≤ frac))
  let h := (h.setBell ns frac).bump (bellReg 0x40) 32 16 1
  let h := h.modBell (fun b => { b with lastStep := lastStep, lock := 0, good := 0, slew := 0 })
  if fwd then h.fallLates h.armed else h

/-- An offset correction x, in 2^-16 ns (R312, R313). -/
def Hw.correct (h : Hw) (x : Int) : Hw :=
  let cfg := h.reg (bellReg 0x18)
  let sum := h.bell.slew + x
  let small := decide (x.natAbs ≤ max 1 (fld cfg 32 10) * 65536)
  if sum.natAbs ≤ fld cfg 0 32 * 65536 then
    h.modBell (fun b =>
      let good := if small then b.good + 1 else 0
      { b with slew := sum, good := good, lock := if 4 ≤ good then 1 else if b.lock = 2 then 0 else b.lock })
  else
    let new := (h.bell16 + sum).toNat
    h.stepTo (new / 65536) (new % 65536 * 2 ^ 32 + h.bell.frac % 2 ^ 32) (roundNs sum)

/-- Software has written RATE or OFFSET: under SRC = PTP the source is present now (R313). -/
def Hw.steered (h : Hw) : Hw :=
  if h.regF (bellReg 0x18) 62 2 = 1 then h.modBell (fun b => { b with quietAt := h.localNs, seen := true }) else h

/-- BELL_OFFSET_WRITE. -/
def bellOffsetWrite (v : Word) (h : Hw) : Hw := if h.inReset then h else (h.correct (sgn 64 v.toNat)).steered

/-- BELL_STEP_TO: always a step, fraction zero, any slew discarded. -/
def bellStepTo (v : Word) (h : Hw) : Hw := if h.inReset then h else h.stepTo v.toNat 0 (roundNs (v.toNat * 65536 - h.bell16))

/-- SLEW_DONE: the reference clock runs until the slew is absorbed. -/
def slewDone (h : Hw) : Hw :=
  let x := h.bell.slew
  if x = 0 || h.inReset then h else h.elapse ((x.natAbs + 5) / 6) x

/-- PPS_PULSE: a rising edge of 1PPS under SRC = PPS (R311). What RATE hardware then sets is open. -/
def ppsPulse (h : Hw) : Hw :=
  if h.regF (bellReg 0x18) 62 2 ≠ 2 ∨ h.inReset then h
  else
    let next := h.reg (bellReg 0x38)
    let err : Int := next * 65536 - h.bell16
    let ns := roundNs err
    let sat := max (-2147483648) (min 2147483647 ns)
    let (r, h) := h.draw
    let h := (h.correct err).setRegF (bellReg 0x20) 0 32 (fld r.toNat 0 32)
    (h.setReg (bellReg 0x38) ((next + 1000000000) % 2 ^ 64)).modBell (fun b =>
      { b with lastErr := sat, quietAt := h.localNs, seen := true })

/-- HOLDOVER_ENTRY: the source of a locked module is quiet (R313); `lost` says that the 10 MHz input, until now present, is lost. -/
def holdoverEntry (lost : Bool) (h : Hw) : Hw :=
  let cfg := h.reg (bellReg 0x18)
  let src := fld cfg 62 2
  let quiet := if src = 1 then h.bell.seen && decide (h.bell.quietAt + fld cfg 42 16 * 1000000 ≤ h.localNs)
    else src == 2 && (lost || (h.bell.seen && decide (h.bell.quietAt + 2000000000 ≤ h.localNs)))
  if h.bell.lock = 1 && quiet && !h.inReset then h.modBell (fun b => { b with lock := 2 }) else h

/-! ## PTP rings (R314, R315) -/

def Hw.ptpBase (h : Hw) : Nat := h.regF (bellReg 0x48) 16 32 * 65536

/-- A write of a PTP ring by the carter of `port`: where it may not write, such as the clerk region (15 R366), an access fault with
its record and no write. -/
def Hw.ptpWrite (id : Ident) (h : Hw) (port a : Nat) (b : List Byte) : Hw :=
  match h.ncWrite id 0 false a b with
  | (none, h) => h
  | (some e, h) => h.err 0x02 0 (srcOf 8 0x13 port) none (some e) [(40, 1, 2)]

/-- PTP_RX: a PTP message arrives at a port's link. -/
def ptpRx (id : Ident) (port link : Nat) (m : PtpMsg) (h : Hw) : Hw :=
  let tail := h.regF (bellReg 0x50) 32 16
  if h.regF (bellReg 0x48) 63 1 = 0 ∨ h.inReset ∨ 16 ≤ port ∨ 8 ≤ link ∨ !h.linkUp (8 * port + link) then h
  else if h.blacklisted (h.partner port link (beNat m.ip6)) then h.violation port (h.partner port link (beNat m.ip6)) 5 0 0 0 none false
  else if 128 ≤ (h.bell.rxHead + 65536 - tail) % 65536 then h.bump (bellReg 0x40) 48 8 1
  else
    let hdr := mkRec 40 [(0, 8, if m.event then h.bellNs else 0), (8, 2, if m.event then h.bell.frac / 2 ^ 32 else 0),
      (10, 1, port + 16 * link), (11, 1, (if m.event then 1 else 0) + (if m.eth then 2 else 0)), (12, 2, min 216 m.msg.length)]
    let e := overlay hdr 16 (if m.eth then subB m.ip6 0 16 else []) ++ subB m.msg 0 216
    let h := h.ptpWrite id port (h.ptpBase + 256 * (h.bell.rxHead % 128)) e
    h.modBell (fun b => { b with rxHead := (b.rxHead + 1) % 65536 })

/-- PTP_TX: the next transmit entry up to TX_HEAD is sent, or written back rejected. -/
def ptpTx (id : Ident) (h : Hw) : Hw :=
  let i := h.bell.txTail
  let a := h.ptpBase + 0x8000 + 256 * (i % 128)
  if h.regF (bellReg 0x48) 63 1 = 0 ∨ h.inReset ∨ h.regF (bellReg 0x50) 16 16 = i then h
  else match h.ncRead id 0 a 256 with
    | (.ok e, h) =>
      let p := fld (recN e 10 1) 0 4
      let l := fld (recN e 10 1) 4 3
      let len := recN e 12 2
      let flags := recN e 11 1
      let next (h : Hw) : Hw := h.modBell (fun b => { b with txTail := (b.txTail + 1) % 65536 })
      if bitAt (recN e 10 1) 7 || flags / 8 != 0 || recN e 14 2 != 0 || recN e 38 2 != 0 || len == 0 || decide (216 < len) then
        next (h.ptpWrite id p (a + 11) (toLE 1 (flags / 2 % 2 * 2 + 4)))
      else if !h.linkUp (8 * p + l) then h
      else
        let msg := subB e 40 len
        let m : PtpMsg := { event := decide (fld (recN msg 0 1) 0 4 < 4), eth := h.portMode p == 1, ip6 := subB e 16 16, msg := msg }
        let h := { h with out := h.out ++ [Outp.ptp p l m (subB e 32 6)] }
        let h := h.ptpWrite id p a (toLE 8 h.bellNs ++ toLE 2 (h.bell.frac / 2 ^ 32))
        next (h.ptpWrite id p (a + 11) (toLE 1 (flags / 2 % 2 * 2 + 1)))
    | (.fault e, h) => h.err 0x02 0 (srcOf 8 0x13 0) none (some e) [(40, 1, 1)]
    | (.bad cls e, h) => h.unitBad cls (srcOf 8 0x13 0) none e [(40, 1, 0)] none

end Sys2Proof.Machine
end

