-- ==== Sys2Proof/Machine/Jpeg.lean ====
section
/-!
DEFINITION. Jpeg.lean: the sequential Huffman JPEG of ISO/IEC 10918-1 within 14 R328: segments, Huffman tables, entropy
decoding, dequantisation. The inverse transform is open within that standard's accuracy (Config.idct).
-/
namespace Sys2Proof.Machine

/-- Big-endian 16-bit number at an offset. -/
def be16 (b : List Byte) (o : Nat) : Nat := recN b o 1 * 256 + recN b (o + 1) 1

/-- Zig-zag order: the natural position of each coefficient. -/
def zigzag : List Nat := [0, 1, 8, 16, 9, 2, 3, 10, 17, 24, 32, 25, 18, 11, 4, 5, 12, 19, 26, 33, 40, 48, 41, 34, 27, 20, 13, 6, 7, 14, 21, 28] ++
  [35, 42, 49, 56, 57, 50, 43, 36, 29, 22, 15, 23, 30, 37, 44, 51, 58, 59, 52, 45, 38, 31, 39, 46, 53, 60, 61, 54, 47, 55, 62, 63]

/-- A Huffman table: (length, code, symbol). -/
abbrev Huff := List (Nat × Nat × Nat)

/-- A component: identifier, sampling factors, quantisation table; its DC and AC tables once the scan names them. -/
structure JComp where
  cid : Nat
  hs  : Nat
  vs  : Nat
  tq  : Nat
  td  : Nat
  ta  : Nat
  deriving DecidableEq, Repr

/-- What the headers gave, and which of checks 3, 7 and 8 of 14 Table 14-2 they fail. -/
structure JHead where
  sof   : Bool
  base  : Bool                -- SOF0
  w     : Nat
  h     : Nat
  ncomp : Nat
  comps : List JComp
  qts   : SMap (List Nat)
  hts   : SMap Huff           -- 4 × class + identifier
  ri    : Nat
  data  : List Byte           -- entropy-coded data, once SOS was read
  sos   : Bool
  uns   : Bool                -- check 3: outside R328
  short : Bool                -- check 7: the headers end before SOS
  synt  : Bool                -- check 8: a syntax violation
  deriving DecidableEq, Repr

def JHead.init : JHead :=
  { sof := false, base := false, w := 0, h := 0, ncomp := 0, comps := [], qts := [], hts := [], ri := 0, data := [],
    sos := false, uns := false, short := false, synt := false }

/-- The reject reason of the first of checks 3, 7 and 8 that the headers fail, or 0. -/
def JHead.bad (j : JHead) : Nat := if j.uns then 4 else if j.short then 2 else if j.synt then 3 else 0

/-- Quantisation tables of a DQT segment. -/
def readDqt : Nat → List Byte → JHead → JHead
  | 0, _, j => j
  | f + 1, b, j =>
    if b = [] then j
    else if b.length < 65 ∨ 4 ≤ recN b 0 1 then { j with synt := true }
    else readDqt f (b.drop 65) { j with qts := SMap.set [] j.qts (recN b 0 1) ((List.range 64).map (fun i => recN b (1 + i) 1)) }

/-- Codes of a table from the counts of each length and the symbols in order: none where the counts overflow a length. -/
def huffCodes (counts syms : List Nat) : Option Huff :=
  let r := (List.range 16).foldl (fun (a : Huff × Nat × Nat × Bool) l =>
    let (t, code, k, ok) := a
    let n := counts[l]?.getD 0
    let new := (List.range n).map (fun i => (l + 1, code + i, syms[k + i]?.getD 0))
    (t ++ new, (code + n) * 2, k + n, ok && decide (code + n ≤ 2 ^ (l + 1)))) ([], 0, 0, true)
  if r.2.2.2 then some r.1 else none

/-- Huffman tables of a DHT segment. -/
def JHead.dht (j : JHead) (at_ : Nat) (b : List Byte) (counts : List Nat) (n : Nat) : JHead :=
  ((huffCodes counts ((List.range n).map (fun i => recN b (17 + i) 1))).map
    (fun t => { j with hts := SMap.set [] j.hts at_ t })).getD { j with synt := true }

def readDht : Nat → List Byte → JHead → JHead
  | 0, _, j => j
  | f + 1, b, j =>
    if b = [] then j
    else
      let tc := recN b 0 1 / 16
      let th := recN b 0 1 % 16
      let counts := (List.range 16).map (fun i => recN b (1 + i) 1)
      let n := counts.foldl (· + ·) 0
      if b.length < 17 + n ∨ 2 ≤ tc ∨ 4 ≤ th ∨ 256 < n then { j with synt := true }
      else readDht f (b.drop (17 + n)) (j.dht (4 * tc + th) b counts n)

/-- Sampling factors of the three components that R328 takes. -/
def jpegShapes : List (List (Nat × Nat)) :=
  [[(1, 1), (1, 1), (1, 1)], [(2, 1), (1, 1), (1, 1)], [(2, 2), (1, 1), (1, 1)]]

/-- A SOF0 or SOF1 segment; a height of 0 is one that DNL would define. -/
def readSof (base : Bool) (b : List Byte) (j : JHead) : JHead :=
  let n := recN b 5 1
  if j.sof ∨ b.length < 6 then { j with synt := true }
  else
    let comps := (List.range n).map (fun i =>
      (⟨recN b (6 + 3 * i) 1, recN b (7 + 3 * i) 1 / 16, recN b (7 + 3 * i) 1 % 16, recN b (8 + 3 * i) 1, 0, 0⟩ : JComp))
    let whole := b.length == 6 + 3 * n
    let h := be16 b 1
    { j with
      sof := true, base := base, h := h, w := be16 b 3, ncomp := n, comps := comps
      uns := j.uns || recN b 0 1 != 8 || n != 3 || h == 0 ||
        (whole && !jpegShapes.contains (comps.map (fun c => (c.hs, c.vs))))
      synt := j.synt || !whole }

/-- The SOS segment: one interleaved scan of the three components. -/
def readSos (b rest : List Byte) (j : JHead) : JHead :=
  let j := { j with sos := true, data := rest }
  if !j.sof ∨ b = [] then { j with synt := true }
  else if recN b 0 1 ≠ 3 then { j with uns := true }
  else if b.length ≠ 10 ∨ recN b 7 1 ≠ 0 ∨ recN b 8 1 ≠ 63 ∨ recN b 9 1 ≠ 0 then { j with synt := true }
  else
    let cs := (List.range 3).zip j.comps |>.map (fun e =>
      ({ e.2 with td := recN b (2 + 2 * e.1) 1 / 16, ta := recN b (2 + 2 * e.1) 1 % 16 } : JComp))
    let ids := (List.range 3).zip j.comps |>.all (fun e => recN b (1 + 2 * e.1) 1 == e.2.cid)
    let have_ := cs.all (fun c => SMap.get [] j.qts c.tq != [] && decide (c.td < (if j.base then 2 else 4) ∧ c.ta < (if j.base then 2 else 4)) &&
      SMap.get [] j.hts c.td != [] && SMap.get [] j.hts (4 + c.ta) != [])
    { j with comps := cs, synt := j.synt || !ids || !have_ }

/-- The effect of one marker segment on the headers. A process other than SOF0 and SOF1 (arithmetic conditioning and the
hierarchical DHP and EXP among them) is outside R328. -/
def JHead.segment (j : JHead) (m : Nat) (seg rest : List Byte) : JHead :=
  if m = 0xC0 ∨ m = 0xC1 then readSof (m == 0xC0) seg j
  else if m = 0xC4 then readDht (seg.length + 1) seg j
  else if m = 0xDB then readDqt (seg.length + 1) seg j
  else if m = 0xDD then (if seg.length = 2 then { j with ri := be16 seg 0 } else { j with synt := true })
  else if m = 0xDA then readSos seg rest j
  else if m = 0xFE ∨ (0xE0 ≤ m ∧ m ≤ 0xEF) then j
  else if (0xC0 ≤ m ∧ m ≤ 0xCF ∧ m ≠ 0xC8) ∨ m = 0xDE ∨ m = 0xDF then { j with uns := true }
  else { j with synt := true }

/-- Segments up to the first SOS (R331): a fault of one is noted and the next are read, as long as their places are known. -/
def readSegs : Nat → List Byte → JHead → JHead
  | 0, _, j => { j with short := true }
  | f + 1, b, j =>
    if j.sos then j
    else match b with
      | [] => { j with short := true }
      | [_] => { j with short := true }
      | x :: y :: r =>
        let m := y.toNat
        if x ≠ 0xFF ∨ m < 0xC0 then { j with synt := true }
        else if m = 0xFF then readSegs f (y :: r) j
        else if m = 0xD9 then { j with short := true }
        else if 0xD0 ≤ m ∧ m ≤ 0xD8 then readSegs f r { j with synt := true }
        else
          let len := be16 r 0
          if r.length < 2 ∨ r.length < len then { j with short := true }
          else if len < 2 then { j with synt := true }
          else readSegs f (r.drop len) (j.segment m ((r.drop 2).take (len - 2)) (r.drop len))

/-- The headers of a JPEG. -/
def jpegHead (b : List Byte) : JHead :=
  if b.length < 2 then { JHead.init with short := true }
  else if be16 b 0 ≠ 0xFFD8 then { JHead.init with synt := true }
  else readSegs b.length (b.drop 2) JHead.init

/-! ## Entropy-coded data -/

/-- Cut the data at restart markers: byte-stuffing removed, each interval with what ended it (0 to 7 a restart marker, 8
the end of the data or EOI, 9 another marker). -/
def cutScan : List Byte → List Byte → List (List Byte × Nat) → List (List Byte × Nat)
  | [], acc, out => out ++ [(acc.reverse, 8)]
  | [x], acc, out => if x = 0xFF then out ++ [(acc.reverse, 8)] else out ++ [((x :: acc).reverse, 8)]
  | x :: y :: r, acc, out =>
    if x ≠ 0xFF then cutScan (y :: r) (x :: acc) out
    else if y = 0 then cutScan r (x :: acc) out
    else if y = 0xFF then cutScan (y :: r) acc out
    else if 0xD0 ≤ y.toNat ∧ y.toNat ≤ 0xD7 then cutScan r [] (out ++ [(acc.reverse, y.toNat - 0xD0)])
    else out ++ [(acc.reverse, if y = 0xD9 then 8 else 9)]

/-- Bits of bytes, most significant first. -/
def bitsOf (b : List Byte) : List Bool := b.flatMap (fun x => (List.range 8).map (fun i => bitAt x.toNat (7 - i)))

/-- What decoding met: a value, the end of the bits, or a violation. -/
inductive JRes (α : Type) where
  | ok (v : α)
  | ends
  | bad
  deriving DecidableEq, Repr

/-- One Huffman symbol. -/
def huffSym (t : Huff) : Nat → Nat → Nat → List Bool → JRes (Nat × List Bool)
  | 0, _, _, _ => .bad
  | _ + 1, _, _, [] => .ends
  | f + 1, len, code, b :: bs =>
    let code := 2 * code + (if b then 1 else 0)
    match t.find? (fun e => e.1 == len + 1 && e.2.1 == code) with
    | some e => .ok (e.2.2, bs)
    | none => huffSym t f (len + 1) code bs

/-- n bits, and their value extended by sign. -/
def recvExt (n : Nat) (bs : List Bool) : JRes (Int × List Bool) :=
  if bs.length < n then .ends
  else
    let v := (bs.take n).foldl (fun a b => 2 * a + (if b then 1 else 0)) 0
    .ok (if n = 0 then 0 else if v < 2 ^ (n - 1) then (v : Int) - (2 ^ n - 1 : Nat) else v, bs.drop n)

/-- AC coefficients from index k on. -/
def acCoefs (t : Huff) : Nat → Nat → SMap Int → List Bool → JRes (SMap Int × List Bool)
  | 0, _, c, bs => .ok (c, bs)
  | f + 1, k, c, bs =>
    if 63 < k then .ok (c, bs)
    else match huffSym t 16 0 0 bs with
      | .ends => .ends
      | .bad => .bad
      | .ok (rs, bs) =>
        let r := rs / 16
        let s := rs % 16
        if s = 0 then
          if r = 15 then (if 63 < k + 16 then .bad else acCoefs t f (k + 16) c bs)
          else if r = 0 then .ok (c, bs) else .bad
        else if 10 < s ∨ 63 < k + r then .bad
        else match recvExt s bs with
          | .ends => .ends
          | .bad => .bad
          | .ok (v, bs) => acCoefs t f (k + r + 1) (SMap.set 0 c (k + r) v) bs

/-- One block: its dequantised coefficients in natural order and the new DC predictor. -/
def blockCoefs (j : JHead) (c : JComp) (dc : Int) (bs : List Bool) : JRes (List Int × Int × List Bool) :=
  match huffSym (SMap.get [] j.hts c.td) 16 0 0 bs with
  | .ends => .ends
  | .bad => .bad
  | .ok (s, bs) =>
    if 11 < s then .bad
    else match recvExt s bs with
      | .ends => .ends
      | .bad => .bad
      | .ok (d, bs) => match acCoefs (SMap.get [] j.hts (4 + c.ta)) 64 1 [] bs with
        | .ends => .ends
        | .bad => .bad
        | .ok (m, bs) =>
          let q := SMap.get [] j.qts c.tq
          let zz (i : Nat) : Int := (if i = 0 then dc + d else SMap.get 0 m i) * (q[i]?.getD 0 : Nat)
          let nat := (List.range 64).map (fun p => match (List.range 64).find? (fun i => zigzag[i]? == some p) with
            | some i => zz i
            | none => 0)
          .ok (nat, dc + d, bs)

/-- Blocks of one MCU: (component, block) in scan order. -/
def mcuBlocks (j : JHead) : List (Nat × Nat × Nat) :=
  (List.range 3).flatMap (fun i => match j.comps[i]? with
    | some c => (List.range (c.hs * c.vs)).map (fun k => (i, k % c.hs, k / c.hs))
    | none => [])

/-- Decoded blocks: keyed component × 2^40 + block row × 2^20 + block column. -/
abbrev JBlocks := SMap (List Int)

def jbKey (c by_ bx : Nat) : Nat := c * 2 ^ 40 + by_ * 2 ^ 20 + bx

/-- The blocks of MCU number m. -/
def mcu (j : JHead) (mw m : Nat) : List (Nat × Nat × Nat) → List Int → JBlocks → List Bool → JRes (List Int × JBlocks × List Bool)
  | [], dcs, out, bs => .ok (dcs, out, bs)
  | (i, dx, dy) :: ks, dcs, out, bs => match j.comps[i]? with
    | none => .bad
    | some c => match blockCoefs j c (dcs[i]?.getD 0) bs with
      | .ends => .ends
      | .bad => .bad
      | .ok (v, dc, bs) =>
        mcu j mw m ks (dcs.set i dc) (SMap.set [] out (jbKey i (m / mw * c.vs + dy) (m % mw * c.hs + dx)) v) bs

/-- MCUs m to m + n − 1 of one interval, and the bits left over. -/
def mcus (j : JHead) (mw : Nat) : Nat → Nat → List Int → JBlocks → List Bool → JRes (JBlocks × List Bool)
  | 0, _, _, out, bs => .ok (out, bs)
  | n + 1, m, dcs, out, bs => match mcu j mw m (mcuBlocks j) dcs out bs with
    | .ends => .ends
    | .bad => .bad
    | .ok (dcs, out, bs) => mcus j mw n (m + 1) dcs out bs

/-- Intervals in order: `left` MCUs remain; `r` counts restart markers. Reasons 2 truncated and 3 corrupt (14 R332): before
a restart marker only the one-bits that fill the last byte may follow an interval's MCUs. -/
def intervals (j : JHead) (mw total : Nat) : List (List Byte × Nat) → Nat → Nat → JBlocks → Except Nat JBlocks
  | [], _, _, _ => .error 2
  | (b, e) :: is, done, r, out =>
    let n := if j.ri = 0 then total - done else min j.ri (total - done)
    match mcus j mw n done [0, 0, 0] out (bitsOf b) with
    | .bad => .error 3
    | .ends => if e = 8 then .error 2 else .error 3
    | .ok (out, rem) =>
      if total ≤ done + n then .ok out
      else if 8 ≤ rem.length ∨ !rem.all id then .error 3
      else if e = 8 then .error 2
      else if e = 9 ∨ e ≠ r % 8 then .error 3
      else intervals j mw total is (done + n) (r + 1) out

/-- Decode the scan: the blocks, or the reject reason. -/
def jpegBlocks (j : JHead) : Except Nat JBlocks :=
  match j.comps with
  | c :: _ =>
    let mw := (j.w + 8 * c.hs - 1) / (8 * c.hs)
    let mh := (j.h + 8 * c.vs - 1) / (8 * c.vs)
    intervals j mw (mw * mh) (cutScan j.data [] []) 0 0 []
  | [] => .error 3

/-- Component c's sample over luma position (x, y), replicated where it is subsampled. -/
def jpegSample (j : JHead) (bs : JBlocks) (c x y : Nat) : Nat :=
  let h0 := match j.comps.head? with
    | some k => k
    | none => ⟨0, 1, 1, 0, 0, 0⟩
  let sx := if c = 0 then x else x / h0.hs
  let sy := if c = 0 then y else y / h0.vs
  (Config.idct (SMap.get [] bs (jbKey c (sy / 8) (sx / 8))) (sy % 8 * 8 + sx % 8)).toNat

end Sys2Proof.Machine
end

