-- ==== Sys2Proof/Machine/Mill.lean ====
section
/-!
DEFINITION. Mill.lean: chutes, sample records, the picture path, batches and the hopper (14 R326 to R348).
-/
namespace Sys2Proof.Machine

def millReg (c off : Nat) : Nat := blkBase .mill 0 + 0x1000 + 0x40 * c + off

/-! ## The chute record (Table 14-5) -/

def Chute.f (x : Chute) (o n : Nat) : Nat := recN x.rcd o n
def Chute.ordered (x : Chute) : Bool := bitAt (x.f 0 1) 0
def Chute.stall (x : Chute) : Bool := bitAt (x.f 0 1) 1
def Chute.resize (x : Chute) : Nat := fld (x.f 1 1) 0 2
def Chute.levels (x : Chute) : Nat := fld (x.f 1 1) 2 3
def Chute.step3 (x : Chute) : Bool := bitAt (x.f 1 1) 5
def Chute.outFmt (x : Chute) : Nat := fld (x.f 2 1) 2 2
def Chute.band (x : Chute) : Bool := bitAt (x.f 2 1) 4
def Chute.patch (x : Chute) : Nat := fld (x.f 3 1) 0 5
def Chute.b (x : Chute) : Nat := x.f 8 2
def Chute.rejMax (x : Chute) : Nat := x.f 10 2
def Chute.nbatch (x : Chute) : Nat := x.f 12 2
def Chute.hwin (x : Chute) : Nat := fld (x.f 16 1) 0 6
def Chute.rwin (x : Chute) : Nat := fld (x.f 17 1) 0 6
def Chute.rsize (x : Chute) : Nat := x.f 18 1
def Chute.slotBytes (x : Chute) : Nat := x.f 20 4 * 2048
def Chute.hopOff (x : Chute) : Nat := x.f 24 6
def Chute.ringOff (x : Chute) : Nat := x.f 32 6
def Chute.lowMark (x : Chute) : Nat := x.f 44 2
def Chute.queue (x : Chute) : Nat := fld (x.f 48 4) 0 20
/-- Bytes of a manifest, and of a batch area (R338). -/
def Chute.manBytes (x : Chute) : Nat := (64 + 16 * x.b + 16 * x.rejMax + 2047) / 2048 * 2048
def Chute.areaBytes (x : Chute) : Nat := x.manBytes + x.b * x.slotBytes

/-- Every byte of [a, a + n) is HBM. -/
def inHbm (id : Ident) (a n : Nat) : Bool :=
  let one (a : Nat) : Bool := match locate id (keyOf a) with
    | .hbm _ _ => true
    | _ => false
  one a && one (a + n - 1)

/-- The first failing field of a chute record, as its offset (R326). -/
def Hw.chuteBad (id : Ident) (h : Hw) (ctx : Nat) (r : List Byte) : Option Nat :=
  let x : Chute := { Chute.init with rcd := r }
  let hw := h.win ctx x.hwin
  let rw := h.win ctx x.rwin
  let q := h.q id x.queue
  let lv := x.levels
  if recN r 0 1 / 4 ≠ 0 then some 0
  else if lv = 0 ∨ 6 < lv ∨ recN r 1 1 / 64 ≠ 0 then some 1
  else if x.outFmt = 3 ∨ recN r 2 1 / 32 ≠ 0 then some 2
  else if recN r 3 1 / 32 ≠ 0 ∨ (x.band ∧ (x.patch = 0 ∨ 16 < x.patch)) then some 3
  else if recN r 4 4 = 0 ∨ 2 ^ 28 < recN r 4 4 then some 4
  else if x.b = 0 ∨ 4096 < x.b then some 8
  else if 4096 < x.rejMax then some 10
  else if x.nbatch < 2 ∨ recN r 14 2 ≠ 0 then some 12
  else if recN r 16 1 / 64 ≠ 0 ∨ !h.ctxActive ctx ∨ !hw.valid ∨ !bitAt hw.rights rWrite ∨ hw.isDoorbell then some 16
  else if recN r 17 1 / 64 ≠ 0 ∨ !rw.valid ∨ !bitAt rw.rights rRead ∨ rw.isDoorbell then some 17
  else if x.rsize < 4 ∨ 20 < x.rsize then some 18
  else if recN r 19 1 ≠ 0 then some 19
  else if recN r 20 4 = 0 ∨ 1048576 < recN r 20 4 then some 20
  else if x.hopOff % 2048 ≠ 0 ∨ hw.len < x.hopOff + x.nbatch * x.areaBytes ∨
      !inHbm id (hw.base + x.hopOff) (x.nbatch * x.areaBytes) then some 24
  else if recN r 30 2 ≠ 0 then some 30
  else if x.ringOff % 64 ≠ 0 ∨ rw.len < x.ringOff + 64 * 2 ^ x.rsize ∨ !cacheable id (keyOf (rw.base + x.ringOff)) ∨
      !cacheable id (keyOf (rw.base + x.ringOff + 64 * 2 ^ x.rsize - 1)) then some 32
  else if recN r 38 2 ≠ 0 then some 38
  else if recN r 40 4 = 0 then some 40
  else if x.nbatch < x.lowMark then some 44
  else if recN r 46 2 ≠ 0 then some 46
  else if recN r 48 4 / 2 ^ 20 ≠ 0 ∨ q.st = 0 ∨ q.ctx ≠ ctx then some 48
  else if recN r 52 1 / 128 ≠ 0 then some 52
  else if recN r 53 1 / 128 ≠ 0 then some 53
  else if recN r 55 1 < recN r 54 1 then some 54
  else if 79 < recN r 55 1 then some 55
  else if recN r 56 2 / 2048 ≠ 0 then some 56
  else if recN r 58 1 / 64 ≠ 0 then some 58
  else if 2 < recN r 59 1 then some 59
  else if recN r 60 4 ≠ 0 then some 60
  else if recN r 88 40 ≠ 0 then some 88
  else none

/-! ## Memory of a chute (R330) -/

/-- A read for chute c at an offset of a window of its context: bytes; none with 0 where the range is not readable, with 1
for an uncorrectable error, contained as the context's (18 R415). -/
def Hw.chuteRead (id : Ident) (h : Hw) (c w off n : Nat) : Except Nat (List Byte) × Hw :=
  let ctx := (h.chute c).ctx
  match h.through ctx w rRead off n with
  | none => (.error 0, h)
  | some a => match h.ncRead id hintMill a n with
    | (.ok b, h) => (.ok b, h)
    | (.fault _, h) => (.error 0, h)
    | (.bad cls e, h) =>
      (.error 1, h.unitBad cls (srcOf 8 0x14 c) (some ctx) e [] none)

/-- A write for chute c into its hopper; one its window no longer takes is an access fault, and lost. -/
def Hw.chuteWrite (id : Ident) (h : Hw) (c off : Nat) (b : List Byte) : Hw :=
  let x := h.chute c
  let lost (a : Option Nat) (h : Hw) : Hw := h.err 0x02 1 (srcOf 8 0x14 c) (some x.ctx) a [(40, 1, 2)]
  match h.through x.ctx x.hwin rWrite (x.hopOff + off) b.length with
  | none => lost none h
  | some a => match h.ncWrite id hintMill false a b with
    | (none, h) => h
    | (some e, h) => lost (some e) h

/-- Offset in the hopper of the area being filled. -/
def Chute.area (x : Chute) : Nat := x.batch % x.nbatch * x.areaBytes

/-! ## Indices, alarm, drought -/

def Hw.ringTail (h : Hw) (c : Nat) : Nat := h.regF (millReg c 0x10) 32 32
def Hw.freed (h : Hw) (c : Nat) : Nat := h.regF (millReg c 0x18) 32 32
def Hw.posted (h : Hw) (c : Nat) : Nat := sub32 (h.ringTail c) (h.chute c).head
def Hw.ready (h : Hw) (c : Nat) : Nat := sub32 ((h.chute c).released % 2 ^ 32) (h.freed c)

/-- The drought timer runs, or stands where it stopped (R343). -/
def Hw.droughtSet (h : Hw) (c : Nat) : Hw :=
  let x := h.chute c
  let runs := x.on && x.inBatch && decide (x.fwd < x.b ∧ x.samples.all (·.done) ∧ h.posted c = 0)
  h.modChute c (fun x => match x.drought with
    | some t => if runs then x else { x with drought := none, dry := x.dry + (h.localNs - t) }
    | none => { x with drought := if runs then some h.localNs else none })

/-- The alarm test after READY changed from `old` (R345). -/
def Hw.alarmTest (h : Hw) (c old : Nat) : Hw :=
  let x := h.chute c
  let r := h.ready c
  if x.alarm then (if x.lowMark ≤ r then h.modChute c (fun x => { x with alarm := false }) else h)
  else if r < x.lowMark ∧ x.lowMark ≤ old then
    let h := (h.modChute c (fun x => { x with alarm := true })).bump (millReg c 0x20) 48 16 1
    let h := h.event 0x0B 8 c (some x.ctx) [(16, 4, r), (24, 8, x.released)]
    h.msi (x.f 58 1) (x.f 59 1) 0 (x.f 56 2)
  else h

/-- Signal a token on tiles G0 to G1: absent tiles are passed over, a refusal counts (R340). -/
def Hw.millTokens (id : Ident) (h : Hw) (c o : Nat) (present : Bool) : Hw :=
  let x := h.chute c
  let t := x.f o 1
  if !bitAt t 6 then h
  else ((List.range 80).filter (fun g => decide (x.f 54 1 ≤ g ∧ g ≤ x.f 55 1) && (!present || h.present id g))).foldl (fun h g =>
    match h.signalFor id (srcMill c) x.ctx g (fld t 0 6) 1 0 with
    | (true, h) => h
    | (false, h) => h.refusedFor (srcMill c) x.ctx g 0 0) h

/-! ## Enable and disable (R326, R347) -/

/-- A chute stops: samples in flight abandoned, the batch being filled unreleased. -/
def Hw.stopChute (h : Hw) (c reason : Nat) : Hw :=
  (h.modChute c (fun x => { x with
    on := false, alarm := false, reason := reason, inBatch := false, samples := [], kept := [], drought := none, dry := 0 })).setRegF
    (millReg c 0) 63 1 0

/-- CHUTE_ENABLE: hart `hart` writes CHUTE_CTRL[c] = v with ENABLE set. -/
def chuteEnable (id : Ident) (hart c : Nat) (v : Word) (h : Hw) : Hw :=
  let pa := millReg c 0
  let w := v.toNat &&& 0x8FFFFFFFFFFFFFFF
  if 16 ≤ c ∨ !bitAt w 63 ∨ h.accelHeld then h
  else if (h.chute c).on then (if w = h.reg pa then h else h.busyWrite pa v.toNat (h.reg pa) (srcHart hart))
  else
    let h := h.setReg pa w
    let ctx := fld w 48 12
    let fail (h : Hw) (o : Nat) : Hw :=
      ((h.setRegF pa 63 1 0).modChute c (fun x => { x with reason := 1 })).err 0x13 0 (srcOf 8 0x14 c) (some ctx) none [(40, 1, o)]
    let h := h.modChute c (fun x => { x with ctx := ctx })
    match h.chuteRead id c (fld w 0 6) (fld w 6 42 * 64) 128 with
      | (.error _, h) => fail h 0
      | (.ok r, h) => match h.chuteBad id ctx r with
        | some o => fail h o
        | none => ((h.modChute c (fun _ => { Chute.init with on := true, rcd := r, ctx := ctx })).setRegF (millReg c 0x10) 32 32 0).setRegF
            (millReg c 0x18) 32 32 0

/-- CHUTE_DISABLE: a write of ENABLE = 0; its Idle-only fields are refused while the chute runs. -/
def chuteDisable (hart c : Nat) (v : Word) (h : Hw) : Hw :=
  let pa := millReg c 0
  let w := v.toNat &&& 0x8FFFFFFFFFFFFFFF
  if 16 ≤ c ∨ bitAt w 63 ∨ h.accelHeld then h
  else if (h.chute c).on then
    let h := if w = h.reg pa % 2 ^ 63 then h else h.busyWrite pa v.toNat (h.reg pa) (srcHart hart)
    h.stopChute c 0
  else h.setReg pa w

/-! ## The ring and the hopper's indices (R327, R344) -/

/-- RING_TAIL_WRITE: TAIL := v. -/
def ringTailWrite (c v : Nat) (h : Hw) : Hw :=
  let x := h.chute c
  if 16 ≤ c ∨ h.accelHeld ∨ (x.on ∧ 2 ^ x.rsize < sub32 v x.head) then h
  else (h.setRegF (millReg c 0x10) 32 32 v).droughtSet c

/-- HOPPER_FREED_WRITE: FREED := v. -/
def hopperFreedWrite (c v : Nat) (h : Hw) : Hw :=
  let x := h.chute c
  if 16 ≤ c ∨ h.accelHeld ∨ 2 ^ 31 ≤ sub32 (x.released % 2 ^ 32) v then h
  else
    let old := h.ready c
    let h := h.setRegF (millReg c 0x18) 32 32 v
    if x.on then h.alarmTest c old else h

/-- BATCH_START: the next batch begins when its area is free (R338). -/
def batchStart (c : Nat) (h : Hw) : Hw :=
  let x := h.chute c
  if !x.on ∨ x.inBatch ∨ x.nbatch ≤ h.ready c then h
  else (h.modChute c (fun x => { x with
    inBatch := true, batch := x.released, taken := 0, fwd := 0, rejs := 0, rejLost := 0, rejAll := 0, firstSeq := none,
    lastSeq := 0, samples := [], kept := [], dry := 0 })).droughtSet c

/-! ## Sample records (Table 14-1) -/

def sTag (r : List Byte) : Nat := recN r 0 8
def sSeq (r : List Byte) : Nat := recN r 8 4
def sFmt (r : List Byte) : Nat := fld (recN r 12 1) 0 4
def sFlip (r : List Byte) : Bool := bitAt (recN r 12 1) 4
def sWin (r : List Byte) : Nat := fld (recN r 13 1) 0 6
def sOff (r : List Byte) : Nat := recN r 16 6
def sLen (r : List Byte) : Nat := recN r 24 4
def sRawW (r : List Byte) : Nat := recN r 28 2
def sRawH (r : List Byte) : Nat := recN r 30 2

/-- The crop rectangle in a picture of w × h: x, y, width, height. -/
def sCrop (r : List Byte) (w h : Nat) : Nat × Nat × Nat × Nat :=
  if recN r 36 2 = 0 ∨ recN r 38 2 = 0 then (0, 0, w, h) else (recN r 32 2, recN r 34 2, recN r 36 2, recN r 38 2)

/-- Chroma plane of a raw format: width and height. -/
def rawChroma (fmt w h : Nat) : Nat × Nat :=
  if fmt = 1 then ((w + 1) / 2, (h + 1) / 2) else if fmt = 2 then ((w + 1) / 2, h) else (w, h)

/-- Source bytes a raw picture needs (R329). -/
def rawBytes (fmt w h : Nat) : Nat :=
  if fmt = 4 then 3 * w * h else w * h + 2 * ((rawChroma fmt w h).1 * (rawChroma fmt w h).2)

/-- Check 1 of Table 14-2. -/
def sampleOk (x : Chute) (r : List Byte) : Bool :=
  fld (recN r 12 1) 5 3 == 0 && decide (sFmt r < 5) && recN r 13 1 / 64 == 0 && recN r 14 2 == 0 && recN r 22 2 == 0 &&
    sLen r != 0 && recN r 40 24 == 0 &&
    (!(recN r 36 2 == 0 || recN r 38 2 == 0) || (recN r 32 2 == 0 && recN r 34 2 == 0)) &&
    (!x.ordered || (match x.prevSeq with
      | some s => sSeq r == (s + 1) % 2 ^ 32
      | none => true))

/-! ## Levels (R334, R336, R337) -/

def half (d : Nat × Nat) : Nat × Nat := (d.1 / 2, d.2 / 2)
def third (d : Nat × Nat) : Nat × Nat := (2 * (d.1 / 3), 2 * (d.2 / 3))

/-- Dimensions of level i of a cropped picture of d. -/
def Chute.dims (x : Chute) (d : Nat × Nat) : Nat → Nat × Nat
  | 0 => match x.resize with
    | 1 => half d
    | 2 => third d
    | 3 => half (half d)
    | _ => d
  | i + 1 => if x.step3 then third (x.dims d i) else half (x.dims d i)

def Chute.elem (x : Chute) : Nat := if x.outFmt = 0 then 2 else 1
def Chute.ks (x : Chute) : Nat := if x.outFmt = 0 then 8 else 16
/-- Rows and columns of a band level, and its pitch. -/
def Chute.rows (x : Chute) (d : Nat × Nat) : Nat := d.1 / x.patch * (d.2 / x.patch)
def Chute.cols (x : Chute) : Nat := 3 * x.patch * x.patch
def Chute.pitch (x : Chute) : Nat :=
  let t := (x.cols + x.ks - 1) / x.ks
  if x.outFmt = 0 then (t + 1) / 2 * 2 else t

/-- Bytes of a level. -/
def Chute.levelBytes (x : Chute) (d : Nat × Nat) : Nat :=
  if x.band then (x.rows d + 15) / 16 * x.pitch * 256 else 3 * d.1 * d.2 * x.elem

/-- Offset of level i in the slot; of level LEVELS, the sample's extent. -/
def Chute.levelAt (x : Chute) (d : Nat × Nat) (i : Nat) : Nat :=
  (List.range i).foldl (fun a j => a + (x.levelBytes (x.dims d j) + 2047) / 2048 * 2048) 0

/-- Checks 3 to 8 of Table 14-2 for a picture whose header gave w × h (none where no header named them), `early` the reason
of checks 3, 7 or 8 that the header met: the first that fails, or 0. -/
def Chute.admits (x : Chute) (r : List Byte) (wh : Option (Nat × Nat)) (early : Nat) : Nat :=
  if early = 4 then 4
  else match wh with
    | none => early
    | some (w, h) =>
      let (cx, cy, cw, ch) := sCrop r w h
      let ds := (List.range x.levels).map (x.dims (cw, ch))
      if 16384 < w ∨ 16384 < h ∨ recN x.rcd 4 4 < w * h * 3 then 1
      else if w < cx + cw ∨ h < cy + ch ∨ ds.any (fun d => d.1 == 0 || d.2 == 0) ∨
          (x.band && ds.any (fun d => decide (d.1 / x.patch = 0 ∨ d.2 / x.patch = 0))) then 5
      else if x.slotBytes < x.levelAt (cw, ch) x.levels then 1
      else early

/-- Checks 3 to 8 for a JPEG whose headers are `j`. -/
def Chute.jpegWhy (x : Chute) (r : List Byte) (j : JHead) : Nat :=
  x.admits r (if j.sof then some (j.w, j.h) else none) j.bad

/-- The admission checks of R331: 0, or the reason. -/
def Hw.admission (id : Ident) (h : Hw) (c : Nat) (r : List Byte) : Nat × Hw :=
  let x := h.chute c
  if !sampleOk x r then (7, h)
  else if (h.through x.ctx (sWin r) rRead (sOff r) (sLen r)).isNone then (6, h)
  else if sFmt r = 0 then match h.chuteRead id c (sWin r) (sOff r) (sLen r) with
    | (.error e, h) => (if e = 0 then 6 else 8, h)
    | (.ok b, h) => (x.jpegWhy r (jpegHead b), h)
  else
    let w := sRawW r
    let d := sRawH r
    (x.admits r (some (w, d)) (if w = 0 ∨ d = 0 then 4 else if sLen r < rawBytes (sFmt r) w d then 2 else 0), h)

/-- A sample is rejected: its slot frees, its reject entry is written while one is left (R339, R340). -/
def Hw.rejectSample (id : Ident) (h : Hw) (c slot : Nat) (r : List Byte) (reason : Nat) : Hw :=
  let x := h.chute c
  let h := (h.bump (millReg c 0x20) 0 32 1).countHub 1 (336 + c) 1
  let h := if x.rejs < x.rejMax then
      h.chuteWrite id c (x.area + 64 + 16 * x.b + 16 * x.rejs) (mkRec 16 [(0, 8, sTag r), (8, 4, sSeq r), (12, 1, reason)])
    else h
  (h.modChute c (fun x => { x with
    samples := x.samples.filter (fun s => s.slot != slot), rejAll := x.rejAll + 1
    rejs := if x.rejs < x.rejMax then x.rejs + 1 else x.rejs
    rejLost := if x.rejs < x.rejMax then x.rejLost else x.rejLost + 1 })).droughtSet c

/-- The lowest free slot of the batch being filled. -/
def Chute.freeSlot (x : Chute) : Option Nat :=
  (List.range x.b).find? (fun s => !x.kept.contains s && !x.samples.any (fun m => m.slot == s))

/-- A chute could be handed an engine. -/
def Hw.millWants (h : Hw) (c : Nat) : Bool :=
  let x := h.chute c
  x.on && x.inBatch && x.freeSlot.isSome && h.posted c != 0

/-- SAMPLE_TAKE: an idle engine is handed to chute c when its turn has come: a record is read, takes the lowest free slot
and passes admission or is rejected (R331, R339, R346). -/
def sampleTake (id : Ident) (c : Nat) (h : Hw) : Hw :=
  let busy := h.mill.chutes.foldl (fun a e => a + e.2.samples.length) 0
  let next := ((List.range 16).map (fun i => (h.mill.turn + 1 + i) % 16)).find? h.millWants
  if 32 ≤ busy ∨ next ≠ some c then h
  else
    let x := h.chute c
    match x.freeSlot with
    | none => h
    | some slot =>
      let (res, h) := h.chuteRead id c x.rwin (x.ringOff + 64 * (x.head % 2 ^ x.rsize)) 64
      let r := match res with
        | .ok b => b
        | .error _ => List.replicate 64 0
      let (why, h) := match res with
        | .ok b => h.admission id c b
        | .error e => (if e = 0 then 7 else 8, h)
      let h := { h with mill := { h.mill with turn := c } }
      let h := h.modChute c (fun x => { x with
        head := add32 x.head 1, taken := x.taken + 1, prevSeq := some (sSeq r), lastSeq := sSeq r
        firstSeq := match x.firstSeq with
          | some s => some s
          | none => some (sSeq r)
        samples := x.samples ++ [⟨slot, x.taken, r, false, false⟩], drought := none, dry := 0 })
      if why = 0 then h else h.rejectSample id c slot r why

/-! ## The picture path (R333 to R335) -/

/-- Coefficients of Table 14-3 times 65,536: Y, R from Cr, G from Cb, G from Cr, B from Cb. -/
def colourK (matrix limited : Bool) : Int × Int × Int × Int × Int :=
  match matrix, limited with
  | false, false => (65536, 91881, -22553, -46802, 116130)
  | true, false => (65536, 103206, -12276, -30679, 121609)
  | false, true => (76309, 104597, -25675, -53279, 132201)
  | true, true => (76309, 117489, -13975, -34925, 138438)

def clampW (x : Int) : Nat := if x < 0 then 0 else if 65280 < x then 65280 else x.toNat

/-- Component ch of a YCbCr pixel as a working value. -/
def colour (matrix limited : Bool) (ch : Nat) (y cb cr : Nat) : Nat :=
  let (ky, rr, gb, gr, bb) := colourK matrix limited
  let yy : Int := if limited then (y : Int) - 16 else y
  let b : Int := (cb : Int) - 128
  let r : Int := (cr : Int) - 128
  let s := ky * yy + (if ch = 0 then rr * r else if ch = 1 then gb * b + gr * r else bb * b)
  clampW ((s + 128) / 256)

/-- A picture: width, height, and a component's working value at column x of row y. -/
structure Pic where
  w  : Nat
  h  : Nat
  at_ : Nat → Nat → Nat → Nat

/-- Reduction by 2:1. -/
def Pic.half (p : Pic) : Pic :=
  { w := p.w / 2, h := p.h / 2
    at_ := fun c x y =>
      (p.at_ c (2 * x) (2 * y) + p.at_ c (2 * x + 1) (2 * y) + p.at_ c (2 * x) (2 * y + 1) + p.at_ c (2 * x + 1) (2 * y + 1) + 2) / 4 }

/-- One output of a 3:2 reduction of a row of values. -/
def twoOfThree (f : Nat → Nat) (i : Nat) : Nat :=
  let g := i / 2 * 3
  if i % 2 = 0 then (2 * f g + f (g + 1) + 1) / 3 else (f (g + 1) + 2 * f (g + 2) + 1) / 3

/-- Reduction by 3:2, along rows and then along columns. -/
def Pic.third (p : Pic) : Pic :=
  { w := 2 * (p.w / 3), h := 2 * (p.h / 3)
    at_ := fun c x y => twoOfThree (fun y' => twoOfThree (fun x' => p.at_ c x' y') x) y }

/-- The decoded picture of a raw source after colour conversion. -/
def rawPic (x : Chute) (r : List Byte) (b : List Byte) : Pic :=
  let w := sRawW r
  let hh := sRawH r
  let m := bitAt (x.f 2 1) 0
  let l := bitAt (x.f 2 1) 1
  let byte (o : Nat) : Nat := (b[o]?.getD 0).toNat
  if sFmt r = 4 then ⟨w, hh, fun c px py => 256 * byte (3 * (py * w + px) + c)⟩
  else
    let (cw, ch) := rawChroma (sFmt r) w hh
    let chroma (k px py : Nat) : Nat :=
      byte (w * hh + k * (cw * ch) + (if sFmt r = 1 then py / 2 else py) * cw + (if sFmt r = 3 then px else px / 2))
    ⟨w, hh, fun c px py => colour m l c (byte (py * w + px)) (chroma 0 px py) (chroma 1 px py)⟩

/-- The decoded picture of a JPEG. -/
def jpegPic (x : Chute) (j : JHead) (bs : JBlocks) : Pic :=
  ⟨j.w, j.h, fun c px py =>
    colour (bitAt (x.f 2 1) 0) (bitAt (x.f 2 1) 1) c (jpegSample j bs 0 px py) (jpegSample j bs 1 px py) (jpegSample j bs 2 px py)⟩

/-- Crop, flip and resize: pyramid level 0. -/
def Pic.level0 (p : Pic) (x : Chute) (r : List Byte) : Pic :=
  let (cx, cy, cw, ch) := sCrop r p.w p.h
  let q : Pic := ⟨cw, ch, fun c px py => p.at_ c (cx + (if sFlip r then cw - 1 - px else px)) (cy + py)⟩
  match x.resize with
  | 1 => q.half
  | 2 => q.third
  | 3 => q.half.half
  | _ => q

/-- Level i. -/
def Pic.level (x : Chute) (p : Pic) : Nat → Pic
  | 0 => p
  | i + 1 => if x.step3 then (Pic.level x p i).third else (Pic.level x p i).half

/-- Normalisation and conversion of one element (R335). -/
def Chute.norm (x : Chute) (c w : Nat) : Nat :=
  let v := ((FVal.fin false w (-8)).mul (v32 (x.f (64 + 8 * c) 4))).add (v32 (x.f (68 + 8 * c) 4))
  (if x.outFmt = 0 then Fmt.bf16 else if x.outFmt = 1 then Fmt.e4m3 else Fmt.e5m2).encode .nearest 0 v

/-- A level as the bytes its layout gives (R336). -/
def Chute.layout (x : Chute) (p : Pic) : List Byte :=
  let e := x.elem
  if x.band then
    let pw := p.w / x.patch
    let rows := x.rows (p.w, p.h)
    (List.range ((rows + 15) / 16)).flatMap (fun band => (List.range x.pitch).flatMap (fun v => (List.range 16).flatMap (fun rr =>
      let r := 16 * band + rr
      (List.range x.ks).flatMap (fun kk =>
        let k := x.ks * v + kk
        toLE e (if r < rows ∧ k < x.cols then
            let dy := k / 3 / x.patch
            let dx := k / 3 % x.patch
            x.norm (k % 3) (p.at_ (k % 3) (x.patch * (r % pw) + dx) (x.patch * (r / pw) + dy))
          else 0)))))
  else (List.range 3).flatMap (fun c => (List.range p.h).flatMap (fun py => (List.range p.w).flatMap (fun px =>
    toLE e (x.norm c (p.at_ c px py)))))

/-- `n` free bytes. -/
def Hw.freeBytes (h : Hw) (n : Nat) : List Byte × Hw :=
  ((List.range n).map (fun i => BitVec.ofNat 8 (fld (Config.freeValue (h.free + i / 8)).toNat (8 * (i % 8)) 8)),
    { h with free := h.free + (n + 7) / 8 })

/-- Decode and output of a sample: its picture, or the reason it is rejected. Its source is read again here, and bytes that no
longer pass admission reject it, so that no byte outside its slot is written (R330). -/
def Hw.decodeSample (id : Ident) (h : Hw) (c : Nat) (r : List Byte) : Except Nat Pic × Hw :=
  let x := h.chute c
  match h.chuteRead id c (sWin r) (sOff r) (sLen r) with
  | (.error e, h) => (.error (if e = 0 then 6 else 8), h)
  | (.ok b, h) =>
    if sFmt r = 0 then
      let j := jpegHead b
      if x.jpegWhy r j ≠ 0 then (.error (x.jpegWhy r j), h)
      else match jpegBlocks j with
      | .error e => (.error e, h)
      | .ok bs => (.ok (jpegPic x j bs), h)
    else (.ok (rawPic x r b), h)

/-- SAMPLE_DONE: the sample in `slot` ends its decode: its levels are written, or it is rejected (R332); `bad` is an
uncorrectable word in the mill's own buffers. -/
def sampleDone (id : Ident) (c slot : Nat) (bad : Bool) (h : Hw) : Hw :=
  let x := h.chute c
  match x.samples.find? (fun s => s.slot == slot && !s.done) with
  | none => h
  | some s =>
    let bad := bad || s.bad
    let base := x.area + x.manBytes + slot * x.slotBytes
    let h := if bad then h.err 0x05 1 (srcOf 8 0x14 c) (some x.ctx) none [(40, 1, 5)] else h
    match (if bad then (.error 8, h) else h.decodeSample id c s.rcd) with
    | (.error e, h) =>
      let (b, h) := h.freeBytes x.slotBytes
      (h.chuteWrite id c base b).rejectSample id c slot s.rcd e
    | (.ok p, h) =>
      let l0 := p.level0 x s.rcd
      let crop := sCrop s.rcd p.w p.h
      let h := h.countHub 0 (176 + c) (p.w * p.h)
      let h := (List.range x.levels).foldl (fun h i =>
        h.chuteWrite id c (base + x.levelAt (crop.2.2.1, crop.2.2.2) i) (x.layout (Pic.level x l0 i))) h
      (h.modChute c (fun x => { x with
        samples := x.samples.map (fun m => if m.slot = slot then { m with done := true } else m) })).droughtSet c

/-- SAMPLE_FORWARD: a finished sample's position entry is written and SAMPLE_TOK signalled (R340, R341). -/
def sampleForward (id : Ident) (c slot : Nat) (h : Hw) : Hw :=
  let x := h.chute c
  match x.samples.find? (fun s => s.slot == slot && s.done) with
  | none => h
  | some s =>
    if x.ordered && x.samples.any (fun m => decide (m.order < s.order)) then h
    else
      let h := h.chuteWrite id c (x.area + 64 + 16 * x.fwd) (mkRec 16 [(0, 8, sTag s.rcd), (8, 4, sSeq s.rcd), (12, 2, slot), (14, 2, 1)])
      let h := h.modChute c (fun x => { x with
        fwd := x.fwd + 1, samples := x.samples.filter (fun m => m.slot != slot), kept := slot :: x.kept })
      (h.millTokens id c 52 true).droughtSet c

/-- The batch being filled is released (R342). -/
def Hw.releaseBatch (id : Ident) (h : Hw) (c : Nat) (short : Bool) : Hw :=
  let x := h.chute c
  let hdr := mkRec 64 [(0, 8, x.batch), (8, 2, x.fwd), (10, 2, x.rejs), (12, 4, x.rejLost),
    (16, 1, (if short then 1 else 0) + (if x.ordered then 2 else 0)), (20, 4, if x.ordered then x.rejAll else 0),
    (24, 4, x.firstSeq.getD 0), (28, 4, x.lastSeq), (32, 8, h.bellNs)]
  let h := h.chuteWrite id c x.area hdr
  let old := h.ready c
  let h := h.modChute c (fun x => { x with released := x.released + 1, inBatch := false, kept := [], drought := none })
  let h := h.event 0x0C 8 c (some x.ctx) [(16, 4, h.ready c), (24, 8, x.batch)]
  (h.millTokens id c 53 false).alarmTest c old

/-- BATCH_RELEASE: a complete batch is released. -/
def batchRelease (id : Ident) (c : Nat) (h : Hw) : Hw :=
  let x := h.chute c
  if x.on && x.inBatch && decide (x.fwd = x.b) then h.releaseBatch id c false else h

/-- DROUGHT_EXPIRY: at DROUGHT_US the batch is released short, if it holds a sample (R343); decoded samples not yet
forwarded come first, since the header follows every entry (R342). -/
def droughtExpiry (id : Ident) (c : Nat) (h : Hw) : Hw :=
  let x := h.chute c
  match x.drought with
  | none => h
  | some t =>
    if x.on && x.inBatch && decide (t + x.f 40 4 * 1000 ≤ h.localNs + x.dry ∧ x.fwd + x.rejAll ≠ 0 ∧ x.samples = []) then h.releaseBatch id c true else h

end Sys2Proof.Machine
end

