-- ==== Sys2Proof/Machine/Steward.lean ====
section
/-!
DEFINITION. Steward.lean: work, placement, state swaps and teardown (16 R374 to R389, 15 R369).
-/
namespace Sys2Proof.Machine

def Hw.swapOf (h : Hw) (g : Nat) : Option Swap := SMap.get none h.swaps g
def Hw.setSwap (h : Hw) (g : Nat) (s : Option Swap) : Hw := { h with swaps := SMap.set none h.swaps g s }

/-- An error of the steward's own reads for a context: contained as the context's (18 R415). -/
def Hw.stewBad (h : Hw) (c cls a : Nat) : Hw :=
  h.unitBad cls (srcOf 8 0x17 0) (some c) a [] none

/-- An access fault of a swap: the context faults with a record naming the image (R379). -/
def Hw.swapFault (h : Hw) (c kind a : Nat) : Hw :=
  (h.send (h.blame (some c) (mkErr h 0x02 0 (srcOf 8 0x17 0) (some c) (some a) [(40, 1, kind)]))).faultCtx c 0x02

/-! ## Images (R377, R379) -/

/-- Offset of an entry's image in its save window. -/
def Model.imageOff (m : Model) (e : Nat) : Nat := m.saveOff + e * m.stride * 2048

/-- Physical address of an entry's image while the save window is usable. -/
def Hw.imageAt (h : Hw) (m : Model) (e : Nat) : Option Nat :=
  match h.through m.ctx m.saveWin rRead (m.imageOff e) (m.stride * 2048) with
  | some a => if bitAt (h.win m.ctx m.saveWin).rights rWrite then some a else none
  | none => none

/-- An image header (Table 16-2). -/
def imageHeader (ctx model entry : Nat) (valid : Bool) (rows sheaves now : Nat) : List Byte :=
  mkRec 64 [(0, 4, 0x47414D49), (4, 1, 1), (5, 1, if valid then 1 else 0), (6, 2, ctx), (8, 4, model), (12, 1, entry),
    (16, 4, rows), (20, 4, sheaves), (24, 8, now)]

/-- The header that says an image holds nothing: as MODEL_REG writes it, at 0 (R377), and as a swap-out does, at its bell time (R379). -/
def emptyHeader (ctx model entry now : Nat) : List Byte := imageHeader ctx model entry false 0 0 now

def rtagAt (g i : Nat) : Nat := tileReg g (0xC00 + 8 * i)
def Hw.tags (h : Hw) (g : Nat) : List Nat := (List.range 16).map (fun i => h.reg (rtagAt g i))
def tagLen (t : Nat) : Nat := fld t 48 12
def tagBase (t : Nat) : Nat := fld t 36 12
def tagKind (t : Nat) : Nat := fld t 32 4
/-- A tag whose range can match (06 Table 06-4). -/
def tagRange (t : Nat) : Bool := decide (tagLen t ≠ 0 ∧ tagBase t + tagLen t ≤ 3072)

/-- Rows and tagged ranges a swap-out of tile g saves in `room` sheaves: rows, tags as saved, ranges, sheaves (R379). -/
def Hw.savePlan (h : Hw) (g room : Nat) : Nat × List Nat × List (Nat × Nat) × Nat :=
  let masks := (List.range 3).foldl (fun a s => a ||| (h.stream g s).granted) 0
  let (rows, n) := ((List.range 32).filter (bitAt masks)).foldl (fun (a : Nat × Nat) r =>
    if a.2 + 133 ≤ room then (a.1 + 2 ^ r, a.2 + 133) else a) (0, 2)
  let (ts, rs, n) := (h.tags g).foldl (fun (a : List Nat × List (Nat × Nat) × Nat) t =>
    let off := (a.1 ++ [t % 2 ^ 63], a.2)
    if !bitAt t 63 then (a.1 ++ [t], a.2)
    else if tagKind t = 0 ∨ tagKind t = 4 then (a.1 ++ [t], a.2)
    else if 1 ≤ tagKind t ∧ tagKind t ≤ 3 ∧ tagRange t ∧ a.2.2 + tagLen t ≤ room then
      (a.1 ++ [t], a.2.1 ++ [(tagBase t, tagLen t)], a.2.2 + tagLen t)
    else off) ([], [], n)
  (rows, ts, rs, n)

/-! ### The control block and the array rows -/

/-- Kinds and flags of a core's slots, as a number below 6^8. -/
def slotCode (c : Core) : Nat :=
  (List.range 8).foldl (fun a s =>
    let x := c.slot s
    a + ((match x.kind with
      | .none => 0
      | .float => 1
      | .int => 2) + (if x.sat then 3 else 0)) * 6 ^ s) 0

def codeKind (v s : Nat) : SlotKind := match v / 6 ^ s % 3 with
  | 1 => .float
  | 2 => .int
  | _ => .none
def codeSat (v s : Nat) : Bool := decide (3 ≤ v / 6 ^ s % 6)

def coresOf (rows : Nat) : List Nat :=
  ((List.range 32).filter (bitAt rows)).flatMap (fun r => (List.range 32).map (fun k => 32 * r + k))

/-- The control block behind its header: 4,032 bytes. -/
def Hw.controlBlock (h : Hw) (g rows : Nat) (tags : List Nat) : List Byte :=
  let t := h.tile g
  let xs := (List.range 3).flatMap (fun s => (List.range 31).flatMap (fun i => toLE 8 ((t.stream s).getX (i + 1)).toNat))
  let toks := (List.range 64).flatMap (fun i => toLE 2 (t.token i))
  let sts := (List.range 3).flatMap (fun s =>
    toLE 4 (t.stream s).granted ++ toLE 8 (t.stream s).step.toNat ++ toLE 4 (t.stream s).q)
  let code := (coresOf rows).foldl (fun a c => a + slotCode (t.core c) * 2 ^ (21 * c)) 0
  subB (xs ++ toks ++ sts ++ tags.flatMap (toLE 8) ++ toLE 8 (h.reg (tileReg g 0x600)) ++ toLE 2688 code) 0 4032

/-- One core's planes and slots: 8,512 bytes. -/
def Core.image (c : Core) : List Byte :=
  subB c.act.data 0 128 ++ subB c.act.scale 0 32 ++ subB c.load.data 0 128 ++ subB c.load.scale 0 32 ++
    (List.range 8).flatMap (fun s => (List.range 128).flatMap (fun e => toLE 8 (SMap.get 0 (c.slot s).ent e).toNat))

/-- A word of a trough entry, among a core's stores. -/
def isTrough (b : Nat × Nat) : Bool := decide (2 ≤ b.1 ∧ b.1 < 18)

/-- A restored core (R380): planes, slots with kinds and flags; its trough is invalid. -/
def Core.restore (c : Core) (b : List Byte) (code : Nat) : Core :=
  { c with
    act := ⟨subB b 0 128, subB b 128 32, none⟩, load := ⟨subB b 160 128, subB b 288 32, none⟩, loaded := false, valid := []
    bad := c.bad.filter isTrough, soft := c.soft.filter isTrough
    slots := (List.range 8).foldl (fun m s =>
      SMap.set Slot.init m s { kind := codeKind code s, sat := codeSat code s
                               ent := (List.range 128).foldl (fun m e => SMap.set 0 m e (BitVec.ofNat 64 (recN b (320 + 1024 * s + 8 * e) 8))) [] }) [] }

/-- A core a swap-in does not restore: its slots have kind none, its planes hold no block of a command, and both are zero under
R381. A slot's saturation flag stays as it is until software clears it (03 R68). -/
def Core.unsaved (c : Core) (zero : Bool) : Core :=
  let slot (s : Slot) : Slot := { kind := .none, ent := if zero then [] else s.ent, sat := s.sat }
  let c := { c with loaded := false, valid := [], slots := SMap.remap Slot.init (fun _ s => slot s) c.slots }
  if zero then { c with act := .empty, load := .empty, bad := c.bad.filter isTrough, soft := c.soft.filter isTrough }
  else { c with act := { c.act with id := none }, load := { c.load with id := none } }

/-- The first core of saved rows whose planes or slots hold an uncorrectable word (R382). -/
def Tile.badCore (t : Tile) (rows : Nat) : Option Nat :=
  (t.cores.find? (fun e => bitAt rows (e.1 / 32) && e.2.bad.any (fun b => !isTrough b))).map (·.1)

/-- Saved rows are read: the correctable errors of their planes and slots are corrected and counted (02 R55). -/
def Hw.fixCores (h : Hw) (g rows : Nat) : Hw :=
  let hit (e : Nat × Core) : Nat := if bitAt rows (e.1 / 32) then e.2.soft.countP (fun b => !isTrough b) else 0
  (h.corrected g (((h.tile g).cores.map hit).foldl (· + ·) 0)).modTile g (fun t => { t with
    cores := SMap.remap Core.init (fun k c => if bitAt rows (k / 32) then { c with soft := c.soft.filter isTrough } else c) t.cores })

/-! ## Swap-out -/

/-- A tile is left with no resident state. -/
def Hw.clearResid (h : Hw) (g : Nat) : Hw := h.modRes g (fun _ => Resid.init)

/-- The outgoing part of a swap ends, image complete or not: a swap that only saved is over (R385). -/
def Hw.outDone (h : Hw) (g : Nat) (s : Swap) : Hw :=
  if (h.workOf g).isNone then (h.setSwap g none).clearResid g else h.setSwap g (some { s with phase := 2, out := none })

/-- The work a swap brings in ends in an error of the swap (R387): its context has faulted, the tile holds nothing. -/
def Hw.dropSwapIn (h : Hw) (g : Nat) : Hw := ((h.endWork g 0x0B).setSwap g none).clearResid g

/-- A swap-out of context c stops: where the swap brings in work of the same context, that work ends with it. -/
def Hw.outFailed (h : Hw) (g c : Nat) (s : Swap) (held : Bool) : Hw :=
  match h.workOf g with
  | some w => if w.ctx = c then h.dropSwapIn g else h.setSwap g (some { s with phase := 2, out := none, held := if held then s.held else none })
  | none => (h.setSwap g none).clearResid g

/-- Begin a swap of tile g: the outgoing entry's header is written invalid; a save window that is unusable discards the
state and faults its context (R379). -/
def Hw.beginSwap (id : Ident) (h : Hw) (g inLen : Nat) (inc : Option (Nat × Nat × Nat)) : Hw :=
  let r := h.res g
  let h := h.modRes g (fun r => match inc with
    | some (c, m, e) => if r.st = 1 then { r with st := 2 } else ⟨2, c, m, e⟩
    | none => { r with st := 2 })
  let s : Swap := { out := none, tags := h.tags g, held := if r.st = 1 then some r.ctx else none, base := 0, room := 0, phase := 2
                    rows := 0, len := 0 }
  let m := h.modelOf r.model
  let who := match inc with
    | some w => w
    | none => (r.ctx, r.model, r.entry)
  let ev (h : Hw) (n : Nat) : Hw := (h.event 0x06 8 g (some who.1) [(16, 4, who.2.1), (20, 1, who.2.2), (24, 8, 2048 * (n + inLen))]).countTile
    g 0 19 (2048 * (n + inLen))
  match (if r.st = 1 then m else none) with
  | none => (ev h 0).outDone g s
  | some x => match h.imageAt x r.entry with
    | none => ((ev h 0).swapFault r.ctx 2 ((h.win r.ctx x.saveWin).base + x.imageOff r.entry)).outFailed g r.ctx s true
    | some a => match h.ncWrite id 0 false a (emptyHeader r.ctx r.model r.entry h.bellNs) with
      | (some e, h) => ((ev h 0).swapFault r.ctx 2 e).outFailed g r.ctx s true
      | (none, h) =>
        let p := h.savePlan g x.stride
        (ev h p.2.2.2).setSwap g (some { s with out := some (r.ctx, r.model, r.entry), base := a, room := x.stride, phase := 0 })

/-- Tagged ranges read from the granary: an uncorrectable word ends the swap-out. -/
def Hw.rangeBytes (h : Hw) (g : Nat) : List (Nat × Nat) → Except Nat (List Byte)
  | [] => .ok []
  | (b, n) :: rs => match h.granRead g (2048 * b) (2048 * n) with
    | .error e => .error e
    | .ok x => match h.rangeBytes g rs with
      | .error e => .error e
      | .ok y => .ok (x ++ y)

/-- The outgoing image is still writable (R376). -/
def Hw.outImage (h : Hw) (o : Nat × Nat × Nat) : Option Nat := match h.modelOf o.2.1 with
  | some x => if x.ctx = o.1 then h.imageAt x o.2.2 else none
  | none => none

/-- SWAP_OUT_BODY: control block, array rows and tagged ranges, the header still invalid (R379). -/
def swapOutBody (id : Ident) (g : Nat) (h : Hw) : Hw :=
  match h.swapOf g with
  | none => h
  | some s => match s.out with
    | none => h
    | some o =>
      if s.phase ≠ 0 then h
      else match h.outImage o with
        | none => (h.swapFault o.1 2 s.base).outFailed g o.1 s true
        | some a =>
          let (rows, tags, rs, n) := h.savePlan g s.room
          match (h.tile g).badCore rows with
          | some k => (h.send (h.blame (some o.1) (mkErr h 0x05 1 (srcOf (g / 10) 2 (g % 10 * 1024 + k)) (some o.1) (some (coreAddr g))
              [(40, 1, 1)]))).faultCtx o.1 0x05 |>.outFailed g o.1 s true
          | none => match h.rangeBytes g rs with
            | .error e =>
              let h := h.bump (tileReg g 0xCC0) 32 16 1
              (h.unitBad 0x05 (srcOf 8 0x17 0) (some o.1) e [(40, 1, 0)] none).outFailed g o.1 s true
            | .ok gb =>
              let h := (rs.foldl (fun h r => h.granFix g (2048 * r.1) (2048 * r.2)) h).fixCores g rows
              let body := h.controlBlock g rows tags ++ (coresOf rows).flatMap (fun c => ((h.tile g).core c).image) ++ gb
              match h.ncWrite id 0 false (a + 64) body with
              | (some e, h) => (h.swapFault o.1 2 e).outFailed g o.1 s true
              | (none, h) => h.setSwap g (some { s with phase := 1, rows := rows, len := n })

/-- SWAP_OUT_FINAL_HEADER: the body is home, and the header is written with VALID = 1 (R379). -/
def swapOutFinalHeader (id : Ident) (g : Nat) (h : Hw) : Hw :=
  match h.swapOf g with
  | none => h
  | some s => match s.out with
    | none => h
    | some o =>
      if s.phase ≠ 1 then h
      else match h.outImage o with
        | none => (h.swapFault o.1 2 s.base).outFailed g o.1 s true
        | some a => match h.ncWrite id 0 false a (imageHeader o.1 o.2.1 o.2.2 true s.rows s.len h.bellNs) with
          | (some e, h) => (h.swapFault o.1 2 e).outFailed g o.1 s true
          | (none, h) => h.outDone g s

/-! ## Swap-in (R380, R381) -/

/-- The streams of the work on a tile start (R369, R386); work that starts none has ended. -/
def Hw.startWork (h : Hw) (g : Nat) : Hw :=
  match h.workOf g with
  | none => h
  | some w =>
    let h := (h.setWork g (some { w with running := true })).modRes g (fun _ => ⟨3, w.ctx, w.model, w.entry⟩)
    let go (h : Hw) (s : Nat) : Hw :=
      let e := (w.entries[s]?.getD 0).toNat
      let m := w.masks[s]?.getD 0
      let h := (h.setRegF (tileReg g (0x40 + 8 * s)) 1 47 (e / 2)).setRegF (tileReg g (0xE0 + 8 * s)) 0 32 m
      if e = 0 then h
      else
        let h := h.modStream g s (fun x =>
          let x := ((List.range 8).foldl (fun x i => x.setX (11 + i) (w.tensors[i]?.getD 0)) (x.setX 10 w.scalar))
          x.setX 19 (BitVec.ofNat 64 (w.queue + w.idx * 2 ^ 32)))
        h.startStream g s e m
    let h := go (go (go h 0) 1) 2
    if w.entries.all (· == 0) then h.endWork g 0 else h

/-- What a valid image restores, read through the save window. -/
structure Image where
  rows  : Nat
  ctl   : List Byte
  cores : List Byte
  tags  : List Nat
  rs    : List (Nat × Nat × List Byte)
  deriving DecidableEq, Repr

/-- Ranges of an image, read in tag order from an offset in sheaves. -/
def readRanges (id : Ident) (a room : Nat) : List Nat → Nat → Hw → RdRes × List (Nat × Nat × List Byte) × Hw
  | [], _, h => (.ok [], [], h)
  | t :: ts, n, h =>
    if bitAt t 63 ∧ 1 ≤ tagKind t ∧ tagKind t ≤ 3 ∧ tagRange t ∧ n + tagLen t ≤ room then
      match h.ncRead id 0 (a + 2048 * n) (2048 * tagLen t) with
      | (.ok b, h) => match readRanges id a room ts (n + tagLen t) h with
        | (r, l, h) => (r, (tagBase t, tagLen t, b) :: l, h)
      | (r, h) => (r, [], h)
    else readRanges id a room ts n h

/-- Read an image at address a: none where its header is invalid. -/
def Hw.readImage (id : Ident) (h : Hw) (a room : Nat) : RdRes × Option Image × Hw :=
  match h.ncRead id 0 a 4096 with
  | (.ok b, h) =>
    if !bitAt (recN b 5 1) 0 then (.ok [], none, h)
    else
      let rows := recN b 16 4
      let n := coresOf rows |>.length
      let c := b.drop 64
      let tags := (List.range 16).map (fun i => recN c (920 + 8 * i) 8)
      match h.ncRead id 0 (a + 4096) (8512 * n) with
      | (.ok cb, h) => match readRanges id a room tags (2 + 133 * (n / 32)) h with
        | (r, rs, h) => (r, some ⟨rows, c, cb, tags, rs⟩, h)
      | (r, h) => (r, none, h)
  | (r, h) => (r, none, h)

/-- A tag as a swap-in restores it. -/
def tagIn (old : List Nat) (same : Bool) (rs : List (Nat × Nat × List Byte)) (t : Nat) : Nat :=
  let overN := rs.any (fun r => decide (r.1 < tagBase t + tagLen t ∧ tagBase t < r.1 + r.2.1))
  if !bitAt t 63 then t
  else if tagKind t = 0 ∨ tagKind t = 4 then (if same && old.contains t && !overN then t else t % 2 ^ 63)
  else t

/-- The bank grants of a write of the whole granary (R143): the zeroing of a swap-in for another context (R381). -/
def Hw.zeroGrants (h : Hw) (g : Nat) : Hw := h.granGrants g 0 granSize

/-- The tile after a swap-in: `img` is what its image restores, `same` says that the incoming context last held the tile. DESIGN
CHOICE (notes/assumptions/102): the zero writes of R381 clear no guarded tag of the outgoing set and count none in TAG_EVICT. -/
def Hw.applyImage (h : Hw) (g : Nat) (img : Option Image) (same : Bool) (old : List Nat) : Hw :=
  let rows := match img with
    | some i => i.rows
    | none => 0
  let ctl := match img with
    | some i => i.ctl
    | none => []
  let saved := coresOf rows
  let code (c : Nat) : Nat := recN ctl 1056 2688 / 2 ^ (21 * c) % 2 ^ 21
  let cb := match img with
    | some i => i.cores
    | none => []
  let h := h.modTile g (fun t =>
    let cores := t.cores.filterMap (fun e =>
      let c : Core := if bitAt rows (e.1 / 32) then e.2 else e.2.unsaved (!same)
      if c = Core.init then none else some (e.1, c))
    let t := { t with cores := cores, recKind := [], tok := [] }
    let t := ((List.range saved.length).zip saved).foldl (fun t e =>
      let b := subB cb (8512 * e.1) 8512
      let t := t.modCore e.2 (fun c => c.restore b (code e.2))
      { t with recKind := (List.range 8).foldl (fun m s => SMap.set .none m (8 * e.2 + s) (codeKind (code e.2) s)) t.recKind }) t
    let t := (List.range 3).foldl (fun t s => t.modStream s (fun x =>
      let x := (List.range 31).foldl (fun x i => x.setX (i + 1) (BitVec.ofNat 64 (recN ctl (248 * s + 8 * i) 8))) x
      { x with granted := recN ctl (872 + 16 * s) 4, request := 0, step := BitVec.ofNat 64 (recN ctl (876 + 16 * s) 8)
               q := recN ctl (884 + 16 * s) 4 })) t
    (List.range 64).foldl (fun t i => t.setToken i (recN ctl (744 + 2 * i) 2)) t)
  let h := h.setReg (tileReg g 0x600) (recN ctl 1048 8 % 8)
  let base := granBase g
  let rs := match img with
    | some i => i.rs
    | none => []
  let h := if same then h else (h.zeroGrants g).modMem (fun m =>
    { cells := m.cells.filter (fun e => !decide (base ≤ e.1 ∧ e.1 < base + granSize))
      bad := m.bad.filter (fun b => !decide (base ≤ b ∧ b < base + granSize))
      soft := m.soft.filter (fun b => !decide (base ≤ b ∧ b < base + granSize)) })
  let h := rs.foldl (fun h r => (h.granGrants g (2048 * r.1) r.2.2.length).modMem (fun m => (m.puts (base + 2048 * r.1) r.2.2).clean 8 (base + 2048 * r.1) r.2.2.length)) h
  let tags := match img with
    | some i => i.tags
    | none => List.replicate 16 0
  ((List.range 16).zip tags).foldl (fun h e => h.setReg (rtagAt g e.1) (tagIn old same rs e.2)) h

/-- SWAP_COMPLETE: the swap-in ends and the work's streams start (R380, R381, R386). -/
def swapComplete (id : Ident) (g : Nat) (h : Hw) : Hw :=
  match h.swapOf g, h.workOf g with
  | some s, some w =>
    if s.phase ≠ 2 then h
    else match h.modelOf w.model with
      | none => h.dropSwapIn g
      | some m => if m.unusable then ((h.endWork g 0x4D).setSwap g none).clearResid g
        else match h.imageAt m w.entry with
        | none => (h.swapFault w.ctx 1 ((h.win w.ctx m.saveWin).base + m.imageOff w.entry)).dropSwapIn g
        | some a => match h.readImage id a m.stride with
          | (.ok _, img, h) => ((h.applyImage g img (s.held == some w.ctx) s.tags).setSwap g none).startWork g
          | (.fault e, _, h) => (h.swapFault w.ctx 1 e).dropSwapIn g
          | (.bad cls e, _, h) => (h.stewBad w.ctx cls e).dropSwapIn g
  | _, _ => h

/-! ## Decisions (R383 to R386) -/

/-- The hopper alarm stalls a queue (14 R345). -/
def Hw.alarmStalls (h : Hw) (q : Nat) : Bool := h.mill.chutes.any (fun e => e.2.on && e.2.alarm && e.2.stall && e.2.queue == q)

/-- A tile is idle (R385). -/
def Hw.tileIdle (h : Hw) (g : Nat) : Bool :=
  (h.tile g).allIdle && (h.workOf g).isNone && (h.swapOf g).isNone

/-- Candidates with their HEAD descriptors, by deadline and queue identifier; a queue whose ring cannot be read breaks. -/
def Hw.candidates (id : Ident) (h : Hw) : List (Nat × List Byte) × Hw :=
  h.bitmap.foldl (fun (a : List (Nat × List Byte) × Hw) e =>
    let q := e.1
    let h := a.2
    let d := h.q id q
    if d.st ≠ 1 ∨ d.kind ≠ 0 ∨ d.depth = 0 ∨ (h.ctx d.ctx).st ≠ 1 ∨ h.stalled id q ∨ h.alarmStalls q then a
    else if !h.ringOk d then (a.1, h.breakQ id q 0x03)
    else match h.ncRead id hintClerk (h.slotAddr d d.head) 128 with
      | (.ok b, h) => (a.1 ++ [(q, b)], h)
      | (.fault _, h) => (a.1, h.breakQ id q 0x03)
      | (.bad cls x, h) => (a.1, h.stewBad d.ctx cls x)) ([], h)

/-- Order of R384: DEADLINE, 0 last; then queue. -/
def deadlineKey (b : List Byte) : Nat := if recN b 8 8 = 0 then 2 ^ 64 else recN b 8 8

def insertCand (c : Nat × List Byte) : List (Nat × List Byte) → List (Nat × List Byte)
  | [] => [c]
  | e :: es =>
    if deadlineKey c.2 < deadlineKey e.2 ∨ (deadlineKey c.2 = deadlineKey e.2 ∧ c.1 < e.1) then c :: e :: es
    else e :: insertCand c es

/-- The model a descriptor names, registered in context c. -/
def Hw.descModel (h : Hw) (c : Nat) (b : List Byte) : Option Model := match h.modelOf (recN b 0 4) with
  | some m => if m.ctx = c then some m else none
  | none => none

/-- The checks of R369 that fail with BAD_DESCRIPTOR. -/
def Hw.descBad (h : Hw) (c : Nat) (b : List Byte) : Bool :=
  recN b 6 1 / 2 != 0 || recN b 7 1 != 0 || recN b 96 32 != 0 ||
    (List.range 8).any (fun i => recN b (32 + 8 * i) 8 / 2 ^ 54 != 0) ||
    (match h.descModel c b with
    | none => true
    | some m => decide (m.entries ≤ recN b 4 2) || (h.imageAt m (recN b 4 2)).isNone ||
        !((h.win c m.tabWin).valid && !(h.win c m.tabWin).isDoorbell && decide (m.tabOff + 64 * m.entries ≤ (h.win c m.tabWin).len))) ||
    (List.range 8).any (fun i =>
      let t := recN b (32 + 8 * i) 8
      t != 0 && !(h.win c (fld t 48 6)).valid)

/-- Tiles where (context, model, entry) is resident, idle or not. -/
def Hw.residentAt (h : Hw) (k : Nat × Nat × Nat) : Option Nat :=
  (h.resid.find? (fun e => e.2.st == 1 && e.2.ctx == k.1 && e.2.model == k.2.1 && e.2.entry == k.2.2)).map (·.1)

/-- The entry runs, or its image is being written or read (R378). -/
def Hw.entryHeld (h : Hw) (k : Nat × Nat × Nat) : Bool :=
  h.work.any (fun e => match e.2 with
    | some w => w.ctx == k.1 && w.model == k.2.1 && w.entry == k.2.2
    | none => false) ||
  h.swaps.any (fun e => match e.2 with
    | some s => s.out == some k
    | none => false)

/-- Sheaves of the work's model on a tile of its context (rule 2 of R385). -/
def Hw.tagSheaves (h : Hw) (g c m : Nat) : Nat :=
  if h.tileCtx g == some c then
    (h.tags g).foldl (fun a t => if bitAt t 63 && fld t 0 32 == m && tagRange t && decide (tagKind t ≤ 4) then a + tagLen t else a) 0
  else 0

/-- Eligible tiles of a context (R385). -/
def Hw.eligible (id : Ident) (h : Hw) (c : Nat) : List Nat :=
  (List.range 80).filter (fun g => h.present id g && ((h.ctx c).hint == 0 || bitAt (h.ctx c).hint g))

/-- The tile chosen among idle ones by the rules of R385. -/
def Hw.chooseTile (h : Hw) (k : Nat × Nat × Nat) (gs : List Nat) : Option Nat :=
  match h.residentAt k with
  | some g => if gs.contains g then some g else none
  | none =>
    let best := gs.foldl (fun (a : Nat × Option Nat) g =>
      let n := h.tagSheaves g k.1 k.2.1
      if a.1 < n then (n, some g) else a) (0, none)
    match best.2 with
    | some g => some g
    | none => match gs.find? (fun g => (h.res g).st == 0) with
      | some g => some g
      | none => gs.head?

/-- The steward takes the head of a queue (R386, 15 R368). -/
def Hw.takeWork (id : Ident) (h : Hw) (q : Nat) : Hw :=
  let d := h.q id q
  let h := h.setQ id q { d with head := add32 d.head 1 }
  if d.depth = 1 then h.setBit q false else h

/-- The work of a descriptor at the head of queue q, and with its row of the entry table (15 R369, Table 16-1). -/
def workOfDesc (q : Nat) (d : QDesc) (b : List Byte) : Work :=
  { queue := q, idx := d.head, ctx := d.ctx, model := recN b 0 4, entry := recN b 4 2, signal := bitAt (recN b 6 1) 0
    deadline := recN b 8 8, wrid := BitVec.ofNat 64 (recN b 16 8), scalar := BitVec.ofNat 64 (recN b 24 8)
    tensors := (List.range 8).map (fun i => BitVec.ofNat 64 (recN b (32 + 8 * i) 8))
    entries := [], masks := [], running := false, energy := 0 }
def Work.withEntry (w : Work) (tab : List Byte) : Work :=
  { w with
    entries := (List.range 3).map (fun s => BitVec.ofNat 64 (recN tab (8 * s) 8))
    masks := (List.range 3).map (fun s => recN tab (24 + 4 * s) 4) }

/-- Work that was taken ends at once with a status, on no tile (19 Table 19-5 gives its event no other unit than the tile it was to run
on, `g`). -/
def Hw.workFails (h : Hw) (g : Nat) (w : Work) (st : Nat) : Hw :=
  ({ h with compl := h.compl ++ [w.completion st h.bellNs] }).event 0x07 8 g (some w.ctx)
    [(16, 4, w.model), (20, 1, w.entry), (21, 1, st), (24, 8, w.wrid.toNat)]

/-- Work on a tile begins: at once where its entry is resident, else with the swap that brings it in, for which the incoming header is
read first; an error there faults the incoming context (R382) before anything is swapped. -/
def Hw.beginWork (id : Ident) (h : Hw) (g : Nat) (m : Model) (w : Work) : Hw :=
  let h := h.setWork g (some w)
  if h.res g = ⟨1, w.ctx, w.model, w.entry⟩ then h.startWork g
  else match h.imageAt m w.entry with
    | none => h.beginSwap id g 0 (some (w.ctx, w.model, w.entry))
    | some a => match h.ncRead id 0 a 64 with
      | (.ok hb, h) => h.beginSwap id g (if bitAt (recN hb 5 1) 0 then recN hb 20 4 else 0) (some (w.ctx, w.model, w.entry))
      | (.fault x, h) => (h.swapFault w.ctx 1 x).endWork g 0x0B
      | (.bad cls x, h) => (h.stewBad w.ctx cls x).endWork g 0x0B

/-- The entry table's row of checked work is read, and the work begins on tile g. -/
def Hw.fetchEntry (id : Ident) (h : Hw) (g : Nat) (m : Model) (w : Work) : Hw :=
  match h.ncRead id hintClerk ((h.win m.ctx m.tabWin).base + m.tabOff + 64 * w.entry) 64 with
  | (.fault _, h) => h.workFails g w 0x41
  | (.bad cls x, h) => (h.stewBad w.ctx cls x).workFails g w 0x0B
  | (.ok tab, h) => h.beginWork id g m (w.withEntry tab)

/-- Place the work at the head of q on tile g: its checks, then its swap or its start. -/
def Hw.placeWork (id : Ident) (h : Hw) (q g : Nat) (b : List Byte) : Hw :=
  let d := h.q id q
  let w := workOfDesc q d b
  let bad := h.descBad d.ctx b
  match h.descModel d.ctx b with
  | none => (h.takeWork id q).workFails g w 0x41
  | some m =>
    let h := h.takeWork id q
    let h := { h with models := SMap.set none h.models w.model (some { m with invocs := m.invocs + 1 }) }
    if bad then h.workFails g w 0x41
    else if m.unusable then h.workFails g w 0x4D
    else h.fetchEntry id g m w

/-- Go through the candidates in order: the first that can start is placed; an entry resident outside its eligible tiles is
swapped out of its tile once that is idle (R385). -/
def decideOn (id : Ident) : List (Nat × List Byte) → Hw → Hw
  | [], h => h
  | (q, b) :: cs, h =>
    let c := (h.q id q).ctx
    let k := (c, recN b 0 4, recN b 4 2)
    let el := h.eligible id c
    let idle := el.filter h.tileIdle
    if h.entryHeld k ∨ !h.ctxActive c then decideOn id cs h
    else match h.residentAt k with
      | some g =>
        if el.contains g then (if h.tileIdle g then h.placeWork id q g b else decideOn id cs h)
        else decideOn id cs (if h.tileIdle g then h.beginSwap id g 0 none else h)
      | none => match h.chooseTile k idle with
        | some g => h.placeWork id q g b
        | none => decideOn id cs h

/-- STEWARD_DECISION. -/
def stewardDecision (id : Ident) (h : Hw) : Hw :=
  if h.accelHeld then h
  else
    let (cs, h) := h.candidates id
    decideOn id (cs.foldl (fun l c => insertCand c l) []) h

/-! ## Teardown (R388) -/

/-- Step 1: the context's own part of each running swap is abandoned; its work completes with FLUSHED. -/
def Hw.abandonSwap (h : Hw) (c g : Nat) : Hw :=
  match h.swapOf g with
  | none => h
  | some s =>
    let mineIn := match h.workOf g with
      | some w => w.ctx == c
      | none => false
    let mineOut := match s.out with
      | some o => o.1 == c
      | none => false
    let h := if mineIn then (h.endWork g 0x40).setWork g none else h
    let s := if mineOut then { s with out := none, phase := 2, held := none } else s
    if (h.workOf g).isNone ∧ s.out.isNone then (h.setSwap g none).clearResid g else h.setSwap g (some s)

/-- Step 2: a tile running the context's work is stopped and its state discarded. -/
def Hw.discardTile (h : Hw) (g : Nat) : Hw :=
  ((h.stopTile g).modTile g (fun t => ({ t with discard := true }).release)).clearResid g

def Hw.stopRunning (h : Hw) (c g : Nat) : Hw :=
  if h.tileCtx g == some c && !h.swapping g && (!(h.tile g).allIdle || (h.workOf g).isSome) then
    (h.endWork g 0x40).discardTile g
  else h

/-- Completions of the context's queues that have room are written before its queues break. -/
def Hw.writePending (id : Ident) (h : Hw) (c : Nat) : Hw :=
  h.compl.foldl (fun h e => if (h.q id e.prod).ctx = c then completionWrite id e.prod h else h) h

/-- A valid window is revoked: its generation increments once (R376). -/
def Hw.revokeWin (h : Hw) (c w : Nat) : Hw :=
  let x := h.win c w
  if x.valid then { h with wins := SMap.set Window.init h.wins (64 * c + w) { x with valid := false, gen := (x.gen + 1) % 65536 } } else h

/-- A background command's objects are torn down or reset under it: it completes with CANCELLED (15 R358). An export is under way until
its reply (07 R177). -/
def ClerkCmd.cancelled (b : ClerkCmd) : ClerkCmd :=
  if !b.ready || recN b.rcd 0 2 == 0x0901 then { b with ready := true, status := 0x0D, results := [], shard := none } else b
def Hw.cancelBg (h : Hw) (p : ClerkCmd → Bool) : Hw :=
  { h with clerk := { h.clerk with bg := h.clerk.bg.map (fun b => if p b then b.cancelled else b) } }

/-- Background commands on the windows of a context: WIN_REVOKE and CKPT_EXPORT. -/
def ClerkCmd.onCtx (b : ClerkCmd) (c : Nat) : Bool :=
  (recN b.rcd 0 2 == 0x0202 || recN b.rcd 0 2 == 0x0901) && recN b.rcd 20 2 % 4096 == c

/-- The teardown of context c, with its cause of 18 Table 18-3 (R388). -/
def Hw.teardownCtx (id : Ident) (h : Hw) (c cause : Nat) : Hw :=
  let seq := (h.ctx c).fseq
  let awaits := if (h.ctx c).fwait then some c else none
  let h := h.modCtx c (fun x => { x with st := 3, tdCause := none })
  let h := (List.range 80).foldl (fun h g => h.abandonSwap c g) h
  let h := (List.range 80).foldl (fun h g => h.stopRunning c g) h
  let h := h.writePending id c
  let h := (h.queuesUsed id).foldl (fun h q => if (h.q id q).ctx = c then h.breakQ id q 0x01 else h) h
  let h := (List.range 64).foldl (fun h w => h.revokeWin c w) h
  let h := (h.revokeCarts c none).revokeUpdates c none
  let h := (List.range 16).foldl (fun h k => if (h.chute k).on && (h.chute k).ctx == c then h.stopChute k 2 else h) h
  let h := ((h.closeAll id (h.qpsOf (some c)) 7).disableGroups c).disarmCtx c
  let h := (h.clearTithe c).cancelBg (·.onCtx c)
  let h := h.send { mkErr h 0x04 2 (srcOf 8 0x17 0) (some c) none [(40, 1, cause), (48, 8, seq)] with
    nested := false, awaits := awaits }
  h.modCtx c (fun x => { x with st := 2, fcls := if x.fcls = 0 then 0x04 else x.fcls })

/-- TEARDOWN: the steward tears down a context that has faulted (R387), once the record of the fault is in (18 R415). -/
def teardown (id : Ident) (c : Nat) (h : Hw) : Hw :=
  match (h.ctx c).tdCause with
  | some k => if (h.ctx c).fwait then h else h.teardownCtx id c k
  | none => h

/-- Tear down a context for a cause when it is active, or as its pending fault names it (R419). -/
def Hw.teardownNow (id : Ident) (h : Hw) (c cause : Nat) : Hw :=
  match (h.ctx c).tdCause with
  | some k => h.teardownCtx id c k
  | none => if (h.ctx c).st = 1 then h.teardownCtx id c cause else h

/-- Every context, for a lease lapse or a fallow reset. -/
def Hw.teardownAll (id : Ident) (h : Hw) (cause : Nat) : Hw :=
  h.ctxs.foldl (fun h e => h.teardownNow id e.1 cause) h

/-- Every resident state of a model is discarded without a swap-out (R389). -/
def Hw.dropModel (h : Hw) (m : Nat) : Hw :=
  h.resid.foldl (fun h e => if e.2.st = 1 ∧ e.2.model = m then h.clearResid e.1 else h) h

/-- Work of a model has been taken and has not ended, or a swap for one of its entries runs (R389). -/
def Hw.modelBusy (h : Hw) (m : Nat) : Bool :=
  h.work.any (fun e => match e.2 with
    | some w => w.model == m
    | none => false) ||
  h.swaps.any (fun e => match e.2 with
    | some s => (match s.out with
      | some o => o.2.1 == m
      | none => false)
    | none => false)

end Sys2Proof.Machine
end

