-- ==== Sys2Proof/Machine/Links.lean ====
section
/-!
DEFINITION. Links.lean: die link sites: flits, replay, retrains, calibration, and a die or a side link going out of service
(11 R262 to R270, 18 R420). Sites are keyed 4 d + p for site p of die d (0 hubward, 1 outward, 2 left, 3 right) and 32 + k for
hub site k.
-/
namespace Sys2Proof.Machine

def Hw.site (h : Hw) (s : Nat) : Site := SMap.get Site.init h.sites s
def Hw.modSite (h : Hw) (s : Nat) (f : Site → Site) : Hw := { h with sites := SMap.mod Site.init h.sites s f }

/-- The hub has met die d at training since the last power-on or module reset: it wrote the die's number and checked its
straps (R264). -/
def Hw.dieMet (h : Hw) (d : Nat) : Bool := (h.site (32 + d)).met

/-- Sites that carry traffic (Table 11-1). -/
def siteUsed (s : Nat) : Bool :=
  decide (32 ≤ s ∧ s < 40) || (decide (s < 32) && (s % 4 == 0 || (s % 4 == 2 && s / 4 % 4 != 0) || (s % 4 == 3 && s / 4 % 4 != 3)))

/-- The site at the other end (R263, R264). -/
def sitePeer (s : Nat) : Nat :=
  if 32 ≤ s then 4 * (s - 32) else if s % 4 = 0 then 32 + s / 4 else if s % 4 = 2 then s - 3 else s + 3

/-- LINK.ERR or HLINK.ERR of a site (Table 11-8): [23:0] CRC, [47:24] REPLAYS, [63:48] RETRAINS. -/
def siteErr (s : Nat) : Nat := if s < 32 then blkBase .link (s / 4) + 0x40 + 8 * (s % 4) else blkBase .hlink 0 + 0x100 * (s - 32) + 8
/-- LINK.CAL_CFG of a site's block (Table 11-9). -/
def siteCal (s : Nat) : Nat := if s < 32 then blkBase .link (s / 4) + 0x80 else blkBase .hlink 0 + 0x800

/-- Both ends of a link. -/
def Hw.bothEnds (h : Hw) (s : Nat) (f : Site → Site) : Hw := (h.modSite s f).modSite (sitePeer s) f

/-- A retrain attempt begins, at both ends. -/
def Hw.attempt (h : Hw) (s : Nat) : Hw := (h.bump (siteErr s) 48 16 1).bump (siteErr (sitePeer s)) 48 16 1

/-- A site starts a retrain and its far end joins (R267). -/
def Hw.retrain (h : Hw) (s : Nat) : Hw := (h.bothEnds s (fun x => { x with st := 3, naks := 0, crcAt := [] })).attempt s

/-- A sequence number at or after `lo` and before `hi`, of the 256 that a replay buffer can span (R266). -/
def seqIn (lo hi n : Nat) : Bool := decide ((n + 512 - lo % 512) % 512 < (hi + 512 - lo % 512) % 512)

/-- A flit is dropped: a NAK names the flit expected, and the sender replays from it (R266); four NAKs for one flit start a
retrain. -/
def Hw.nakFlit (h : Hw) (s : Nat) : Hw :=
  let x := h.site s
  let n := if x.naks ≠ 0 ∧ x.nakSeq = x.exp then x.naks + 1 else 1
  let p := sitePeer s
  let h := { h with out := h.out ++ [Outp.nak s x.exp, Outp.replay p x.exp] }
  let h := h.bump (siteErr p) 24 24 1
  let h := if p < 32 then h.count (p / 4) 1 247 1 else h
  let h := h.modSite s (fun x => { x with naks := n, nakSeq := x.exp })
  if 4 ≤ n then h.retrain s else h

/-- The far end sends a flit: a new one takes its next sequence number and joins its replay buffer, which holds at most 256; an
older one is a replay from that buffer. None where it can send no such flit. -/
def Site.sends (y : Site) (seq : Nat) : Option Site :=
  if seq = y.txSeq then
    if y.replay.length < 256 then some { y with txSeq := (seq + 1) % 512, replay := y.replay ++ [seq] } else none
  else if y.replay.contains seq then some y else none

/-- A flit accepted in sequence (R266): the next is expected; its acknowledgement frees the replay buffer up to the highest flit
that its sender has received in sequence (`ack` is the one after it), and its running credit totals are taken. -/
def Site.takes (x : Site) (ack : Nat) (credit : List Nat) : Site :=
  { x with exp := (x.exp + 1) % 512, naks := 0, credit := credit.take 4, replay := x.replay.filter (seqIn ack x.txSeq) }

/-- FLIT_RECEIVE: a flit with a sequence number, and its running credit totals, reaches the receiver of site s (R266, R267). -/
def flitReceive (s seq : Nat) (crcOk : Bool) (credit : List Nat) (h : Hw) : Hw :=
  let x := h.site s
  let p := sitePeer s
  if !siteUsed s ∨ x.st ≠ 2 then h
  else match (h.site p).sends (seq % 512) with
  | none => h
  | some y =>
    let h := h.modSite p (fun _ => y)
    let h := if p < 32 then h.count (p / 4) 0 254 1 else h
    let h := if 32 ≤ p then h.countHub 0 (160 + 2 * (p - 32)) 1 else if 32 ≤ s then h.countHub 0 (161 + 2 * (s - 32)) 1 else h
    if !crcOk then
      let now := h.localNs
      let at_ := (x.crcAt.filter (fun t => decide (now < t + 1000))) ++ [now]
      let h := (h.bump (siteErr s) 0 24 1).modSite s (fun x => { x with crcAt := at_ })
      let h := h.nakFlit s
      if 16 ≤ at_.length ∧ (h.site s).st = 2 then h.retrain s else h
    else if seq % 512 ≠ x.exp then h.nakFlit s
    else h.modSite s (fun x => x.takes y.exp credit)

/-! ## Out of service (R268, 18 R420) -/

/-- A key address is homed on die d. -/
def onDie (d key : Nat) : Bool := decide (dieLocalBase d ≤ key ∧ key < dieLocalBase d + hbmSize)

/-- A valid window covers HBM or granaries of die d; the alias covers every die. -/
def Window.onDie (w : Window) (d : Nat) : Bool :=
  let meets (lo n : Nat) : Bool := decide (lo < w.base + w.len ∧ w.base < lo + n)
  w.valid && (meets (dieLocalBase d) hbmSize || meets (granBase (10 * d)) 0x5000000 || meets 0x10000000000 0x6000000000)

/-- Models whose save area, or a shard an update command of theirs walks, lies on die d. -/
def Hw.modelsOn (h : Hw) (d : Nat) : List Nat :=
  let meets (lo n a len : Nat) : Bool := decide (lo < a + len ∧ a < lo + n)
  h.models.filterMap (fun e => match e.2 with
    | some m =>
      let w := h.win m.ctx m.saveWin
      let save := w.valid && w.onDie d && (meets (dieLocalBase d) hbmSize (w.base + m.saveOff) (m.sheaves * 2048) ||
        meets (granBase (10 * d)) 0x5000000 (w.base + m.saveOff) (m.sheaves * 2048) || decide (0x10000000000 ≤ w.base ∧ w.base < 0x16000000000))
      let shard := (List.range 80).any (fun g => match (h.tile g).upd with
        | some u => u.model == some e.1 && (h.win u.ctx (udWin u.desc)).onDie d
        | none => false)
      if save || shard then some e.1 else none
    | none => none)

/-- The lines homed on die d that another die's agent holds in M, or that are on their way back to it: their write-backs are
discarded (18 R420, notes/assumptions/101). -/
def Hw.downLines (h : Hw) (d : Nat) : Nat :=
  h.memS.roll.countP (fun e => onDie d (64 * e.1) && (match e.2.owner with
    | some a => decide (80 ≤ a ∨ a / 10 ≠ d)
    | none => false)) +
  h.memS.open_.countP (fun t => onDie d t.key && t.src != [])

/-- A transaction that die d's loss ends: it is addressed to the die, comes from one of its control cores, or waits on a snoop of one. -/
def Txn.lostWith (t : Txn) (d : Nat) : Bool :=
  onDie d t.key || (decide (t.agent < 80) && t.agent / 10 == d) || (t.kind != 9 && t.snoops.any (fun s => decide (s.1 < 80) && s.1 / 10 == d))

/-- A hub link has failed: die d is down (R268, 18 R420). Every transaction addressed to the die or waiting on it, and every
transaction of its own control cores, ends with an error response; write-backs of its lines are discarded and counted; its streams
stop. -/
def Hw.dieDown (id : Ident) (h : Hw) (d : Nat) : Hw :=
  let lost := h.downLines d
  let ms := h.modelsOn d
  let cs := ((h.work.filterMap (fun e => match e.2 with
    | some w => if e.1 / 10 = d then some w.ctx else none
    | none => none)) ++ (h.wins.filterMap (fun e => if e.2.onDie d then some (e.1 / 64) else none))).eraseDups.filter h.ctxActive
  let h := h.send { mkErr h 0x11 (if ms = [] then 0x1A else 0x1E) (srcOf 8 0x19 d) none none [(40, 1, d), (48, 8, lost)] with
    model := ms.head?.getD 0, covers := cs, marks := ms }
  let h := cs.foldl (fun h c => h.faultCtx c 0x11) h
  let h := ms.foldl Hw.markModel h
  let h : Hw := { h with dieSt := SMap.set 0 h.dieSt d 3 }
  let ended : List Txn := (h.memS.open_ ++ h.memS.wait).filter (fun t => t.lostWith d)
  let h := h.modMemS (fun m => { m with
    open_ := (m.open_.filter (fun t => !t.lostWith d)).map (fun t => { t with snoops := t.snoops.filter (fun s => s.1 / 10 != d || 80 ≤ s.1) })
    wait := m.wait.filter (fun t => !t.lostWith d) })
  let h := ended.foldl (fun h t => if t.kind = 9 then h
    else let h := h.bringHome id t (fun _ => true); { h with out := h.out ++ [Outp.answer t.agent t.kind t.key .error] }) h
  let h := h.memS.roll.foldl (fun h e =>
    h.setRoll (e.1 * 64) (if onDie d (64 * e.1) then RollLine.init else (List.range 10).foldl (fun r t => r.drop (10 * d + t)) e.2)) h
  let h := (List.range 10).foldl (fun h t => h.modTile (10 * d + t) Tile.haltAll) h
  h.drainWaits id

/-- A side link goes out of service: a record for each of its two dies (18 R420). -/
def Hw.sideOut (h : Hw) (s : Nat) : Hw :=
  let out (h : Hw) (s : Nat) : Hw := h.err 0x10 0x40 (srcOf (s / 4) 9 (s % 4)) none none [(40, 1, s % 4)]
  out (out h s) (sitePeer s)

/-- RETRAIN_ATTEMPT_END: an attempt of site s ends (R267, R268). After a good one, `sp` and `sq` are the spare wires that its
reassignment left in service in the directions that s and its far end receive. -/
def retrainAttemptEnd (id : Ident) (s : Nat) (ok : Bool) (sp sq : Nat) (h : Hw) : Hw :=
  let x := h.site s
  let p := sitePeer s
  if !siteUsed s ∨ (x.st ≠ 3 ∧ x.st ≠ 1) then h
  else if ok then
    let up (n : Nat) (x : Site) : Site := { x with st := 2, attempts := 0, naks := 0, crcAt := [], spares := min n 16, met := true }
    let h := (h.modSite s (up sp)).modSite p (up sq)
    { h with out := h.out ++ [Outp.replay s ((h.site s).replay.head?.getD (h.site s).txSeq),
        Outp.replay p ((h.site p).replay.head?.getD (h.site p).txSeq)] }
  else if x.attempts + 1 < 8 then (h.bothEnds s (fun y => { y with attempts := x.attempts + 1 })).attempt s
  else
    let h := h.bothEnds s (fun y => { y with st := 4, attempts := 8 })
    if 32 ≤ s then h.dieDown id (s - 32)
    else if 32 ≤ p then h.dieDown id (p - 32)
    else h.sideOut s

/-- FORWARDED_CLOCK_LOCK_LOSS (R267). -/
def forwardedClockLockLoss (s : Nat) (h : Hw) : Hw := if siteUsed s && (h.site s).st == 2 then h.retrain s else h

/-! ## Background calibration (R269) -/

/-- A site calibrates in the background: one of its 18 clock groups of 64 wires. -/
def Hw.calibrates (h : Hw) (s group : Nat) : Bool :=
  siteUsed s && (h.site s).st == 2 && decide (group < 18) && h.regF (siteCal s) 16 1 == 1

/-- BG_CALIBRATION: an idle slot recalibrates a wire group; a failing wire takes one of the direction's 16 spares, or starts
a retrain when none remains. -/
def bgCalibration (s group : Nat) (fail : Bool) (h : Hw) : Hw :=
  if h.calibrates s group then
    let h := h.modSite s (fun x => { x with calAt := SMap.set 0 x.calAt group h.localNs })
    if !fail then h
    else if (h.site s).spares < 16 then h.modSite s (fun x => { x with spares := x.spares + 1 })
    else h.retrain s
  else h

/-- CAL_MAX_EXPIRY: a group not calibrated within CAL_MAX µs gets an inserted idle slot, and is calibrated in it. -/
def calMaxExpiry (s group : Nat) (h : Hw) : Hw :=
  if h.calibrates s group && decide (SMap.get 0 (h.site s).calAt group + max 1 (h.regF (siteCal s) 0 16) * 1000 ≤ h.localNs) then
    h.modSite s (fun x => { x with calAt := SMap.set 0 x.calAt group h.localNs })
  else h

end Sys2Proof.Machine
end

