-- ==== Sys2Proof/Machine/Reset.lean ====
section
/-!
DEFINITION. Reset.lean: what each reset does to the module's state (20 R445 to R448, 10 R255 and R256, 12 R307, 17 R405).
-/
namespace Sys2Proof.Machine

/-- Reset the registers of the blocks named. -/
def Hw.resetBlocks (h : Hw) (p : Blk → Bool) : Hw :=
  let keep (a : Nat) : Bool := match locReg a with
    | .reg b _ _ => !p b
    | _ => true
  { h with regs := h.regs.filter (fun e => keep e.1), shadow := h.shadow.filter (fun e => keep e.1) }

/-- Zero the counters of a field die (19 R427). -/
def Hw.zeroCtrs (h : Hw) (d : Nat) : Hw :=
  let b := blkBase .dobs d
  { h with regs := h.regs.filter (fun e => !decide (b ≤ e.1 ∧ e.1 < b + 0x800)) }

def Hw.modBoot (h : Hw) (f : Boot → Boot) : Hw := { h with boot := f h.boot }
def Hw.modPower (h : Hw) (f : Power → Power) : Hw := { h with power := f h.power }
def Hw.modClerk (h : Hw) (f : Clerk → Clerk) : Hw := { h with clerk := f h.clerk }

/-! ## One tile (R447) -/

/-- Fields a tile reset leaves (the notes of 02, 04, 05 and 07). -/
def tileKept : List (Nat × Nat × Nat) :=
  [(0x8, 0, 3), (0x180, 12, 2), (0x180, 0, 7), (0x700, 0, 64), (0xD08, 0, 3)]

/-- What a tile reset leaves of a tile: its streams' CAUSE, DETAIL and FAULT_PC (04 R81), its lane generators reseeded from
VEC.RNG_SEED (05 R133). -/
def Tile.afterReset (t : Tile) (seed : Word) : Tile :=
  { Tile.init with
    strm := SMap.remap Stream.init (fun _ x => { Stream.init with cause := x.cause, detail := x.detail, faultPc := x.faultPc }) t.strm
    rngSeed := seed }

/-- A tile takes its reset values; its resident entry is discarded. -/
def Hw.resetTile (id : Ident) (h : Hw) (g : Nat) : Hw :=
  let base := tileReg g 0
  let h := ((((h.dropTxns id (· == g) (fun _ => true)).dropAgent id g).modMemS (fun m => { m with
    cacheBad := m.cacheBad.filter (·.1 != g) })).drainWaits id).applyShadow base (base + 0x10000)
  let kept := tileKept.map (fun k => (base + k.1, k.2.1, k.2.2, h.regF (base + k.1) k.2.1 k.2.2))
  let h := { h with
    tiles := SMap.set Tile.init h.tiles g ((h.tile g).afterReset (BitVec.ofNat 64 (h.reg (base + 0x700))))
    regs := h.regs.filter (fun e => !decide (base ≤ e.1 ∧ e.1 < base + 0x10000))
    shadow := h.shadow.filter (fun e => !decide (base ≤ e.1 ∧ e.1 < base + 0x10000))
    resid := SMap.set Resid.init h.resid g Resid.init }
  (kept.foldl (fun h k => h.setRegF k.1 k.2.1 k.2.2.1 k.2.2.2) h).zeroCtrs (g / 10)

/-! ## The accelerator side (R446) -/

/-- Blocks a fallow reset resets. -/
def Blk.accel : Blk → Bool
  | .tile | .mill | .carter | .repl | .steward => true
  | _ => false

/-- What a fallow reset leaves of a chute: RELEASED, and the REASON that the teardown of its context gave it (14 R347). -/
def Chute.afterReset (x : Chute) : Chute := { Chute.init with released := x.released, reason := if x.reason = 2 then 2 else 0 }

def Mill.afterReset (m : Mill) : Mill := ⟨SMap.remap Chute.init (fun _ x => x.afterReset) m.chutes, 15⟩

/-- Step 3 of R446: the tiles (with R256), the mill, the carters, the replica unit and the steward's dispatch state, with the
bell book entries of R318; field-die counters are zeroed and the chronicle stops. The lease is the watchman's: one
that runs keeps its fields, with a term that was pending (16 R391). -/
def Hw.accelReset (id : Ident) (h : Hw) : Hw :=
  let h := ((List.range 80).foldl (fun h g => h.dropAgent id g) (h.dropTxns id (decide <| · < 80) (fun _ => true))).modMemS (fun m => { m with
    cacheBad := m.cacheBad.filter (fun e => decide (80 ≤ e.1)) })
  let h := if h.fab.leaseSt = 1 then h.applyShadow leaseReg (leaseReg + 8) else h
  let lease := h.reg leaseReg
  let freed (c : Nat) : Nat := blkBase .mill 0 + 0x1018 + 0x40 * c
  let idx := (List.range 16).map (fun c => (freed c, h.regF (freed c) 32 32))
  let h := h.resetBlocks Blk.accel
  let h := if h.fab.leaseSt = 1 then h.setReg leaseReg lease else h
  let h := idx.foldl (fun h e => h.setRegF e.1 32 32 e.2) h
  let h := (List.range 8).foldl Hw.zeroCtrs h
  let h := { h with
    tiles := [], resid := [], work := [], swaps := [], bitmap := [], compl := [], rsig := [], tithe := [], repl := []
    mill := h.mill.afterReset
    fab := { Fab.init with leaseAt := h.fab.leaseAt, leaseSt := h.fab.leaseSt, epoch := h.fab.epoch }
    chron := { h.chron with running := false } }
  (h.drainWaits id).disarmFallow

/-- A fallow reset begins: contexts torn down with a cause of 18 Table 18-3, the accelerator side held and reset, the stacks
on their way to self-refresh. One already in progress, or the fallow state, absorbs it (R448). -/
def Hw.beginFallow (id : Ident) (h : Hw) (cause : Nat) : Hw :=
  let h := if cause = 2 then h.closeAll id (h.qpsOf none) 6 else h
  let h := h.teardownAll id cause
  if h.boot.fallow ≠ 0 then h
  else
    let h := (h.accelReset id).modBoot (fun b => { b with fallow := 1 })
    (List.range 16).foldl (fun h k => h.enterStack k 1) h

/-! ## The host domain (10 R255) -/

/-- A host reset begins at sequence number `next` of the error ring: host agents leave the roll, their dirty lines are
discarded, counted and reported in one record; harts stop and their interrupt files reset. Their open and waiting transactions
end: data that an accelerator's cache had already supplied goes to the home, what another host cluster had is discarded with the rest,
snoops to them count as answered, and what waited behind them is ordered (notes/assumptions/16). -/
def Hw.beginHostReset (id : Ident) (h : Hw) (next : Nat) : Hw :=
  let host (a : Nat) : Bool := decide (0x50 ≤ a ∧ a ≤ 0x60)
  let passed := ((h.memS.open_.filter (fun t => host t.agent)).map (fun t => t.src.countP (fun s => host s.2))).sum
  let dirty := passed + h.memS.roll.countP (fun e => e.2.hold.any (fun x => host x.1 && x.2 == .mod))
  let h := h.dropTxns id host (fun a => !host a)
  let roll := h.memS.roll.filterMap (fun e =>
    let mine := e.2.hold.any (fun x => host x.1 && x.2 == .mod)
    let r : RollLine := { e.2 with
      hold := e.2.hold.filter (fun x => !host x.1), own := e.2.own.filter (fun x => !host x.1), data := if mine then none else e.2.data }
    if r.hold = [] then none else some (e.1, r))
  let h := h.modMemS (fun m => { m with roll := roll, cacheBad := m.cacheBad.filter (fun e => !host e.1) })
  let hr := blkBase .reeve 0 + 8
  let h := ((h.setRegF hr 63 1 1).setRegF hr 62 1 1).bump hr 0 32 dirty
  let h := h.err 0x0E 0 (srcOf 8 0x10 0) none none [(40, 8, dirty)]
  (h.modBoot (fun b => { b with harts := [], imsic := [], ifiles := [], firstSeq := next, cause := 4 })).drainWaits id

/-- A fallow reset as a decision of the watchman: it is in progress until the reset ends (17 R403). -/
def Hw.fallowDecision (id : Ident) (h : Hw) (cause : Nat) : Hw :=
  let h := h.beginFallow id cause
  if h.boot.fallow = 1 then h.modPower (fun p => { p with sev := Nat.max 3 p.sev }) else h

/-- LEASE_LAPSE (12 R307): at the deadline the module resets its accelerator side, and with HOST = 1 its host domain; while a more
severe decision is in progress, nothing but the lease itself ends (17 R403). -/
def leaseLapse (id : Ident) (next : Nat) (watch : Hw → Hw) (h : Hw) : Hw :=
  if h.leaseOn && decide (h.fab.leaseAt ≤ h.localNs) then
    let host := h.regF leaseReg 62 1 == 1
    let severe := decide (3 < h.power.sev)
    let h := if severe then h else watch h
    let h := (h.setRegF leaseReg 63 1 0).modFab (fun f => { f with leaseSt := 2 })
    if severe then h
    else
      let h := h.fallowDecision id 2
      if host && !h.hostReset then h.beginHostReset id next else h
  else h

/-! ## The whole module -/

/-- Registers the watchman keeps. -/
def Blk.watchman : Blk → Bool
  | .watch => true
  | _ => false

/-- The watchman's part of the power state, across a module reset or a restart. -/
def Power.watch (p : Power) : Power :=
  { Power.init with
    wcode := p.wcode, wceil := p.wceil, wAt := p.wAt, ins := p.ins, action := p.action, cause := p.cause, sev := p.sev
    graceAt := p.graceAt, calmAt := p.calmAt, leakAt := p.leakAt, capHeld := p.capHeld, crash := p.crash, crashT := p.crashT, mainSw := p.mainSw, bank := p.bank
    inputs := p.inputs, leak := p.leak, clerkErrAt := p.clerkErrAt, bothAt := p.bothAt, latched := p.latched }

/-- The module after a module reset or a power-on, at a boot step and with a cause of 20 Table 20-4 (R445). Kept: the watchman
and the lamp bays, the flash with the repair tables, hard repairs, and in a retained boot the stacks' contents. -/
def Hw.restart (h : Hw) (phase cause : Nat) (retained : Bool) : Hw :=
  let hbm (a : Nat) : Bool := retained && decide (0x100000000 ≤ a ∧ a < 0x6100000000)
  let stack (s : Stack) : Stack := { Stack.init with
    hppr := s.hppr, repairs := s.repairs.filter (·.kind == 0), st := if retained && s.st == .selfRefresh then .selfRefresh else .untrained }
  let n (e : Nat × Stack) : Option (Nat × Stack) := if stack e.2 = Stack.init then none else some (e.1, stack e.2)
  { Hw.reset with
    memS := { MemSide.init with
      mem := ⟨h.memS.mem.cells.filter (fun c => hbm c.1), h.memS.mem.bad.filter hbm, h.memS.mem.soft.filter hbm⟩
      stks := h.memS.stks.filterMap n }
    regs := h.regs.filter (fun e => match locReg e.1 with
      | .reg b _ _ => b.watchman
      | _ => false)
    localNs := h.localNs
    power := h.power.watch
    boot := { Boot.init with
      phase := phase, cause := cause, retained := retained, flash := h.boot.flash, repairs := h.boot.repairs, dimms := h.boot.dimms, mrst := h.boot.mrst
      extest := h.boot.extest
      lamps := h.boot.lamps }
    out := h.out, resp := h.resp, wiped := true, free := h.free }

/-- A module reset: boot starts at step 2 with fresh challenge; with the main switch open there is nothing to reset. -/
def Hw.moduleReset (h : Hw) (cause : Nat) : Hw :=
  if h.power.mainSw then
    let (c, h) := h.draw
    (h.restart 2 cause false).modBoot (fun b => { b with challenge := c })
  else h

/-- A lamp without power. -/
def Lamp.dark (l : Lamp) : Lamp := { l with st := if 2 ≤ l.st ∧ l.st ≤ 4 then 1 else l.st, phase := 0 }

/-- The main switch opens: only the watchman stays powered (R404, R405). What it read from the dies ends, and the lamps go dark. -/
def Hw.switchOff (h : Hw) : Hw := ((h.restart 0 0 false).modBoot (fun b => { b with
  lamps := b.lamps.map (fun e => (e.1, e.2.dark)) })).modPower (fun p => { p with
  mainSw := false, graceAt := none, action := 0, sev := 0, wceil := []
  wcode := p.wcode.filter (fun e => decide (4 ≤ e.1 % 32)), ins := p.ins.filter (fun e => decide (9 ≤ e.1)) })

end Sys2Proof.Machine
end

