-- ==== Sys2Proof/Machine/Power.lean ====
section
/-!
DEFINITION. Power.lean: operating points, ceilings, the sag guard, energy accounts, stack temperatures and the watchman
(17 R394 to R406, 09 R216 to R221, 18 R425).
-/
namespace Sys2Proof.Machine

def pwrReg (d off : Nat) : Nat := blkBase .pwr d + off
def watchReg (off : Nat) : Nat := blkBase .watch 0 + off

/-! ## Operating points (R394 to R398) -/

def Power.reqOf (p : Power) (g : Nat) : Nat := SMap.get 4 p.req g
def Power.effOf (p : Power) (g : Nat) : Nat := SMap.get 4 p.eff g
def Power.ceilOf (p : Power) (d : Nat) : Nat := SMap.get 0 p.ceil d
/-- Whether a decision of Table 17-4 stands for a condition at a place (a die for code 0x01, else 0). -/
def Power.cond (p : Power) (place code : Nat) : Bool := SMap.get false p.wcode (32 * place + code)
def Power.setCond (p : Power) (place code : Nat) (b : Bool) : Power :=
  { p with wcode := SMap.set false p.wcode (32 * place + code) b }

/-- The watchman ceiling of a die, 8 for the hub: the slowest that an active condition requires (R402). -/
def Power.watchCeil (p : Power) (d : Nat) : Nat :=
  Nat.max (SMap.get 0 p.wceil d)
    (Nat.max (if p.cond 0 4 || p.cond 0 8 then 2 else 0) (if p.cond 0 6 then 3 else 0))

/-- The granted point for a request (R396). -/
def Power.grant (p : Power) (d x : Nat) : Nat := Nat.max x (Nat.max (p.ceilOf d) (p.watchCeil d))

/-- The stack over a tile (09 R217). -/
def stackOver (g : Nat) : Nat := 2 * (g / 10) + (if g % 10 < 5 then 0 else 1)

/-- The stack step of R219. -/
def Hw.stackStep (h : Hw) (g x : Nat) : Nat := if 1 ≤ (h.stack (stackOver g)).level then Nat.min 4 (x + 1) else x

/-- The effective point a tile is to run at. -/
def Hw.target (h : Hw) (g : Nat) : Nat := h.stackStep g (h.power.grant (g / 10) (h.power.reqOf g))

/-- A tile's point is decided anew, for a cause of 19 Table 19-5: POINT_CHANGE_SETTLE makes it effective. -/
def Hw.decidePoint (h : Hw) (cause g : Nat) : Hw :=
  let w := SMap.get 0 h.power.want g
  let cur := if w = 0 then h.power.effOf g else (w - 1) % 16
  if h.target g = cur then h
  else h.modPower (fun p => { p with
    want := SMap.set 0 p.want g (if h.target g = p.effOf g then 0 else h.target g + 1 + 16 * cause) })

def Hw.decideDie (h : Hw) (cause d : Nat) : Hw := (List.range 10).foldl (fun h t => h.decidePoint cause (10 * d + t)) h

/-- 1 plus the instructions a stream has retired, where it waits with reason 0x02, 0x03 or 0x09; else 0. A stream that waits so at two
derivations in a row and has retired nothing between them has waited throughout (R395, notes/assumptions/105). -/
def Hw.waitId (h : Hw) (g s : Nat) : Nat :=
  let w := h.waitOf g s
  if w.1 = 2 ∨ w.1 = 3 ∨ w.1 = 9 then 1 + (h.stream g s).instret else 0

/-- A running stream contributes its phase unless it has waited throughout the interval. -/
def Hw.contributes (h : Hw) (g s : Nat) : Bool :=
  (h.stream g s).st == .running && (h.waitId g s == 0 || h.waitId g s != SMap.get 0 h.power.waits (3 * g + s))

def Hw.prefOf (h : Hw) (c phase : Nat) : Nat := SMap.get 1 (h.ctx c).prefs phase

/-- The request of a tile (R395). -/
def Hw.requestOf (h : Hw) (g : Nat) : Nat :=
  match h.workOf g with
  | none => 4
  | some w =>
    if !w.running then 4
    else
      let ps := (List.range 3).filter (h.contributes g)
      if ps = [] then h.prefOf w.ctx 3 else ps.foldl (fun a s => Nat.min a (h.prefOf w.ctx s)) 4

/-- OP_REQUEST_UPDATE: every 10 µs the requests are derived, for the tiles and for the mill; with them the grant of every OPPOINT
issued before is decided (13 R320). -/
def opRequestUpdate (id : Ident) (h : Hw) : Hw :=
  let gs := (List.range 80).filter (h.present id)
  let req := gs.foldl (fun m g => SMap.set 4 m g (h.requestOf g)) h.power.req
  let waits := gs.foldl (fun m g => (List.range 3).foldl (fun m s => SMap.set 0 m (3 * g + s) (h.waitId g s)) m) []
  let mill := h.mill.chutes.foldl (fun a e => if e.2.on then Nat.min a (h.prefOf e.2.ctx 4) else a) 4
  let h := (h.modPower (fun p => { p with req := req, waits := waits, millReq := mill })).modBell (fun b => { b with opp := [] })
  gs.foldl (fun h g => h.decidePoint 0 g) h

/-- The point the mill runs at (R396). -/
def Power.millPoint (p : Power) : Nat := Nat.max p.millReq (p.watchCeil 8)

/-- POINT_CHANGE_SETTLE: the decided point of a tile takes effect (R398). -/
def pointChangeSettle (g : Nat) (h : Hw) : Hw :=
  let w := SMap.get 0 h.power.want g
  if w = 0 then h
  else
    let old := h.power.effOf g
    let h := h.modPower (fun p => { p with eff := SMap.set 4 p.eff g ((w - 1) % 16), want := SMap.set 0 p.want g 0 })
    h.event 0x08 (g / 10) (g % 10) (h.tileCtx g) [(16, 1, old), (17, 1, (w - 1) % 16), (18, 1, (w - 1) / 16)]

/-! ## Power ceilings (R397) -/

/-- Watts of a point in Table 17-1. -/
def pointW (x : Nat) : Nat := [665, 560, 440, 305, 185].getD x 185

/-- The module cap in force: 3,400 W while a blade is below 46 V (code 0x0C). -/
def Hw.moduleCap (h : Hw) : Nat := if h.power.capHeld then Nat.min h.clerk.caps.1 3400 else h.clerk.caps.1

/-- The point a die runs at: the fastest of its tiles, no faster than its ceiling. -/
def Hw.diePoint (h : Hw) (d : Nat) : Nat :=
  Nat.max (h.power.ceilOf d) ((List.range 10).foldl (fun a t => Nat.min a (h.power.effOf (10 * d + t))) 4)

/-- Dies by measured power, highest first, ties to the lower number. -/
def byPower (ws : List Nat) : List Nat :=
  (List.range ws.length).foldl (fun (l : List Nat) d =>
    let w (x : Nat) : Nat := ws.getD x 0
    l.takeWhile (fun x => decide (w d ≤ w x)) ++ d :: l.dropWhile (fun x => decide (w d ≤ w x))) []

/-- Every Table 17-1 power divides this. -/
def powerUnit : Nat := 665 * 560 * 440 * 305 * 185

/-- Lower dies one point until their estimated savings cover `need`; powers in units of 1 / (powerUnit × efficiency) W. -/
def lowerDies (ws : List Nat) : List Nat → Nat → Hw → Hw
  | [], _, h => h
  | d :: ds, need, h =>
    if need = 0 then h
    else
      let x := h.diePoint d
      if x = 4 then lowerDies ws ds need h
      else
        let save := ws.getD d 0 * (pointW x - pointW (x + 1)) * (powerUnit / pointW x) * 1000
        lowerDies ws ds (need - save) (h.modPower (fun p => { p with ceil := SMap.set 0 p.ceil d (x + 1) }))

/-- The die to raise: the slowest ceiling, ties to the lower number. -/
def Hw.raiseDie (h : Hw) : Nat :=
  (List.range 8).foldl (fun b d => if h.power.ceilOf b < h.power.ceilOf d then d else b) 0

/-- The module's input power over the last 10 ms (21 Table 21-6), a mean of the intervals' averages, truncated. -/
def Power.inputW (p : Power) : Nat := p.inputs.sum / Nat.max 1 p.inputs.length

/-- POWER_CEILING_REVISION: from the interval's average power of each field die and the module's input power, in W, and the
measured conversion efficiency in thousandths. -/
def powerCeilingRevision (ws : List Nat) (input eff : Nat) (h : Hw) : Hw :=
  let cap := h.moduleCap
  let dcap := h.clerk.caps.2
  let overN := (List.range 8).filter (fun d => decide (dcap < ws.getD d 0))
  let h1 := overN.foldl (fun h d =>
    h.modPower (fun p => { p with ceil := SMap.set 0 p.ceil d (Nat.min 4 (p.ceilOf d + 1)) })) h
  let h2 := if cap < input then lowerDies ws (byPower (ws.take 8)) ((input - cap) * powerUnit * eff) h1 else h1
  let h2 := h2.modPower (fun p => { p with inputs := (input :: p.inputs).take 100 })
  let h3 :=
    if overN ≠ [] ∨ cap < input then h2
    else
      let d := h2.raiseDie
      let x := h2.power.ceilOf d
      if x = 0 then h2
      else
        let w := ws.getD d 0
        let more := w * (pointW (x - 1) - pointW x)
        if w * pointW x + more ≤ dcap * pointW x ∧ input * pointW x * eff + more * 1000 ≤ cap * pointW x * eff then
          h2.modPower (fun p => { p with ceil := SMap.set 0 p.ceil d (x - 1) })
        else h2
  (List.range 8).foldl (Hw.decideDie · 1) h3

/-! ## The sag guard (R399) -/

/-- SAG_CFG of a die, with its threshold and release in force: the hub's PWR block has none, and its guard runs on the reset values
(notes/assumptions/106). -/
def Hw.sagThresh (h : Hw) (d : Nat) : Nat := if d = 8 then 40 else Nat.min 50 (h.regF (pwrReg d 8) 0 8)
def Hw.sagRel (h : Hw) (d : Nat) : Nat := if d = 8 then 200 else Nat.max 1 (h.regF (pwrReg d 8) 16 8) * 10

/-- The detectors of a die run: it is powered, and in service where it is a field die. -/
def Hw.sagGuards (h : Hw) (d : Nat) : Bool := h.power.mainSw && (d == 8 || (decide (d < 8) && h.dieUp d))

/-- SAG_STRETCH: a detector of a die sees its supply `mv` below its point's. A stretch begins, which a field die counts, or one
that runs goes on (R399). -/
def sagStretch (d mv : Nat) (h : Hw) : Hw :=
  if !h.sagGuards d ∨ mv ≤ h.sagThresh d then h
  else
    let h' := h.modPower (fun p => { p with drop := SMap.set 0 p.drop d h.localNs })
    if (SMap.get none h.power.sag d).isSome then h'
    else
      let h' := if d < 8 then (h'.bump (pwrReg d 0x10) 0 32 1).count d 0 255 1 else h'
      h'.modPower (fun p => { p with sag := SMap.set none p.sag d (some h.localNs) })

/-- SAG_RELEASE: every detector has stayed above the threshold for RELEASE × 10 ns since the last droop. What is left of a stretch
below a microsecond goes into the next. -/
def sagRelease (d : Nat) (h : Hw) : Hw :=
  match SMap.get none h.power.sag d with
  | none => h
  | some t =>
    if h.localNs - SMap.get 0 h.power.drop d < h.sagRel d then h
    else
      let ns := h.localNs - t
      let h := h.modPower (fun p => { p with sag := SMap.set none p.sag d none, drop := SMap.set 0 p.drop d 0 })
      if d < 8 then
        let sum := SMap.get 0 h.power.sagRem d + ns
        let h := (h.bump (pwrReg d 0x10) 32 32 (sum / 1000)).modPower (fun p => { p with sagRem := SMap.set 0 p.sagRem d (sum % 1000) })
        h.event 0x09 d 0 none [(16, 4, ns)]
      else h.event 0x09 8 0 none [(16, 4, ns)]

/-! ## Energy (R400) -/

/-- A share of energy credited to a tile, and to the context whose work or swap-in runs there. -/
def Hw.creditTile (h : Hw) (g uj : Nat) : Hw :=
  let h := (h.modPower (fun p => { p with tileUj := SMap.set 0 p.tileUj g (SMap.get 0 p.tileUj g + uj) })).countTile g 0 0 uj
  match h.workOf g with
  | some w => (h.modCtx w.ctx (fun c => { c with energy := c.energy + uj })).setWork g (some { w with energy := w.energy + uj })
  | none => (h.modPower (fun p => { p with hubUj := SMap.set 0 p.hubUj 7 (SMap.get 0 p.hubUj 7 + uj) })).countHub 0 7 uj

/-- ENERGY_MEASURE of field die d: rail, stack 0 and stack 1 energies in µJ and its tiles' activity counts; of the hub
(d = 8): hub die, DDR5, lamps 0 to 3 and conversion loss. -/
def energyMeasure (id : Ident) (d : Nat) (uj acts : List Nat) (h : Hw) : Hw :=
  if d = 8 then
    (List.range 7).foldl (fun h i =>
      (h.modPower (fun p => { p with hubUj := SMap.set 0 p.hubUj i (SMap.get 0 p.hubUj i + uj.getD i 0) })).countHub 0 i (uj.getD i 0)) h
  else if 8 < d ∨ !h.dieUp d then h
  else
    let e := uj.getD 0 0 + uj.getD 1 0 + uj.getD 2 0
    let h := h.modPower (fun p => { p with uj := SMap.set 0 p.uj d ((SMap.get 0 p.uj d + e) % 2 ^ 64) })
    let h := ((h.count d 0 240 e).count d 0 241 (uj.getD 1 0)).count d 0 242 (uj.getD 2 0)
    let ts := (List.range 10).filter (fun t => h.present id (10 * d + t))
    let tot := ts.foldl (fun a t => a + acts.getD t 0) 0
    -- weights A + F in twentieths
    let wt (t : Nat) : Nat := 20 * acts.getD t 0 + Nat.max 20 tot
    let sum := ts.foldl (fun a t => a + wt t) 0
    let share (t : Nat) : Nat := e * wt t / sum
    let rest := e - ts.foldl (fun a t => a + share t) 0
    let h := ts.foldl (fun h t => h.creditTile (10 * d + t) (share t)) h
    (h.modPower (fun p => { p with hubUj := SMap.set 0 p.hubUj 7 (SMap.get 0 p.hubUj 7 + rest) })).countHub 0 7 rest

/-! ## The crash record (18 R425, Table 18-5) -/

def Hw.crashF (h : Hw) (o n : Nat) : Nat := recN h.power.crash o n

/-- A decision's severity (R403), from the DECISION code of Table 18-5. -/
def sevOf (decision : Nat) : Nat := match decision with
  | 4 => 6
  | 3 => 5
  | 2 => 4
  | 1 => 3
  | _ => 1

/-- A filtered input in its unit, as 16 bits. -/
def Power.input (p : Power) (i : Nat) : Int := match (SMap.get WIn.init p.ins i).y with
  | some y => y / 65536
  | none => 0
def bits16 (x : Int) : Nat := (x % 65536).toNat

/-- The hottest die by filtered junction, ties to the lower. -/
def Power.hottest (p : Power) : Nat :=
  (List.range 9).foldl (fun b d => if p.input b < p.input d then d else b) 0

/-- The crash record of a decision, and with it every stack's temperature (09 R221). `seq` is the last record's SEQ, `rcd` bytes 0 to 31 of an escalating record. -/
def Hw.crashWrite (h : Hw) (seq cause decision : Nat) (rcd : List Byte) (opcode : Nat) (patched : Bool) (pc : Nat) : Hw :=
  let p := h.power
  let cnt := min (h.crashF 96 4 + 1) 0xFFFFFFFF
  if bitAt (h.crashF 5 1) 0 && decide (sevOf decision < sevOf (h.crashF 7 1)) then
    h.modPower (fun p => { p with crash := overlay p.crash 96 (toLE 4 cnt) })
  else
    let levels := (List.range 16).foldl (fun a k => a + (h.stack k).level * 4 ^ k) 0
    let b := mkRec 128 [(0, 4, 0x48535243), (4, 1, 1), (5, 1, 1), (6, 1, cause), (7, 1, decision), (8, 8, h.bellNs), (16, 8, h.localNs),
      (24, 8, seq), (32, 32, leNat rcd), (64, 2, bits16 (p.input 11)), (66, 2, bits16 (p.input 12)), (68, 2, bits16 (p.input 13)),
      (70, 2, bits16 (p.input p.hottest)), (72, 1, p.hottest), (76, 4, levels), (80, 2, bits16 (p.input 9)),
      (82, 2, bits16 (p.input 10)), (84, 2, opcode), (86, 1, if patched then 1 else 0), (88, 8, pc), (96, 4, cnt)]
    h.modPower (fun q => { q with crash := b, crashT := (List.range 16).map (fun k => (h.stack k).temp) })

/-- WATCH_CRASH_CLEAR: a write of CRASH_CLR; CLEAR = 1 clears VALID and COUNT. -/
def watchCrashClear (v : Word) (h : Hw) : Hw :=
  if bitAt v.toNat 63 then
    h.modPower (fun p => { p with crash := overlay (overlay p.crash 5 [0]) 96 [0, 0, 0, 0] })
  else h

/-! ## Decisions (R403 to R406) -/

/-- The DECISION of a condition of Table 17-4; 0 for a throttle. -/
def decisionOf (cause : Nat) : Nat :=
  if cause = 0x07 ∨ cause = 0x0A ∨ cause = 0x0E then 4
  else if cause = 0x0D then 3
  else if cause = 0x02 ∨ cause = 0x03 ∨ cause = 0x05 ∨ cause = 0x09 then 2
  else if cause = 0x0F ∨ cause = 0x10 then 1
  else if cause = 0x0B then 5
  else 0

/-- A background command that a fallow reset or a wake completes: FALLOW_EXIT, and RESET of a tile or of kind fallow. -/
def ClerkCmd.onFallow (b : ClerkCmd) : Bool :=
  recN b.rcd 0 2 == 0x0604 || (recN b.rcd 0 2 == 0x0C01 && decide (2 ≤ recN b.rcd 20 1))

/-- The accelerator side is held in reset from now on: a fallow reset or a wake that is in progress ends here, and what waits for it
is cancelled (15 R358). -/
def Hw.holdAccel (h : Hw) : Hw :=
  (h.cancelBg ClerkCmd.onFallow).modBoot (fun b => { b with fallow := 2, wakeBad := false })

/-- The accelerator side stops: tiles issue nothing, and nothing starts. -/
def Hw.stopAccel (h : Hw) : Hw := ((List.range 80).foldl Hw.stopTile h).holdAccel

def Hw.allSelfRefresh (h : Hw) : Hw := (List.range 16).foldl (fun h k => h.enterStack k 1) h

/-- R404: every context torn down, the accelerator stopped, stacks on their way to self-refresh, the notice sent. -/
def Hw.orderlyShutdown (id : Ident) (h : Hw) : Hw :=
  let h := ((h.teardownAll id 0).stopAccel).allSelfRefresh
  let c := watchReg 0
  let h := h.msi (h.regF c 20 6) (h.regF c 18 2) (h.regF c 15 3) (h.regF c 0 11)
  h.modPower (fun p => { p with action := 2, sev := 4, graceAt := some (h.localNs + h.regF c 32 16 * 1000000000) })

/-- R406: the tiles stop, the cellars flush, the stacks enter self-refresh, the host domain stops. -/
def Hw.retention (h : Hw) : Hw :=
  let h := (h.stopAccel).allSelfRefresh
  let h := h.modBoot (fun b => { b with
    harts := [], holdAt := if (List.range 16).all (fun k => (h.stack k).entering == 0) then some h.localNs else none })
  h.modPower (fun p => { p with action := 3, sev := 5, bank := false, graceAt := none })

/-- A decision of Table 17-4 other than a throttle is taken, unless a more severe one is in progress: the crash record is
written, and the decision's steps begin. -/
def Hw.takeDecision (id : Ident) (h : Hw) (seq cause : Nat) : Hw :=
  let dec := decisionOf cause
  if sevOf dec < h.power.sev then h
  else
    let h := (h.crashWrite seq cause dec [] 0 false 0).modPower (fun p => { p with cause := cause })
    match dec with
    | 5 => (h.err 0x17 0 (srcOf 8 0x1A 0) none none [(40, 1, cause)]).modPower (fun p => { p with leakAt := some h.localNs })
    | 1 => h.fallowDecision id 3
    | 2 => if h.power.sev = 4 ∨ !h.power.mainSw then h else h.orderlyShutdown id
    | 3 =>
      if h.power.bank then (if h.power.mainSw then h.retention else h)
      else { h.switchOff with power := { Power.init with latched := true } }
    | 4 => (h.switchOff).modPower (fun p => { p with latched := true })
    | _ => h

/-- LEASE_LAPSE's decision 0x0F: its crash record and cause. -/
def Hw.lapseNoted (h : Hw) (seq : Nat) : Hw :=
  (h.crashWrite seq 0x0F 1 [] 0 false 0).modPower (fun p => { p with cause := 0x0F })

/-! ## Samples (R402) -/

/-- N and α of an input (Table 17-3), α as a power of two's exponent. Inputs: 0 to 8 die junctions (8 the hub), in 1/16 °C; 9 and
10 blades, in 10 mV; 11 inlet and 12 outlet, in 1/16 °C; 13 flow, in 0.01 L/min; 14 the leak rope's resistance, in ohms. -/
def watchN (i : Nat) : Nat := if i < 11 then 3 else 5
def watchShift (i : Nat) : Nat := if i < 9 then 1 else if 11 ≤ i ∧ i < 14 then 4 else 0

def insertInt (x : Int) : List Int → List Int
  | [] => [x]
  | y :: ys => if x ≤ y then x :: y :: ys else y :: insertInt x ys
/-- The median of an odd number of values. -/
def median (l : List Int) : Int := (l.foldl (fun a x => insertInt x a) []).getD (l.length / 2) 0

/-- The class of a resistance (21 R473), in order of resistance: 0 wet, 1 dry, 2 open. -/
def ropeClass (ohms : Int) : Int := if ohms < 5000 then 0 else if ohms ≤ 50000 then 1 else 2

/-- An input takes a sample. -/
def WIn.take (w : WIn) (i : Nat) (v : Int) : WIn :=
  let last := (v :: w.last).take (watchN i)
  if last.length < watchN i then { w with last := last }
  else
    let m := median last * 65536
    { last := last, y := some (match w.y with
        | none => m
        | some y => y + (m - y) / (2 ^ watchShift i : Nat)) }

/-- The filtered value in 1/65536, once there is one. -/
def Power.y (p : Power) (i : Nat) : Option Int := (SMap.get WIn.init p.ins i).y

/-- A threshold condition with hysteresis: it arises by `on` and holds until `off`. -/
def condStep (was on off : Bool) : Bool := on || (was && !off)

/-- A throttle condition of the whole module begins or ends. -/
def Hw.throttle (h : Hw) (code : Nat) (b : Bool) : Hw :=
  if h.power.cond 0 code = b then h
  else
    let h := h.modPower (fun p => { p.setCond 0 code b with cause := if b then code else p.cause })
    (List.range 8).foldl (Hw.decideDie · 2) h

/-- A condition that calls for a decision: taken once, when it begins to hold or when nothing more severe keeps it off. -/
def Hw.decideOn (id : Ident) (h : Hw) (seq place code : Nat) (b : Bool) : Hw :=
  if !b then h.modPower (fun p => p.setCond place code false)
  else if h.power.cond place code ∨ sevOf (decisionOf code) < h.power.sev then h
  else (h.takeDecision id seq code).modPower (fun p => p.setCond place code true)

/-- Code 0x01 on die d: one point slower each 1 ms while it holds, one faster each 1 ms once below 93 °C. -/
def Hw.junctionStep (h : Hw) (d : Nat) (y : Int) : Hw :=
  let p := h.power
  let x := SMap.get 0 p.wceil d
  let was := p.cond d 1
  let now := condStep was (decide (98 * 16 * 65536 ≤ y)) (decide (y < 98 * 16 * 65536))
  let due := SMap.get 0 p.wAt d == 0 || decide (SMap.get 0 p.wAt d + 999999 ≤ h.localNs)
  let h := h.modPower (fun p => { p.setCond d 1 now with cause := if now && !was then 1 else p.cause })
  let set (x : Nat) : Hw := (h.modPower (fun p => { p with wceil := SMap.set 0 p.wceil d x, wAt := SMap.set 0 p.wAt d (h.localNs + 1) })).decideDie 2 d
  if now && due && decide (x < 4) then set (x + 1)
  else if decide (y < 93 * 16 * 65536) && due && decide (0 < x) then set (x - 1)
  else h

/-- No condition of Table 17-4 holds that acts: the open rope only raises records (21 R473). -/
def Power.calm (p : Power) : Bool := !p.capHeld && p.wcode.all (fun e => e.1 % 32 == 0x0B)
/-- No condition of Table 17-4 holds at all (R404). -/
def Power.allCalm (p : Power) : Bool := p.calm && p.y 14 != some 131072
/-- A blade's latest sample reads 0 V: it is withdrawn (21 R462). -/
def Power.pulled (p : Power) (i : Nat) : Bool := (SMap.get WIn.init p.ins i).last.head? == some 0

/-- The tests of Table 17-4 on the filtered values, after a sample of input i. -/
def Hw.watchTest (id : Ident) (seq i : Nat) (h : Hw) : Hw :=
  match h.power.y i with
  | none => h
  | some y =>
    let deg (t : Nat) : Int := (t * 16 * 65536 : Nat)
    if i < 9 then
      let h := (h.junctionStep i y).decideOn id seq i 2 (decide (deg 108 ≤ y))
      if i < 8 then h.count i 0 247 (y / 65536).toNat else h
    else if i < 11 then
      let lo (j : Nat) : Bool := match h.power.y j with
        | some y => decide (y < 4600 * 65536)
        | none => false
      let both := lo 9 && lo 10
      let low := lo 9 || lo 10 || h.power.pulled 9 || h.power.pulled 10
      let h := h.modPower (fun p => { p with
        bothAt := if both then some (p.bothAt.getD h.localNs) else none
        capHeld := low
        cause := if low && !p.capHeld then 0x0C else p.cause })
      let h := h.decideOn id seq 0 0x0D (both && (match h.power.bothAt with
        | some t => decide (t + 20000 ≤ h.localNs)
        | none => false))
      h.decideOn id seq (i - 9) 0x0E (decide (6000 * 65536 < y))
    else if i = 11 then
      let h := h.throttle 4 (condStep (h.power.cond 0 4) (decide (deg 50 < y)) (decide (y < deg 48)))
      h.decideOn id seq 0 5 (decide (deg 55 < y))
    else if i = 12 then
      let h := h.throttle 6 (condStep (h.power.cond 0 6) (decide (deg 62 < y)) (decide (y < deg 58)))
      h.decideOn id seq 0 7 (decide (deg 70 < y))
    else if i = 13 then
      let h := h.throttle 8 (condStep (h.power.cond 0 8) (decide (y < 3200 * 65536)) (decide (3400 * 65536 ≤ y)))
      h.decideOn id seq 0 9 (decide (y < 2000 * 65536))
    else
      let h := h.modPower (fun p => { p with leak := if y = 0 then 1 else if y = 65536 then 0 else 2 })
      let h := h.decideOn id seq 0 0x0A (decide (y = 0))
      let again : Bool := match h.power.leakAt with
        | some t => decide (t + 3600000000000 ≤ h.localNs)
        | none => true
      let h := if again then h.modPower (fun p => p.setCond 0 0x0B false) else h
      h.decideOn id seq 0 0x0B (decide (y = 131072) && (again || h.power.cond 0 0x0B))

/-- Both blades within 48 to 58 V (20 Table 20-2 step 1). -/
def Power.bladesGood (p : Power) : Bool := [9, 10].all (fun i => match p.y i with
  | some y => decide (4800 * 65536 ≤ y ∧ y ≤ 5800 * 65536)
  | none => false)

/-- Boot step 1: the filters primed, the watchman has read the lamp bays (notes/assumptions/107), the main switch closes and step 2
begins, which waits while MRST_N is low (21 R472). -/
def Hw.tryClose (h : Hw) : Hw :=
  if h.boot.phase = 1 ∧ h.power.bladesGood ∧ h.power.calm ∧ [11, 12, 13, 14].all (fun i => (h.power.y i).isSome) then
    (h.modPower (fun p => { p with mainSw := true })).modBoot (fun b => { b with
      phase := 2, lamps := b.lamps.map (fun e => (e.1, { e.2 with seen := true })) })
  else h

/-- A power-on by the watchman (R404, R406): step 1, with the stacks' contents where their hold was in time (R449). -/
def Hw.watchmanRestart (h : Hw) (retained : Bool) : Hw :=
  let (c, h) := h.draw
  let h := h.restart 1 (if retained then 5 else 1) retained
  (h.modPower (fun p => { p with mainSw := false, action := 0, sev := 0, graceAt := none })).modBoot (fun b => { b with challenge := c })

/-- Self-refresh is held on the hold-up bank, and has been for at most 2 s. -/
def Hw.holdGood (h : Hw) : Bool :=
  (match h.boot.holdAt with
  | some t => decide (h.localNs ≤ t + 2000000000)
  | none => false) && (List.range 16).all (fun k => (h.stack k).st != .online)

/-- In retention, the input has returned and every stack is in self-refresh: the watchman performs a power-on. -/
def Hw.inputBack (h : Hw) : Hw :=
  if h.power.action = 3 ∧ !h.power.capHeld ∧ (List.range 16).all (fun k => (h.stack k).entering == 0) then h.watchmanRestart h.holdGood else h

/-- Sensors of an input (Table 17-3). -/
def watchSensors (i : Nat) : Nat := if i < 8 then 16 else if i = 8 then 8 else 1
def maxInt (v : Int) (vs : List Int) : Int := vs.foldl (fun a b => if a < b then b else a) v

/-- WATCHMAN_SAMPLE: an input takes a sample, the highest of its sensors; `seq` is the SEQ of the last record written. -/
def watchmanSample (id : Ident) (seq i : Nat) (vs : List Int) (h : Hw) : Hw :=
  if 15 ≤ i ∨ vs.length ≠ watchSensors i ∨ (h.boot.phase = 0 ∧ h.power.latched) then h
  else
    let v := maxInt (vs.headD 0) vs
    let v := if i = 14 then ropeClass v else v
    let w := (SMap.get WIn.init h.power.ins i).take i v
    let h := h.modPower (fun p => { p with ins := SMap.set WIn.init p.ins i w })
    let h := h.watchTest id seq i
    let h := h.modPower (fun p => { p with calmAt := if p.allCalm then some (p.calmAt.getD h.localNs) else none })
    if h.power.action = 3 then h.inputBack else h.tryClose

/-- GRACE_EXPIRY: the host's grace time after an orderly shutdown has passed (R404). -/
def graceExpiry (h : Hw) : Hw := match h.power.graceAt with
  | some t => if t ≤ h.localNs then h.switchOff else h
  | none => h

/-- AUTO_RESTART (R404): with the switch open after an orderly shutdown and nothing wrong for 60 s. -/
def autoRestart (h : Hw) : Hw :=
  let calm : Bool := match h.power.calmAt with
    | some t => decide (t + 60000000000 ≤ h.localNs)
    | none => false
  if h.boot.phase = 0 ∧ !h.power.latched ∧ calm ∧ h.regF (watchReg 0) 63 1 = 1 then h.watchmanRestart false else h

/-- HOLDUP_BANK_FULL (21 R463). -/
def holdupBankFull (h : Hw) : Hw := if h.power.action = 3 then h else h.modPower (fun p => { p with bank := true })

/-! ## Stack temperatures (09 R216 to R221) -/

/-- A sensor takes a reading in 1/16 °C, or none. -/
def Sensor.sample (s : Sensor) (v : Option Int) (now : Nat) : Sensor :=
  match v with
  | none => if s.at_ + 1000000 ≤ now then { s with valid := false, good := 0 } else s
  | some v =>
    let ok := decide (-320 ≤ v ∧ v ≤ 2400)
    let good := if ok then Nat.min 3 (s.good + 1) else 0
    { last := (v :: s.last).take 3, valid := ok && (s.valid || good == 3), good := good, at_ := now }

/-- A sensor's value. -/
def Sensor.value (s : Sensor) : Int := if s.last.length = 3 then median s.last else s.last.head?.getD 0

/-- The level after a sample: up to the highest level whose entry threshold is reached, or back one. -/
def levelAfter (old : Nat) (t : Int) : Nat :=
  let up := if 105 * 16 ≤ t then 3 else if 100 * 16 ≤ t then 2 else if 95 * 16 ≤ t then 1 else 0
  if old < up then up
  else if old = 2 ∧ t < 97 * 16 then 1
  else if old = 1 ∧ t < 93 * 16 then 0
  else old

def thermReg (k : Nat) : Nat := blkBase .therm (k / 2) + 8 * (k % 2)

/-- A sensor after a THERM_SAMPLE. -/
def Stack.sensorAfter (x : Stack) (rs : List (Option Int)) (now i : Nat) : Sensor :=
  (SMap.get Sensor.init x.sensors i).sample (rs.getD i none) now

/-- How many of a stack's four sensors are valid after a THERM_SAMPLE. -/
def Stack.validAfter (x : Stack) (rs : List (Option Int)) (now : Nat) : Nat :=
  ((List.range 4).filter (fun i => (x.sensorAfter rs now i).valid)).length

/-- Its temperature after it: the hottest valid sensor's. -/
def Stack.tempAfter (x : Stack) (rs : List (Option Int)) (now : Nat) : Int :=
  match ((List.range 4).filter (fun i => (x.sensorAfter rs now i).valid && (x.sensorAfter rs now i).last != [])).map
      (fun i => (x.sensorAfter rs now i).value) with
  | [] => x.temp
  | v :: vs => vs.foldl (fun a b => if a < b then b else a) v

/-- A stack after a THERM_SAMPLE (R216 to R218, R221). -/
def Stack.sampled (x : Stack) (rs : List (Option Int)) (now : Nat) : Stack :=
  { x with
    sensors := (List.range 4).foldl (fun m i => SMap.set Sensor.init m i (x.sensorAfter rs now i)) x.sensors
    temp := x.tempAfter rs now
    level := if x.validAfter rs now < 2 then Nat.max 2 (if x.level = 3 then 3 else 2) else levelAfter x.level (x.tempAfter rs now) }

/-- THERM_SAMPLE of stack s of die d: four readings in 1/16 °C, none where a sensor produced nothing. A rise from level 0 to 2 counts
as an entry into both, a fall from 2 to 1 as none (notes/assumptions/111). -/
def thermSample (id : Ident) (seq d s : Nat) (rs : List (Option Int)) (h : Hw) : Hw :=
  let k := 2 * d + s % 2
  if 8 ≤ d ∨ !h.dieUp d then h
  else
    let x := h.stack k
    let y := x.sampled rs h.localNs
    let t := y.temp
    let lvl := y.level
    let h := h.modStack k (fun _ => y)
    let h := if h.regF (thermReg k) 32 16 < bits16 t ∧ 0 ≤ t then h.setRegF (thermReg k) 32 16 (bits16 t) else h
    let h := if 1 ≤ lvl then h.count d 0 (243 + s % 2) 20 else h
    let h := if 2 ≤ lvl then h.count d 0 (245 + s % 2) 20 else h
    if lvl = x.level then h
    else
      let h := if x.level < 1 ∧ 1 ≤ lvl then h.bump (thermReg k) 16 8 1 else h
      let h := if x.level < 2 ∧ 2 ≤ lvl then h.bump (thermReg k) 24 8 1 else h
      let h := h.event 0x0A d 0 none [(16, 1, s % 2), (17, 1, lvl), (18, 2, bits16 t)]
      let h := (List.range 5).foldl (fun h j => h.decidePoint 3 (10 * d + 5 * (s % 2) + j)) h
      h.decideOn id seq k 3 (decide (lvl = 3))

end Sys2Proof.Machine
end

