-- ==== Sys2Proof/Machine/Errors.lean ====
section
/-!
DEFINITION. Errors.lean: the error collector and its ring (18 R410 to R414).
-/
namespace Sys2Proof.Machine

/-- A record's 64 bytes (Table 18-2). -/
def ErrRec.bytes (r : ErrRec) (seq cls : Nat) : List Byte :=
  mkRec 64 ([(0, 8, seq), (8, 8, r.bellNs), (16, 1, cls), (17, 1, r.action), (18, 2, r.rep), (20, 4, r.source),
    (24, 2, match r.ctx with
      | some c => c % 4096 + 0x8000
      | none => 0),
    (26, 1, (if r.addr.isSome then 1 else 0) + (if r.nested then 2 else 0) + (if r.boot then 4 else 0)),
    (28, 4, if bitAt r.action 2 then r.model else 0), (32, 8, r.addr.getD 0)] ++ r.detail)

/-- A ring slot as ERR_READ returns it: a damaged one reads class 0xFF (R413). -/
def RingRec.bytes (r : RingRec) : List Byte := r.rcd.bytes r.seq (if r.bad then 0xFF else r.rcd.cls)

/-- Two records that R411 merges. -/
def ErrRec.same (a b : ErrRec) : Bool := a.cls == b.cls && a.ctx == b.ctx && a.addr == b.addr && a.detail == b.detail

/-- The unread record of the same source that a new one repeats. -/
def ErrRing.repeats (e : ErrRing) (r : ErrRec) : Option Nat :=
  let n := SMap.get 0 e.lastOf r.source
  if e.recs.any (fun x => x.seq == n && !x.read && x.rcd.same r) then some n else none

/-- A record reaches the collector (R410 to R412): the ring, the SEQ that stands for it elsewhere (0 where it is lost), and
whether it was written. -/
def ErrRing.arrive (e : ErrRing) (r : ErrRec) : ErrRing × Nat × Bool :=
  match e.repeats r with
  | some n =>
    ({ e with recs := e.recs.map (fun x => if x.seq = n then { x with rcd := { x.rcd with rep := min (x.rcd.rep + 1) 0xFFFF } } else x) },
      n, false)
  | none =>
    if 4096 ≤ e.recs.length then ({ e with overN := min (e.overN + 1) 0xFFFFFFFF }, 0, false)
    else
      ({ e with recs := e.recs ++ [⟨e.next, r, false, false⟩], next := e.next + 1, lastOf := SMap.set 0 e.lastOf r.source e.next },
        e.next, true)

def ErrRing.unread (e : ErrRing) : Nat := e.recs.countP (fun x => !x.read)

/-- The record in a slot of the ring's SRAM (R410) takes an uncorrectable error (18 R413). -/
def ErrRing.hurt (e : ErrRing) (slot : Nat) : ErrRing :=
  { e with recs := e.recs.map (fun x => if x.seq % 4096 = slot then { x with bad := true } else x) }

/-- What SRAM_SCRUB_STEP leaves in the ring (kind 7). -/
def ErrRing.scrub (e : ErrRing) (kind slot found : Nat) : ErrRing :=
  if kind = 7 ∧ (found = 2 ∨ found = 4) then e.hurt slot else e

/-- ERR_READ of up to `n` records, from the oldest (R413): their bytes, the first SEQ, the ring with them read. -/
def ErrRing.take (e : ErrRing) (n : Nat) : List (List Byte) × Nat × ErrRing :=
  let rs := e.recs.take n
  (rs.map RingRec.bytes, (rs.head?.map (·.seq)).getD 0, { e with recs := rs.map (fun x => { x with read := true }) ++ e.recs.drop n })

/-- ERR_ACK: every read record with SEQ at most n is freed; false where n is beyond the last record. -/
def ErrRing.ack (e : ErrRing) (n : Nat) : Bool × ErrRing :=
  if e.next ≤ n then (false, e)
  else (true, { e with recs := e.recs.filter (fun x => !(x.read && decide (x.seq ≤ n))) })

/-- The first record on its way from a source, and the rest. -/
def takeRec (src : Nat) : List ErrRec → Option (ErrRec × List ErrRec)
  | [] => none
  | r :: rs => if r.source = src then some (r, rs) else (takeRec src rs).map (fun x => (x.1, r :: x.2))

/-- The contexts whose fault a record is. -/
def ErrRec.blames (r : ErrRec) : List Nat := (if r.faults then r.ctx.toList else []) ++ r.covers

/-- A context's fault takes the SEQ of its record. -/
def Ctx.recorded (x : Ctx) (seq : Nat) : Ctx := if x.fwait then { x with fseq := seq, fwait := false } else x

/-- A model's mark takes the SEQ of its record. -/
def Model.recorded (m : Model) (seq : Nat) : Model := if m.markWait then { m with markSeq := seq, markWait := false } else m

/-- A teardown record that waits for the SEQ of a context's fault takes it. -/
def ErrRec.settle (x : ErrRec) (cs : List Nat) (seq : Nat) : ErrRec :=
  match x.awaits with
  | some c => if cs.contains c then { x with detail := x.detail.filter (·.1 != 48) ++ [(48, 8, seq)], awaits := none } else x
  | none => x

/-- The crash record's copy of an escalating record takes the record's SEQ (R425). -/
def ErrRec.intoCrash (r : ErrRec) (seq : Nat) (crash : List Byte) : List Byte :=
  if bitAt r.action 7 && recN crash 32 8 == 0 && subB crash 40 24 == ((r.bytes 0 r.cls).drop 8).take 24 then overlay crash 32 (toLE 8 seq)
  else crash

/-- What refers to a record takes its SEQ, 0 where it is lost (R411, R412). -/
def Hw.refers (h : Hw) (r : ErrRec) (seq : Nat) : Hw :=
  let h := h.modPower (fun p => { p with crash := r.intoCrash seq p.crash })
  let h := r.blames.foldl (fun h c => h.modCtx c (fun x => x.recorded seq)) h
  let h := r.marks.foldl (fun h m => { h with models := SMap.set none h.models m ((h.modelOf m).map (fun x => x.recorded seq)) }) h
  { h with errOut := h.errOut.map (fun x => x.settle r.blames seq) }

/-- A record waits for another that is still on its way. -/
def Hw.awaiting (h : Hw) (r : ErrRec) : Bool :=
  match r.awaits with
  | some c => h.errOut.any (fun x => x.blames.contains c)
  | none => false

/-- The MSI of CLERK.ERR_NOTIFY for a written record; `was` unread records stood before it (Table 18-8). -/
def Hw.errNotify (h : Hw) (was : Nat) : Hw :=
  let c := blkBase .clerk 0 + 0x40020
  if h.regF c 32 1 = 1 ∨ was = 0 then h.msi (h.regF c 12 6) (h.regF c 18 2) (h.regF c 20 3) (h.regF c 0 11) else h

/-- ERROR_RECORD_ARRIVAL: the oldest record in flight from a source reaches the collector; a teardown record whose causing record is
still on its way follows it. -/
def errorRecordArrival (src : Nat) (e : ErrRing) (h : Hw) : ErrRing × Hw :=
  match takeRec src h.errOut with
  | none => (e, h)
  | some (r, rest) =>
    if h.awaiting r then (e, h) else
    let (e', seq, written) := e.arrive r
    let h := ({ h with errOut := rest }).refers r seq
    if written then (e', (h.event 0x0F 8 0 none [(16, 8, seq), (24, 1, r.cls)]).errNotify e.unread) else (e', h)

end Sys2Proof.Machine
end

