-- ==== Sys2Proof/Machine/Sha3.lean ====
section
/-!
DEFINITION. Sha3.lean: SHA3-256 and the SHAKE functions of FIPS 202 (20 R452), over bytes.
-/
namespace Sys2Proof.Machine

/-- Rotate a lane left. -/
def rotL (x : Word) (n : Nat) : Word := x.rotateLeft n

/-- Lane (x, y) stands at index x + 5 y. -/
def lane (a : List Word) (x y : Nat) : Word := a.getD (x % 5 + 5 * (y % 5)) 0

/-- The walk of ρ: 24 lanes from (1, 0), each to (y, 2x + 3y); step t rotates by the triangular number (t + 1)(t + 2)/2. -/
def rhoWalk : Nat → Nat → Nat → Nat → List (Nat × Nat)
  | 0, _, _, _ => []
  | k + 1, t, x, y => (x + 5 * y, (t + 1) * (t + 2) / 2 % 64) :: rhoWalk k (t + 1) y ((2 * x + 3 * y) % 5)

/-- Rotation of each lane, by index; lane (0, 0) stands still. -/
def rhoTable : List Nat := (List.range 25).map (fun i => ((rhoWalk 24 0 1 0).lookup i).getD 0)

/-- The bit stream of ι: the shift register over x^8 + x^6 + x^5 + x^4 + 1 that starts at 1, its lowest bit first. -/
def iotaBits : Nat → Nat → List Bool
  | 0, _ => []
  | k + 1, r => bitAt r 0 :: iotaBits k (if 128 ≤ r then (2 * r) ^^^ 0x171 else 2 * r)

/-- Seven bits of the stream make one round's constant, at bits 0, 1, 3, 7, 15, 31 and 63 of lane (0, 0). -/
def iotaWord (bs : List Bool) : Nat := ((List.range 7).zip bs).foldl (fun a e => if e.2 then a + 2 ^ (2 ^ e.1 - 1) else a) 0
def iotaTable : List Word := (List.range 24).map (fun r => BitVec.ofNat 64 (iotaWord (((iotaBits 168 1).drop (7 * r)).take 7)))

/-- θ: every lane takes the parities of the column before it and of the turned column after it. -/
def theta (a : List Word) : List Word :=
  let parity (x : Nat) : Word := (List.range 5).foldl (fun p y => p ^^^ lane a x y) 0
  let mixed := (List.range 5).map (fun x => parity (x + 4) ^^^ rotL (parity (x + 1)) 1)
  (List.range 25).map (fun i => lane a i (i / 5) ^^^ mixed.getD (i % 5) 0)

/-- ρ and π: lane (X, Y) of the result is lane (X + 3Y, X), rotated. -/
def rhoPi (a : List Word) : List Word :=
  (List.range 25).map (fun i =>
    let j := (i % 5 + 3 * (i / 5)) % 5 + 5 * (i % 5)
    rotL (a.getD j 0) (rhoTable.getD j 0))

/-- χ, with ι on lane (0, 0). -/
def chiIota (rc : Word) (b : List Word) : List Word :=
  (List.range 25).map (fun i =>
    let v := lane b i (i / 5) ^^^ (~~~ lane b (i + 1) (i / 5) &&& lane b (i + 2) (i / 5))
    if i = 0 then v ^^^ rc else v)

def keccakF (a : List Word) : List Word := iotaTable.foldl (fun a rc => chiIota rc (rhoPi (theta a))) a

/-- Lanes of bytes, little-endian. -/
def lanesOf : Nat → List Byte → List Word
  | 0, _ => []
  | n + 1, b => BitVec.ofNat 64 (leNat (b.take 8)) :: lanesOf n (b.drop 8)

/-- Absorb blocks of `rate` bytes. -/
def absorb (rate : Nat) : Nat → List Byte → List Word → List Word
  | 0, _, a => a
  | n + 1, b, a => absorb rate n (b.drop rate)
      (keccakF ((a.zip (lanesOf (rate / 8) (b.take rate) ++ List.replicate (25 - rate / 8) 0)).map (fun e => e.1 ^^^ e.2)))

/-- The lanes after a whole message and its padding, which begins with the byte `dom` of its function. -/
def absorbed (rate : Nat) (dom : Byte) (m : List Byte) : List Word :=
  let q := rate - m.length % rate
  let pad : List Byte := if q = 1 then [dom ||| 0x80] else dom :: (List.replicate (q - 2) 0 ++ [(0x80 : Byte)])
  absorb rate ((m ++ pad).length / rate) (m ++ pad) (List.replicate 25 0)

/-- SHA3-256: 32 bytes. -/
def sha3 (m : List Byte) : List Byte := ((absorbed 136 0x06 m).take 4).flatMap (fun w => toLE 8 w.toNat)

/-- `n` blocks of output. -/
def squeeze (rate : Nat) : Nat → List Word → List Byte
  | 0, _ => []
  | n + 1, a => (a.take (rate / 8)).flatMap (fun w => toLE 8 w.toNat) ++ squeeze rate n (keccakF a)

/-- The first bytes of SHAKE128 and SHAKE256, in whole blocks of 168 and of 136 bytes. -/
def shake128 (blocks : Nat) (m : List Byte) : List Byte := squeeze 168 blocks (absorbed 168 0x1F m)
def shake256 (blocks : Nat) (m : List Byte) : List Byte := squeeze 136 blocks (absorbed 136 0x1F m)

end Sys2Proof.Machine
end

