-- ==== Sys2Proof/Machine/MlDsa.lean ====
section
/-!
DEFINITION. MlDsa.lean: verification of ML-DSA-44 signatures with an empty context string (20 R452, FIPS 204, whose algorithm it is
by notes/assumptions/66).
-/
namespace Sys2Proof.Machine.MlDsa

/-- The prime field of the coefficients. -/
def q : Nat := 8380417

/-- x^n mod q. -/
def powMod (x : Nat) : Nat → Nat
  | 0 => 1
  | n + 1 => powMod x n * x % q

/-- Powers 0 to 511 of the 512th root of unity, 1753. -/
def roots : List Nat := (List.range 511).foldl (fun a _ => (a.headD 0 * 1753 % q) :: a) [1] |>.reverse

/-- The 8 bits of n turned round. -/
def rev8 (n : Nat) : Nat := (List.range 8).foldl (fun a i => a + (if bitAt n i then 2 ^ (7 - i) else 0)) 0

/-- Polynomials of 256 coefficients, lowest first. -/
abbrev Poly := List Nat

/-- The value of a polynomial at x. -/
def Poly.value (p : Poly) (x : Nat) : Nat := p.foldr (fun c a => (a * x + c) % q) 0

/-- The odd power of the root at place i of a transform. -/
def place (i : Nat) : Nat := 2 * rev8 i + 1

/-- The number-theoretic transform: the values at the odd powers of the root, in bit-reversed order. -/
def Poly.ntt (p : Poly) : Poly := (List.range 256).map (fun i => p.value (roots.getD (place i) 0))

/-- Its inverse: coefficient j is 1/256 of the sum of the values times the inverse powers. -/
def Poly.unNtt (v : Poly) : Poly :=
  let w : List (Nat × Nat) := (List.range 256).map (fun i => (place i, v.getD i 0))
  (List.range 256).map (fun j =>
    w.foldl (fun a e => (a + e.2 * roots.getD ((512 - e.1 * j % 512) % 512) 0) % q) 0 * 8347681 % q)

def Poly.mul (a b : Poly) : Poly := (a.zip b).map (fun e => e.1 * e.2 % q)
def Poly.add (a b : Poly) : Poly := (a.zip b).map (fun e => (e.1 + e.2) % q)
def Poly.sub (a b : Poly) : Poly := (a.zip b).map (fun e => (e.1 + q - e.2) % q)

/-- 256 numbers of w bits from bytes, lowest bits first. -/
def unpack (w : Nat) (b : List Byte) : Poly := let n := leNat b; (List.range 256).map (fun i => fld n (w * i) w)

/-- Coefficients of a transformed polynomial from a byte stream: 23-bit numbers, those below q. -/
def rejNtt (b : List Byte) : Poly :=
  (((List.range (b.length / 3)).map (fun i => recN b (3 * i) 3 % 2 ^ 23)).filter (fun v => decide (v < q))).take 256

/-- Entry (r, s) of the matrix that the seed stands for. -/
def matrixAt (seed : List Byte) (r s : Nat) : Poly := rejNtt (shake128 6 (seed ++ toLE 1 s ++ toLE 1 r))

/-- Places 217 to 255 of the challenge: each takes the value of a place drawn at or below it, which takes ±1. -/
def ballSteps (signs : Nat) : Nat → Nat → List Byte → Poly → Poly
  | 0, _, _, c => c
  | _ + 1, _, [], c => c
  | f + 1, i, b :: bs, c =>
    if 256 ≤ i then c
    else if i < b.toNat then ballSteps signs f i bs c
    else ballSteps signs f (i + 1) bs
      ((c.set i (c.getD b.toNat 0)).set b.toNat (if bitAt signs (i + 39 - 256) then q - 1 else 1))

/-- The challenge of 39 places ±1 that a hash stands for. -/
def inBall (hash : List Byte) : Poly :=
  let s := shake256 3 hash
  ballSteps (recN s 0 8) s.length 217 (s.drop 8) (List.replicate 256 0)

/-- The hint of one polynomial: places between two counts, in rising order; none where they are malformed. -/
def hintOf (y : List Byte) (first last : Nat) : Option (List Nat) :=
  let ps := (subB y first (last - first)).map (·.toNat)
  if last < first ∨ 80 < last ∨ !(ps.zip (ps.drop 1)).all (fun e => decide (e.1 < e.2)) then none else some ps

/-- The hints of the four polynomials (84 bytes: 80 places, four counts). -/
def hints (y : List Byte) : Option (List (List Nat)) :=
  let at_ (i : Nat) : Nat := if i = 0 then 0 else recN y (79 + i) 1
  let hs := (List.range 4).map (fun i => hintOf y (at_ i) (at_ (i + 1)))
  if hs.all (·.isSome) && ((subB y (at_ 4) (80 - at_ 4)).all (· == 0)) then some (hs.map (·.getD [])) else none

/-- The high part of r for steps of 190,464, moved one step where a hint says so: 0 to 43. -/
def useHint (hint : Bool) (r : Nat) : Nat :=
  let low : Int := let m := r % 190464; if 95232 < m then (m : Int) - 190464 else m
  let top := decide ((r : Int) - low = 8380416)
  let r1 := if top then 0 else (((r : Int) - low) / 190464).toNat
  let r0 := if top then low - 1 else low
  if !hint then r1 else if 0 < r0 then (r1 + 1) % 44 else (r1 + 43) % 44

/-- 6-bit numbers as bytes. -/
def pack6 (p : Poly) : List Byte := toLE 192 (p.foldr (fun c a => 64 * a + c) 0)

/-- The signature verifies over the message by the public key: 1,312 bytes of key, 2,420 of signature. -/
def verify (pk msg sig : List Byte) : Bool :=
  let seed := subB pk 0 32
  let mu := (shake256 1 ((shake256 1 pk).take 64 ++ [0, 0] ++ msg)).take 64
  let hash := subB sig 0 32
  let raw := (List.range 4).map (fun i => unpack 18 (subB sig (32 + 576 * i) 576))
  let small := raw.all (·.all (fun v => decide (v < 131072 + 130994 ∧ 131072 < v + 130994)))
  match hints (subB sig 2336 84) with
  | none => false
  | some hs =>
    let z := raw.map (fun p => Poly.ntt (p.map (fun v => (131072 + q - v) % q)))
    let c := (inBall hash).ntt
    let w := (List.range 4).map (fun r =>
      let az := (List.range 4).foldl (fun a s => Poly.add a (Poly.mul (matrixAt seed r s) (z.getD s []))) (List.replicate 256 0)
      let t1 := (unpack 10 (subB pk (32 + 320 * r) 320)).map (fun v => v * 8192 % q)
      let v := Poly.unNtt (Poly.sub az (Poly.mul c (Poly.ntt t1)))
      pack6 (((List.range 256).zip v).map (fun e => useHint ((hs.getD r []).contains e.1) e.2)))
    small && decide (pk.length = 1312 ∧ sig.length = 2420) && (shake256 1 (mu ++ w.flatten)).take 32 == hash

end Sys2Proof.Machine.MlDsa
end

