-- ==== Sys2Proof/Machine/Trust.lean ====
section
/-!
DEFINITION. Trust.lean: flash, patch slots, host images, certificates, reports and the debug token (20 R451 to R459, 15 R371
and R372).
-/
namespace Sys2Proof.Machine

/-! ## Flash -/

/-- A byte of the flash; erased bytes read 0xFF. -/
def Hw.flashByte (h : Hw) (a : Nat) : Byte := SMap.get 0xFF h.boot.flash a
def Hw.flashBytes (h : Hw) (a : Nat) : Nat → List Byte
  | 0 => []
  | n + 1 => h.flashByte a :: h.flashBytes (a + 1) n
def flashPuts (m : SMap Byte) (a : Nat) : List Byte → SMap Byte
  | [] => m
  | b :: bs => flashPuts (SMap.set 0xFF m a b) (a + 1) bs
def Hw.flashWrite (h : Hw) (a : Nat) (b : List Byte) : Hw := h.modBoot (fun x => { x with flash := flashPuts x.flash a b })
def Hw.flashErase (h : Hw) (a n : Nat) : Hw :=
  h.modBoot (fun x => { x with flash := x.flash.filter (fun e => !decide (a ≤ e.1 ∧ e.1 < a + n)) })

def slotBase (i : Nat) : Nat := i * 0x18000
def bankBase (b : Nat) : Nat := 0x2000000 + b * 0x2000000

/-- The bytes of a constant of the configuration. -/
def opaqueB (f : Nat → Byte) (n : Nat) : List Byte := (List.range n).map f

/-- A signature by the root key verifies over a message (R452). -/
def rootVerifies (msg sig : List Byte) : Bool := MlDsa.verify (opaqueB Config.rootKey 1312) msg sig

/-! ## Patches (15 R371, R372) -/

/-- A patch image that verifies: its opcode and version. -/
def patchOk (im : List Byte) : Bool :=
  let len := recN im 12 4
  recN im 0 4 == 0x50544843 && recN im 9 3 == 0 && recN im 48 16 == 0 && decide (1 ≤ len ∧ len ≤ 94000) &&
    decide (64 + len + 2420 ≤ im.length) && subB im 16 32 == sha3 (subB im 64 len) &&
    rootVerifies (sha3 (subB im 0 (64 + len))) (subB im (64 + len) 2420)

/-- PATCH_INSTALL refuses a protected handler and another command-set version. -/
def patchRefused (im : List Byte) : Bool :=
  [0x0D01, 0x0D02, 0x0D03, 0x0002].contains (recN im 4 2) || recN im 8 1 != 1

/-- A patch slot's image as far as its header says, and whether the slot is empty. -/
def Hw.slotImage (h : Hw) (i : Nat) : List Byte := h.flashBytes (slotBase i) (64 + min 94000 (leNat (h.flashBytes (slotBase i + 12) 4)) + 2420)
def Hw.slotEmpty (h : Hw) (i : Nat) : Bool := (h.flashBytes (slotBase i) 64).all (· == 0xFF)
def Hw.slotOk (h : Hw) (i : Nat) : Bool := !h.slotEmpty i && patchOk (h.slotImage i) && !patchRefused (h.slotImage i)
def Hw.slotOpcode (h : Hw) (i : Nat) : Nat := leNat (h.flashBytes (slotBase i + 4) 2)
def Hw.slotVer (h : Hw) (i : Nat) : Nat := leNat (h.flashBytes (slotBase i + 6) 2)

def Hw.patchBad (h : Hw) (slot reason : Nat) : Hw :=
  h.err 0x15 0 (srcOf 8 0x18 0) none none [(40, 1, slot), (41, 1, reason)]

/-- Every slot is verified: the highest PVER of an opcode is in force, ties to the lower slot; one held out after a crash
leaves its opcode to the ROM (18 R423). A slot that fails is reported. -/
def Hw.verifyPatches (h : Hw) : Hw :=
  let slots := List.range 12
  let ok := slots.filter h.slotOk
  let wins (i : Nat) : Bool := ok.all (fun j => h.slotOpcode j != h.slotOpcode i ||
    decide (h.slotVer j < h.slotVer i ∨ (h.slotVer j = h.slotVer i ∧ i ≤ j)))
  let best := ok.filter (fun i => wins i)
  let inForce := best.filter (fun i => !h.clerk.heldOut.contains i)
  let mask (l : List Nat) : Nat := l.foldl (fun a i => a + 2 ^ i) 0
  let bad := slots.filter (fun i => !h.slotEmpty i && !h.slotOk i)
  let meas := inForce.foldl (fun m i =>
    SMap.set [] m (1 + i) (sha3 (h.flashBytes (slotBase i) (64 + leNat (h.flashBytes (slotBase i + 12) 4)))))
    (h.boot.meas.filter (fun e => e.1 == 0))
  let h := h.modClerk (fun c => { c with
    patched := mask inForce, shadowed := mask (ok.filter (fun i => !best.contains i))
    patchOps := inForce.foldl (fun m i => SMap.set 0 m i (h.slotOpcode i)) [] })
  let h := h.modBoot (fun b => { b with meas := meas })
  bad.foldl (fun h i => h.patchBad i 0) h

/-- The handler of an opcode in force is a patch: its slot, as the slots were when they were verified (15 R371). -/
def Hw.patchOf (h : Hw) (opcode : Nat) : Option Nat :=
  (List.range 12).find? (fun i => bitAt h.clerk.patched i && SMap.get 0 h.clerk.patchOps i == opcode)

/-! ## Host images (R451, R452) -/

def Hw.bankHdr (h : Hw) (b : Nat) : List Byte := h.flashBytes (bankBase b) 64
def hdrLen (x : List Byte) : Nat := recN x 12 4
def hdrLoad (x : List Byte) : Nat := recN x 16 8
def hdrEntry (x : List Byte) : Nat := recN x 24 8

/-- The header's own checks. -/
def hdrOk (id : Ident) (x : List Byte) : Bool :=
  recN x 0 4 == 0x474D4948 && recN x 4 1 == 1 && recN x 5 3 == 0 && decide (1 ≤ hdrLen x ∧ hdrLen x ≤ 33000000) &&
    hdrLoad x % 4096 == 0 && decide (0x40000001000 ≤ hdrLoad x ∧ hdrLoad x + hdrLen x ≤ clerkBase id) &&
    decide (hdrLoad x ≤ hdrEntry x ∧ hdrEntry x < hdrLoad x + hdrLen x)

/-- Header and body of a bank, and whether it verifies. -/
def Hw.bankBody (h : Hw) (b : Nat) : List Byte := h.flashBytes (bankBase b) (64 + hdrLen (h.bankHdr b))
def Hw.bankOk (id : Ident) (h : Hw) (b : Nat) : Bool :=
  let x := h.bankHdr b
  hdrOk id x &&
    (let im := h.bankBody b
     subB x 32 32 == sha3 (im.drop 64) && rootVerifies (sha3 im) (h.flashBytes (bankBase b + 64 + hdrLen x) 2420))

/-- The bank that boots: verified, the higher IVER, A on a tie. -/
def Hw.bootBank (id : Ident) (h : Hw) : Option Nat :=
  match h.bankOk id 0, h.bankOk id 1 with
  | true, true => if recN (h.bankHdr 0) 8 4 < recN (h.bankHdr 1) 8 4 then some 1 else some 0
  | true, false => some 0
  | false, true => some 1
  | false, false => none

/-- A bank's body is loaded into DDR5, and its entry, version and measurement are taken. -/
def Hw.loadBank (id : Ident) (h : Hw) (b : Nat) : Hw :=
  let x := h.bankHdr b
  let im := h.bankBody b
  let h := (h.ncWrite id hintClerk false (hdrLoad x) (im.drop 64)).2
  h.modBoot (fun y => { y with
    bank := b, iver := recN x 8 4, entry := hdrEntry x, booted := true, meas := SMap.set [] y.meas 0 (sha3 im) })

/-! ## Identity words -/

/-- The serial number's 16 bytes. -/
def serialB : List Byte := toLE 16 Config.serial.toNat

def asciiB (n : Nat) (s : List Nat) : List Byte := subB (s.map (fun c => BitVec.ofNat 8 c)) 0 n

/-- The part number of Table 00-1: WZ-CP12-80-1T and its three siblings. -/
def partB (id : Ident) : List Byte :=
  asciiB 16 ([0x57, 0x5A, 0x2D, 0x43, 0x50, 0x31, 0x32, 0x2D] ++ (if id.tiles80 then [0x38, 0x30] else [0x37, 0x32]) ++
    [0x2D, if id.ddr4T then 0x34 else 0x31, 0x54])

/-- HUB.ID and DIE.ID (11 Table 11-3). -/
def hubId (id : Ident) : Nat := id.hub.1 % 256 * 2 ^ 24 + id.hub.2 % 256 * 2 ^ 16 + 0x02 * 256
def dieId (id : Ident) (d : Nat) : Nat := (id.die d).letter % 256 * 2 ^ 24 + (id.die d).digit % 256 * 2 ^ 16 + 0x01 * 256 + d
/-- Steppings of Table 11-2. -/
def hubListed (id : Ident) : Bool := id.hub == (0x41, 2) || id.hub == (0x41, 3)
def DieMake.listed (m : DieMake) : Bool := m.letter == 0x42 && (m.digit == 0 || m.digit == 1)
/-- DIE.FEATURE and HUB.FEATURE: LEVEL 0x01, FEATURES 0xF (11 R273). -/
def dieFeature : Nat := 0xF01
/-- HUB.PKG_FEATURE (11 R274): zero until boot has read the words, and with no field die in service. -/
def Hw.pkgFeature (h : Hw) : Nat :=
  if h.sites ≠ [] ∧ (List.range 8).any h.dieUp then 0xFF01 else 0

/-- HUB.DIE_STATE. -/
def Hw.dieState (h : Hw) : Nat := (List.range 8).foldl (fun a d => a + SMap.get 0 h.dieSt d % 16 * 16 ^ d) 0

/-- CLERK.INFO (15 Table 15-12). -/
def Hw.clerkInfo (h : Hw) : Nat :=
  (if h.boot.phase = 9 then 2 else if h.boot.phase = 8 then 1 else 0) * 2 ^ 60 + h.clerk.bg.length % 16 * 2 ^ 56 +
    h.clerk.patched % 4096 * 2 ^ 28 + h.clerk.shadowed % 4096 * 2 ^ 16 + 1

/-- The identity record (15 Table 15-3); the words of a die that the hub has not met at training read zero
(notes/assumptions/71). -/
def Hw.identity (id : Ident) (h : Hw) : List Byte :=
  let ts := (List.range 80).filter (h.present id)
  let enabled := if id.tiles80 then 80 else 72
  let failed := (List.range 16).foldl (fun a k => a + (if (h.stack k).st = .failed then 2 ^ k else 0)) 0
  let head := mkRec 256 [(32, 1, 1), (33, 1, enabled), (34, 10, ts.foldl (fun a g => a + 2 ^ g) 0),
    (44, 4, if id.ddr4T then 4096 else 1024), (48, 8, hubId id), (56, 8, h.pkgFeature),
    (64, 64, (List.range 8).foldl (fun a d => a + (if h.dieMet d then dieId id d else 0) * 2 ^ (64 * d)) 0),
    (128, 64, (List.range 8).foldl (fun a d => a + (if h.dieMet d then dieFeature else 0) * 2 ^ (64 * d)) 0), (192, 8, h.dieState), (200, 2, failed),
    (202, 2, h.boot.dimms)]
  overlay head 0 (serialB ++ partB id) ++
    (List.range 128).flatMap (fun i => (toLE 6 (Config.mac i).toNat).reverse)

/-! ## Certificate and report (R455, R456) -/

def certBytes (id : Ident) : List Byte :=
  mkRec 8 [(0, 4, 0x54524543), (4, 1, 1)] ++ serialB ++ partB id ++ toLE 8 Config.certTime.toNat ++ List.replicate 16 0 ++
    opaqueB Config.deviceKey 1312 ++ opaqueB Config.certSign 2420

/-- The attestation report over a nonce (Table 20-6). -/
def Hw.report (h : Hw) (nonce : List Byte) : List Byte :=
  let flags := (if h.boot.unlocked then 1 else 0) + (if h.boot.retained then 2 else 0)
  let m (k : Nat) : List Byte := subB (SMap.get [] h.boot.meas k) 0 32
  let body := mkRec 8 [(0, 4, 0x54535441), (4, 1, 1), (5, 1, flags)] ++ subB nonce 0 32 ++ serialB ++ toLE 8 h.bellNs ++ opaqueB Config.romHash 32 ++ m 0 ++
    (List.range 12).flatMap (fun i => m (1 + i)) ++ toLE 8 h.pkgFeature ++ toLE 8 dieFeature ++
    (List.range 8).flatMap (fun d => toLE 8 (if h.dieMet d then dieFeature else 0)) ++ toLE 8 h.dieState ++ toLE 8 h.clerkInfo ++ List.replicate 32 0
  let hash := sha3 body
  body ++ (List.range 2420).map (Config.deviceSign hash)

/-! ## Debug unlock (R457, R458) -/

/-- UNLOCK_CHALLENGE: the current challenge, while fewer than eight tokens have been rejected. -/
def unlockChallenge (h : Hw) : Hw :=
  if h.boot.fails < 8 ∧ !h.inReset then { h with out := h.out ++ [Outp.challenge h.boot.challenge] } else h

/-- A token that this module accepts. -/
def Hw.tokenOk (h : Hw) (t : List Byte) : Bool :=
  t.length == 2484 && recN t 0 4 == 0x4B4F5444 && recN t 4 1 == 1 && subB t 8 16 == serialB &&
    subB t 24 32 == sha3 (opaqueB Config.deviceKey 1312) && recN t 56 8 == h.boot.challenge.toNat &&
    rootVerifies (sha3 (t.take 64)) (t.drop 64)

/-- UNLOCK_TOKEN: accepted, its scopes added to those open already, or counted and answered by a fresh challenge. -/
def unlockToken (t : List Byte) (h : Hw) : Hw :=
  if 8 ≤ h.boot.fails ∨ h.inReset then h
  else if h.tokenOk t then h.modBoot (fun b => { b with unlocked := true, scopes := b.scopes ||| recN t 5 1 % 16 })
  else
    let (c, h) := h.draw
    h.modBoot (fun b => { b with fails := b.fails + 1, challenge := c })

/-! ## Flash operations (R459) -/

def clerkReg (off : Nat) : Nat := blkBase .clerk 0 + off
def flashCtrl : Nat := clerkReg 0x40108
/-- The bank that did not boot; B where none did. -/
def Hw.freeBank (h : Hw) : Nat := if h.boot.booted && h.boot.bank == 1 then 0 else 1

/-- A write of FLASH_CTRL: ERR clears by 1, OP and PAGE while idle, GO starts OP. -/
def Hw.flashCtrlWrite (h : Hw) (hart v : Nat) : Hw :=
  let h := if bitAt v 61 then h.setRegF flashCtrl 61 1 0 else h
  if h.boot.busy then
    if fld v 56 2 ≠ h.regF flashCtrl 56 2 ∨ fld v 0 13 ≠ h.regF flashCtrl 0 13 then
      h.err 0x01 0 (srcHart hart) none (some flashCtrl) [(40, 8, v), (48, 8, h.reg flashCtrl)]
    else h
  else
    let h := (h.setRegF flashCtrl 56 2 (fld v 56 2)).setRegF flashCtrl 0 13 (fld v 0 13)
    if bitAt v 63 then h.modBoot (fun b => { b with busy := true, op := some (fld v 56 2, fld v 0 13) }) else h

/-- FLASH_PROGRAM and FLASH_ERASE: a write of FLASH_CTRL whose OP is the row's. -/
def flashProgram (hart : Nat) (v : Word) (h : Hw) : Hw := if fld v.toNat 56 2 = 0 then h.flashCtrlWrite hart v.toNat else h
def flashEraseCmd (hart : Nat) (v : Word) (h : Hw) : Hw := if fld v.toNat 56 2 = 1 then h.flashCtrlWrite hart v.toNat else h

/-- The page buffer. -/
def Hw.flashBuf (h : Hw) : List Byte := (List.range 512).flatMap (fun i => toLE 8 (h.reg (blkBase .clerk 0 + 0x80000 + 8 * i)))

/-- FLASH_OP_DONE: the operation ends; `ok` says that the flash took it and a program's read-back agreed. -/
def flashOpDone (ok : Bool) (h : Hw) : Hw :=
  match h.boot.op with
  | none => h
  | some (op, page) =>
    let a := bankBase h.freeBank + page * 4096
    let h := h.modBoot (fun b => { b with busy := false, op := none })
    let fail := h.setRegF flashCtrl 61 1 1
    if !ok then fail
    else if op = 0 then
      if (h.flashBytes a 4096).all (· == 0xFF) then h.flashWrite a h.flashBuf else fail
    else if op = 1 then
      if page % 16 = 0 then h.flashErase (bankBase h.freeBank + page / 16 * 65536) 65536 else fail
    else fail

end Sys2Proof.Machine
end

