-- ==== Sys2Proof/Machine/Boot.lean ====
section
/-!
DEFINITION. Boot.lean: the boot sequence, the lamp bays, resets as events and the time that passes when nothing is commanded
(20 R445 to R453 and R458, 21 R463 to R472).
-/
namespace Sys2Proof.Machine

/-! ## Lamp bays (21 R468, R469) -/

def Hw.modLamp (h : Hw) (n : Nat) (f : Lamp → Lamp) : Hw := h.modBoot (fun b => { b with lamps := SMap.mod Lamp.init b.lamps n f })

/-- The 32 links of the four ports a lamp feeds. -/
def lampLinks (n : Nat) : List Nat := (List.range 32).map (fun i => 32 * n + i)

/-- A dark lamp in a closed bay starts up. -/
def Hw.startLamp (h : Hw) (n : Nat) : Hw :=
  if (h.lamp n).st = 1 ∧ !(h.lamp n).open_ then h.modLamp n (fun l => { l with st := 2, phase := 1 }) else h
/-- Boot step 6 has begun or is past: lamps start up by themselves. -/
def Hw.lampsRun (h : Hw) : Bool := h.boot.phase == 7 || h.boot.phase == 8
def Hw.startLamps (h : Hw) : Hw := if h.lampsRun then (List.range 4).foldl Hw.startLamp h else h

def lampWarmed (n : Nat) (h : Hw) : Hw :=
  if (h.lamp n).phase = 1 then h.modLamp n (fun l => { l with st := 3, phase := 2 }) else h
def lampCalibrated (n : Nat) (h : Hw) : Hw :=
  if (h.lamp n).phase = 2 then h.modLamp n (fun l => { l with st := 4, phase := 3 }) else h

/-- Carters relock PCS on the lit ports. -/
def Hw.relock (h : Hw) (n : Nat) : Hw :=
  if (h.lamp n).st = 4 ∧ (h.lamp n).phase = 0 then (lampLinks n).foldl Hw.linkGain h else h

/-- The accelerator side runs again: dark lamps start up. -/
def Hw.accelOn (h : Hw) : Hw := ((h.modBoot (fun b => { b with fallow := 0 })).startLamps)

/-- Background commands that waited for the accelerator side complete, with a status. -/
def Hw.fallowDone (h : Hw) (st : Nat) : Hw :=
  h.clerk.bg.foldl (fun h c => if c.onFallow && !c.ready then h.cmdReady c.id (if recN c.rcd 0 2 = 0x0604 then st else 0) [] else h) h

/-- A waking module is out of fallow once its lamps have settled: FALLOW_EXIT's reply is due (17 R401). -/
def Hw.wakeDone (h : Hw) : Hw :=
  if h.boot.fallow = 3 ∧ (List.range 4).all (fun n => (h.lamp n).phase == 0) then
    let h := (List.range 4).foldl Hw.relock h.accelOn
    (h.fallowDone (if h.boot.wakeBad then 0x18 else 0)).modBoot (fun b => { b with wakeBad := false })
  else h

/-- LAMP_LATCH_OPEN: the lamp is dark and its ports go down; a wake does not wait for it. -/
def lampLatchOpen (n : Nat) (h : Hw) : Hw :=
  if 4 ≤ n then h
  else
    let h := h.modLamp n (fun l => { l with open_ := true, st := if l.st = 0 then 0 else 1, phase := 0, seen := true })
    ((lampLinks n).foldl Hw.linkLost h).wakeDone

/-- LAMP_LATCH_CLOSE of an open bay that is empty (kind 0), or holds a lamp that is no WZ-CPL-4 or fails its self-check (1), or a good
one (2), with the temperature and lit hours read from it. -/
def lampLatchClose (n kind temp hours : Nat) (h : Hw) : Hw :=
  if 4 ≤ n ∨ !(h.lamp n).open_ then h
  else
    let h := h.modLamp n (fun l => { l with
      open_ := false, st := if kind = 0 then 0 else if kind = 1 then 5 else 1, phase := 0, temp := temp, hours := hours, seen := true })
    if h.lampsRun ∧ h.boot.fallow = 0 then h.startLamp n else h

/-- LAMP_READY: the lamp's ports come up. -/
def lampReady (n : Nat) (h : Hw) : Hw :=
  if (h.lamp n).phase = 3 then
    let h := h.modLamp n (fun l => { l with phase := 0 })
    (if h.boot.fallow = 0 then h.relock n else h).wakeDone
  else h

/-! ## Power-on and module reset -/

/-- POWER_ON: the watchman's converter powers up; boot step 1 begins (R445). Flash, fitted parts and repairs stay. -/
def powerOn (h : Hw) : Hw :=
  let (c, h) := h.draw
  let lamps := h.boot.lamps.map (fun e => (e.1, { e.2.dark with seen := false }))
  let h := h.restart 1 0 false
  { h with
    regs := [], localNs := 0, power := Power.init
    boot := { h.boot with challenge := c, lamps := lamps, mrst := false, extest := false } }

/-- MRST_N_ASSERT: the input has been held for 10 µs (21 R472). -/
def mrstNAssert (h : Hw) : Hw := (h.moduleReset 2).modBoot (fun b => { b with mrst := true })
def mrstNRelease (h : Hw) : Hw := h.modBoot (fun b => { b with mrst := false })

/-- EXTEST_ENTRY: an instruction that drives pins, once boundary scan is unlocked (R458), while the port answers more than
BYPASS (R457). -/
def Hw.extestOk (h : Hw) : Bool := h.boot.unlocked && bitAt h.boot.scopes 2 && decide (h.boot.fails < 8)
def extestEntry (h : Hw) : Hw := if h.extestOk then (h.moduleReset 2).modBoot (fun b => { b with extest := true }) else h
def extestExit (h : Hw) : Hw := h.modBoot (fun b => { b with extest := false })

/-! ## Boot steps (R449) -/

/-- The clerk and the module are free to boot. -/
def Hw.bootFree (h : Hw) (step : Nat) : Bool := h.boot.phase == step && h.power.mainSw && !h.inReset

def Hw.toPhase (h : Hw) (p : Nat) : Hw := h.modBoot (fun b => { b with phase := p })

/-- A boot-hold record (18 Table 18-3) and the hold itself. -/
def Hw.bootHold (h : Hw) (kind : Nat) (which : List Nat) : Hw :=
  (which.foldl (fun h x => h.err 0x18 0 (srcOf 8 0x18 0) none none [(40, 1, kind), (41, 1, x)]) h).toPhase 9

/-- BOOT_CLERK_START: step 2; `dimms` are the slots whose DIMM has the wrong capacity (09 R228). -/
def bootClerkStart (dimms : Nat) (h : Hw) : Hw :=
  if !h.bootFree 2 then h
  else
    let h := h.modBoot (fun b => { b with dimms := dimms % 65536 })
    if dimms % 65536 = 0 then h.toPhase 3 else h.bootHold 2 ((List.range 16).filter (bitAt dimms))

/-- BOOT_VERIFY_IMAGES: step 3 (R451). -/
def bootVerifyImages (id : Ident) (h : Hw) : Hw :=
  if !h.bootFree 3 then h
  else
    let h := h.verifyPatches
    match h.bootBank id with
    | some b => (h.loadBank id b).toPhase 4
    | none => ((h.patchBad 0x20 0).patchBad 0x21 0).toPhase 4

/-- The record of a crash that the watchman holds (18 R425). -/
def Hw.reportCrash (h : Hw) : Hw :=
  if bitAt (h.crashF 5 1) 0 then
    h.err 0x16 0 (srcOf 8 0x1A 0) none none [(40, 1, h.crashF 6 1), (41, 1, h.crashF 7 1), (48, 8, h.crashF 24 8)]
  else h

/-- Sites train, hub links first (11 R270): a link that fails its 8 attempts is out of service at both ends, with its die held
where it is a hub link. A held die's hub link trains too; a side link trains where both its dies are in service, and one that
was out of service stays so; one that now fails gives the records of 18 R420. `sides` are the side sites whose training fails; `spares` the spare wires each site has in service
after it. -/
def Hw.trainSites (h : Hw) (sides : Nat) (spares : List Nat) : Hw :=
  let st (d : Nat) : Nat := SMap.get 0 h.dieSt d
  let failed (s : Nat) : Bool := if 32 ≤ s ∨ s % 4 = 0 then (let d := if 32 ≤ s then s - 32 else s / 4; st d == 3 || st d == 5)
    else bitAt sides s || bitAt sides (sitePeer s) || (h.site s).st == 4
  let trains (s : Nat) : Bool := siteUsed s && (decide (32 ≤ s) || s % 4 == 0 || (h.dieUp (s / 4) && h.dieUp (sitePeer s / 4)))
  let newly := (List.range 32).filter (fun s => s % 4 != 0 && decide (s < sitePeer s) && trains s && failed s && (h.site s).st != 4)
  let h := (List.range 40).foldl (fun h s =>
    if trains s then h.modSite s (fun x => if failed s then { Site.init with st := 4, attempts := 8, met := x.met }
      else { Site.init with st := 2, met := true, spares := min (spares.getD s 0) 16 }) else h) h
  newly.foldl Hw.sideOut h

/-- A die's state at boot (Table 11-6): no answer at training, its link failed, then its straps (R264) and stepping (R274). -/
def dieAtBoot (id : Ident) (mute links d : Nat) : Nat :=
  if bitAt mute d then 5
  else if bitAt links d then 3
  else if (id.die d).straps ≠ strapsFor d then 2
  else if (id.die d).listed then 0 else 1

/-- BOOT_DIES_UP: step 4 (11 R274). `mute`: dies that do not answer; `links`: dies whose hub link fails its attempts; `sides`: side
sites whose training fails; `spares`: spare wires each site has in service after training. -/
def bootDiesUp (id : Ident) (mute links sides : Nat) (spares : List Nat) (h : Hw) : Hw :=
  if !h.bootFree 4 then h
  else
    let st (d : Nat) : Nat := dieAtBoot id mute links d
    let h := { h with dieSt := (List.range 8).foldl (fun m d => SMap.set 0 m d (st d)) [] }
    let h := (h.trainSites sides spares).reportCrash
    if !hubListed id then h.bootHold 0 [8]
    else if (List.range 8).all (fun d => !h.dieUp d) then h.bootHold 1 [0]
    else h.toPhase 5

/-- A stack that cannot be trained: failed, and its die held out (09 R227); `phase` as 18 Table 18-3 codes it. -/
def Hw.failStack (h : Hw) (k phase : Nat) : Hw :=
  let h := h.err 0x12 0x10 (srcOf (k / 2) 7 (k % 2)) none none [(40, 1, k), (41, 1, phase)]
  let h := h.modStack k (fun s => { s with st := .failed, entering := 0 })
  if h.dieUp (k / 2) then { h with dieSt := SMap.set 0 h.dieSt (k / 2) 4 } else h

/-- Training reapplies a stack's repair table; the repairs its test then finds needed are applied and recorded
(09 R224, R226). -/
def Hw.trainStack (h : Hw) (k left : Nat) (found : List Repair) : Hw :=
  let tab := SMap.get [] h.boot.repairs k
  (h.modStack k (fun s => { s.reapply tab with hppr := left, repairs := (s.reapply tab).repairs ++ found })).modBoot
    (fun b => { b with repairs := SMap.set [] b.repairs k (tab ++ found) })

/-- BOOT_HBM: step 5. `fail` are the stacks that do not pass; `reps` gives, of each stack, the hard repair rows it has left and
the repairs its test applied: in a retained boot the table is reapplied, nothing is tested and the contents
stay; else training and test overwrite them (R449). -/
def bootHbm (fail : Nat) (reps : List (Nat × List Repair)) (h : Hw) : Hw :=
  if !h.bootFree 5 then h
  else
    let one (h : Hw) (k : Nat) : Hw :=
      if !h.dieUp (k / 2) ∧ SMap.get 0 h.dieSt (k / 2) ≠ 4 then h
      else
        let r := reps.getD k ((h.stack k).hppr, [])
        let h := (if h.boot.retained then h else h.wipeStack k).trainStack k (r.1 % 256) (if h.boot.retained then [] else r.2)
        if bitAt fail k then h.failStack k 0 else h.modStack k (fun s => { s with st := .online })
    let h := (List.range 16).foldl one h
    if (List.range 8).all (fun d => !h.dieUp d) then h.bootHold 1 [0] else h.toPhase 6

/-- BOOT_OPTICS: step 6: the lamps in closed bays are lit and the carters ready. -/
def bootOptics (h : Hw) : Hw :=
  if !h.bootFree 6 then h
  else
    (List.range 4).foldl (fun h n =>
      if 1 ≤ (h.lamp n).st ∧ (h.lamp n).st ≤ 4 ∧ !(h.lamp n).open_ then (h.modLamp n (fun l => { l with st := 4, phase := 0 })).relock n
      else h) (h.toPhase 7)

/-- The boot record (Table 20-4). -/
def Hw.bootRecord (id : Ident) (h : Hw) : List Byte :=
  mkRec 256 [(0, 4, 0x54524F42), (4, 1, 1), (5, 1, h.boot.cause), (6, 1, h.boot.bank),
    (7, 1, h.crashF 5 1 % 2 + (if h.boot.unlocked then 2 else 0)), (8, 8, ddrBytes id), (16, 8, clerkBase id),
    (24, 8, h.boot.firstSeq), (32, 8, h.bellNs), (40, 8, h.pkgFeature), (48, 8, h.clerkInfo)]

/-- A hart leaves reset at ENTRY; one that runs goes on (R453). -/
def Hw.startHart (h : Hw) (i : Nat) : Hw :=
  if h.hartOn i then h else h.modBoot (fun b => { b with harts := SMap.set none b.harts i (some ⟨b.entry, i, ddrBase, 3, 0, 0, []⟩) })

/-- The clerk writes the boot record and releases hart 0 at ENTRY (R453). -/
def Hw.releaseHart0 (id : Ident) (h : Hw) : Hw :=
  if h.boot.booted then
    let h := (h.ncWrite id hintClerk false ddrBase (h.bootRecord id)).2
    h.startHart 0
  else h

/-- BOOT_RELEASE_HARTS: step 7. Without a verified image the module runs and the harts stay. -/
def bootReleaseHarts (id : Ident) (h : Hw) : Hw :=
  if h.bootFree 7 then (h.toPhase 8).releaseHart0 id else h

/-- HART_START: bits of CLERK.HART_START written with 1 start their harts. -/
def hartStart (v : Word) (h : Hw) : Hw :=
  if h.boot.phase = 8 ∧ h.boot.booted ∧ !h.boot.unverified ∧ !h.hostReset then
    ((List.range 64).filter (fun i => decide (0 < i) && bitAt v.toNat i)).foldl Hw.startHart h
  else h

/-- HOST_RESET_RELEASE: every walk is done; the booted bank is verified again and hart 0 released (10 R255, R445), or, where it does
not verify, no hart is until another host reset finds it good. -/
def hostResetRelease (id : Ident) (h : Hw) : Hw :=
  if !h.hostReset then h
  else
    let hr := blkBase .reeve 0 + 8
    let h := (h.setRegF hr 63 1 0).setRegF hr 62 1 0
    if !h.boot.booted then h
    else if h.bankOk id h.boot.bank then ((h.modBoot (fun b => { b with unverified := false })).loadBank id h.boot.bank).releaseHart0 id
    else (h.modBoot (fun b => { b with unverified := true })).patchBad (0x20 + h.boot.bank) 0

/-! ## Fallow reset (R446) -/

/-- Hub links that fail their training at a fallow reset put their dies down (11 R270, R268). -/
def Hw.diesLost (id : Ident) (h : Hw) (links : Nat) : Hw :=
  (List.range 8).foldl (fun h d => if bitAt links d && SMap.get 0 h.dieSt d != 3 && SMap.get 0 h.dieSt d != 5 then h.dieDown id d else h) h

/-- FALLOW_RESET_END: stacks still on their way enter self-refresh, slices are invalidated, the dies are released and trained,
the stacks leave self-refresh and the lit ports relock. `links` are the dies whose hub link fails its training, `sides` the side
sites, `spares` the spare wires each site then has in service. -/
def fallowResetEnd (id : Ident) (links sides : Nat) (spares : List Nat) (h : Hw) : Hw :=
  if h.boot.fallow ≠ 1 then h
  else
    let h := (List.range 16).foldl (fun h k => stackSelfRefreshEntry k h) h
    let h := h.dropSlices
    let h := (List.range 16).foldl (fun h k => if (h.stack k).st = .selfRefresh then h.modStack k (fun s => { s with st := .online }) else h) h
    let h := ((h.diesLost id links).trainSites sides spares).accelOn
    let h := (List.range 4).foldl Hw.relock h
    (h.modPower (fun p => { p with sev := if p.sev = 3 then 0 else p.sev })).fallowDone 0

/-! ## Errors in the clerk's own handler (18 R422 to R424) -/

/-- The 8-byte header of a management datagram: MAGIC, TYPE, a reserved zero and SEQ (R355). -/
def mgmtHdr (typ seq : Nat) : Nat := 0x574D + typ * 2 ^ 16 + seq * 2 ^ 32

/-- Mailboxes with a command in progress receive CANCELLED after a clerk restart; the other clerk work is dropped. -/
def Hw.cancelAll (h : Hw) : Hw :=
  let done (h : Hw) (c : ClerkCmd) : Hw :=
    let rep := mkRec 64 [(0, 3, recN c.rcd 0 3), (4, 4, recN c.rcd 4 4), (8, 2, 0x0D), (10, 2, 0xFFFF)]
    let box (h : Hw) (f : Mbox → Mbox) : Hw := h.modClerk (fun k => { k with boxes := SMap.mod Mbox.init k.boxes c.box f })
    let h := if recN c.rcd 0 2 = 0x0102 then h.modCtx (recN c.rcd 20 2) (fun x => if x.st = 3 then { x with st := 2 } else x) else h
    if c.box = 64 then
      let h := box h (fun b => { b with busy := false, last := 0x0D })
      { h.modClerk (fun k => { k with kept := (⟨c.src, c.seq, rep, []⟩ :: k.kept).take 16 }) with
        out := h.out ++ [Outp.mgmt c.src (mgmtHdr 2 c.seq) rep []] }
    else
      let h := box h (fun b => { b with rep := rep, busy := false, done := true, last := 0x0D })
      let ct := blkBase .clerk 0 + 0x1000 * c.box + 0x80
      if bitAt (recN c.rcd 3 1) 0 then h.msi (h.regF ct 12 6) (h.regF ct 18 2) (h.regF ct 20 3) (h.regF ct 0 11) else h
  let h := (h.clerk.cur.toList ++ h.clerk.bg ++ h.clerk.heldCmds).foldl done h
  h.modClerk (fun k => { k with cur := none, bg := [], heldCmds := [] })

/-- CLERK_HANDLER_ERROR: a decision of the watchman unless a more severe one is in progress. Of a kind (0 lockstep, 1 uncorrectable word, 2 exception, 3 no reply within 10 ms) in the handler of
an opcode, at a clerk program counter. `seq` is the SEQ of the last record written. -/
def clerkHandlerError (id : Ident) (seq kind opcode : Nat) (pc : Word) (h : Hw) : Hw :=
  let late := match h.clerk.cur with
    | some c => decide (c.at_ + 10000000 ≤ h.localNs)
    | none => false
  if h.boot.phase < 3 ∨ h.boot.phase = 0 ∨ (kind = 3 ∧ !late) then h
  else
    let slot := h.patchOf opcode
    let r := mkErr h 0x05 0x80 (srcOf 8 0x18 0) none none [(40, 1, 4)]
    let h := if kind = 1 then h.send r else h
    let again := match h.power.clerkErrAt with
      | some t => decide (h.localNs < t + 60000000000)
      | none => false
    let dec := if again then 2 else 1
    let h := if sevOf dec < h.power.sev then h
      else (h.crashWrite seq 0x10 dec (if kind = 1 then (r.bytes 0 0x05).take 32 else []) opcode slot.isSome pc.toNat).modPower
        (fun p => { p with cause := 0x10 })
    let old := h.errOut.length
    let h :=
      if again then (if h.power.sev < 4 then h.orderlyShutdown id else h)
      else if 3 < h.power.sev then h
      else h.fallowDecision id 3
    let h := h.modClerk (fun c => { c with heldOut := match slot with
      | some i => i :: c.heldOut
      | none => c.heldOut })
    let h := match slot with
      | some i => h.patchBad i 1
      | none => h
    let h := (h.verifyPatches).cancelAll
    { (h.modPower (fun p => { p with clerkErrAt := some h.localNs })) with
      errOut := h.errOut.take old ++ (h.errOut.drop old).map (fun r => { r with nested := true }) }

end Sys2Proof.Machine
end

