-- ==== Sys2Proof/Machine/Clerk.lean ====
section
/-!
DEFINITION. Clerk.lean: mailboxes, the management port, and the checks every command passes (15 R349 to R361).
-/
namespace Sys2Proof.Machine

/-! ## Answers -/

/-- What a command answers: STATUS, DETAIL, reply bytes 16 to 63, and the payload a management reply carries. -/
structure Ans where
  st  : Nat
  det : Nat
  res : List Byte
  pay : List Byte
  deriving DecidableEq, Repr

/-- OK, with results as (offset in the reply, bytes, value). -/
def Ans.ok (fs : List (Nat × Nat × Nat)) : Ans := ⟨0, 0xFFFF, mkRec 48 (fs.map (fun f => (f.1 - 16, f.2.1, f.2.2))), []⟩
def Ans.fail (st : Nat) : Ans := ⟨st, 0xFFFF, [], []⟩
/-- BAD_ARGUMENT, naming a byte of the record; 0x8000 plus an offset names one of the payload. -/
def Ans.bad (off : Nat) : Ans := ⟨3, off, [], []⟩
/-- LENGTH_TOO_SMALL, with the length needed in bytes 16 to 23. -/
def Ans.short (n : Nat) : Ans := ⟨0xC, 0xFFFF, mkRec 48 [(0, 8, n)], []⟩

/-! ## The record (Table 15-1) -/

def cOp (r : List Byte) : Nat := recN r 0 2
def cPaddr (r : List Byte) : Nat := recN r 8 6
def cPwin (r : List Byte) : Nat := fld (recN r 8 8) 48 6
def cWindowed (r : List Byte) : Bool := bitAt (recN r 8 8) 63
def cPlen (r : List Byte) : Nat := recN r 16 4

def clerkOps : List Nat :=
  [0x0001, 0x0002, 0x0003, 0x0101, 0x0102, 0x0103, 0x0104, 0x0201, 0x0202, 0x0203, 0x0301, 0x0302, 0x0303, 0x0304, 0x0305,
    0x0306, 0x0401, 0x0402, 0x0403, 0x0404, 0x0501, 0x0502, 0x0601, 0x0602, 0x0603, 0x0604, 0x0701, 0x0702, 0x0703, 0x0704,
    0x0705, 0x0801, 0x0802, 0x0901, 0x0A01, 0x0A02, 0x0A03, 0x0A04, 0x0B01, 0x0B02, 0x0C01, 0x0D01, 0x0D02, 0x0D03, 0x0E01,
    0x0E02]

/-- The commands a mailbox bound to a context may issue (Table 15-5, Scope C). -/
def scopeC : List Nat :=
  [0x0102, 0x0103, 0x0104, 0x0203, 0x0301, 0x0302, 0x0303, 0x0304, 0x0305, 0x0306, 0x0401, 0x0402, 0x0403, 0x0404, 0x0501,
    0x0502, 0x0601, 0x0704, 0x0901]

/-- Background commands (Table 15-5, mark B; a fallow or tile RESET by R365). -/
def backOps : List Nat :=
  [0x0102, 0x0202, 0x0603, 0x0604, 0x0703, 0x0901, 0x0A01, 0x0A02, 0x0A03, 0x0A04, 0x0D02, 0x0D03]
def isBack (r : List Byte) : Bool := backOps.contains (cOp r) || (cOp r == 0x0C01 && decide (2 ≤ recN r 20 1))

/-- The argument fields of a command, each with whether its value is in range. -/
def argsOf (r : List Byte) : List (Nat × Nat × Bool) :=
  let f (o n : Nat) (p : Nat → Bool) : Nat × Nat × Bool := (o, n, p (recN r o n))
  let le (o n m : Nat) : Nat × Nat × Bool := f o n (fun v => decide (v ≤ m))
  let any (o n : Nat) : Nat × Nat × Bool := (o, n, true)
  let ctx (o : Nat) : Nat × Nat × Bool := le o 2 4095
  let q (o : Nat) : Nat × Nat × Bool := le o 4 0xFFFFF
  match cOp r with
  | 0x0002 => [any 20 32]
  | 0x0101 => [f 20 2 (fun v => decide (v ≤ 4095 ∨ v = 0xFFFF)), any 22 10]
  | 0x0102 => [ctx 20]
  | 0x0103 => [ctx 20]
  | 0x0104 => [ctx 20, any 22 10]
  | 0x0201 => [ctx 20, le 22 1 63, le 23 1 63, any 24 6, any 32 8]
  | 0x0202 => [ctx 20, le 22 1 63]
  | 0x0203 => [ctx 20, le 22 1 63]
  | 0x0301 => [q 20, ctx 24, le 26 1 3, f 27 1 (fun v => decide (4 ≤ v ∧ v ≤ 16)), le 28 1 63,
      f 30 6 (fun v => v % entrySize (recN r 26 1) == 0), q 36]
  | 0x0302 => [q 20]
  | 0x0303 => [q 20]
  | 0x0304 => [q 20]
  | 0x0305 => [q 20]
  | 0x0306 => [q 20]
  | 0x0401 => [any 20 4, ctx 24, le 26 1 63, any 27 1, any 28 6, le 34 1 63, any 36 6, any 44 4]
  | 0x0402 => [any 20 4]
  | 0x0403 => [any 20 4]
  | 0x0404 => [any 20 4]
  | 0x0501 => [f 20 2 (fun v => decide (v ≤ 4095 ∨ v = 0xFFFF)), f 22 1 (fun v => decide (1 ≤ v ∧ v ≤ 0xC)), le 23 1 1, ctx 24,
      any 28 4, any 32 8, any 40 8, any 48 4]
  | 0x0502 => [ctx 20]
  | 0x0601 => [f 20 2 (fun v => decide (v ≤ 4095 ∨ v = 0xFFFF)), le 22 1 4, le 23 1 4]
  | 0x0602 => [f 20 2 (fun v => decide (v = 0 ∨ (2000 ≤ v ∧ v ≤ 6800))), f 22 2 (fun v => decide (v = 0 ∨ (200 ≤ v ∧ v ≤ 640)))]
  | 0x0701 => [le 20 2 511, le 22 1 1]
  | 0x0702 => [le 20 1 2]
  | 0x0704 => [ctx 20]
  | 0x0801 => [f 20 2 (fun v => decide (1 ≤ v ∧ v ≤ 4096))]
  | 0x0802 => [any 24 8]
  | 0x0901 => [ctx 20, le 22 1 63, le 23 1 63, f 24 6 (fun v => v % 32 == 0), f 32 6 (fun v => v % 2048 == 0), any 40 8]
  | 0x0A01 => [le 20 1 7, le 21 1 1]
  | 0x0A02 => [le 20 1 7, le 21 1 1]
  | 0x0A03 => [le 20 1 7, le 21 1 1, le 22 1 1]
  | 0x0A04 => [le 20 1 7, le 21 1 1, le 22 1 3, le 23 1 31, any 24 1, any 26 4, any 30 2]
  | 0x0B01 => [le 20 1 3, any 24 4]
  | 0x0B02 => [any 24 8]
  | 0x0C01 => [le 20 1 3, if recN r 20 1 = 3 then le 21 1 79 else any 21 1]
  | 0x0D02 => [le 20 1 11]
  | 0x0D03 => [le 20 1 11]
  | 0x0E01 => [f 20 1 (fun v => decide (1 ≤ v ∧ v ≤ 63)), le 21 1 1, ctx 22]
  | 0x0E02 => [le 20 2 0x7FFF]
  | _ => []

/-- The byte offset of the first failing field of a record (R358 step 5): reserved bits, then arguments and reserved bytes. -/
def badField (mgmt : Bool) (r : List Byte) : Option Nat :=
  let as := argsOf r
  if recN r 3 1 / 2 ≠ 0 then some 3
  else if !mgmt && fld (recN r 8 8) 54 9 != 0 then some 8
  else if mgmt && decide (8192 < cPlen r) then some 16
  else (List.range 44).findSome? (fun i =>
    let o := 20 + i
    match as.find? (fun a => decide (a.1 ≤ o ∧ o < a.1 + a.2.1)) with
    | some a => if a.1 = o ∧ !a.2.2 then some o else none
    | none => if recN r o 1 ≠ 0 then some o else none)

/-! ## Objects (R352, R353, R358) -/

/-- The context or queue that a 2-byte or 4-byte field names (R361). -/
def ctxField (v : Nat) : Nat := v % 4096
def queueField (v : Nat) : Nat := v % 2 ^ 20

/-- Context that owns a queue which exists. -/
def Hw.queueCtx (id : Ident) (h : Hw) (q : Nat) : Option Nat := if (h.q id q).st = 0 then none else some (h.q id q).ctx

/-- The contexts a command names, by itself or through a queue, model or entry that exists. -/
def Hw.ctxsOf (id : Ident) (h : Hw) (r : List Byte) : List Nat :=
  let op := cOp r
  let c := recN r 20 2
  if op = 0x0101 ∨ op = 0x0601 then (if c = 0xFFFF then [] else [ctxField c])
  else if [0x0102, 0x0103, 0x0104, 0x0201, 0x0202, 0x0203, 0x0704, 0x0901].contains op then [ctxField c]
  else if op = 0x0301 ∨ op = 0x0401 then [ctxField (recN r 24 2)]
  else if 0x0302 ≤ op ∧ op ≤ 0x0306 then (h.queueCtx id (queueField (recN r 20 4))).toList
  else if 0x0402 ≤ op ∧ op ≤ 0x0404 then ((h.modelOf (recN r 20 4)).map (·.ctx)).toList
  else if op = 0x0501 then (if bitAt (recN r 23 1) 0 then [] else [ctxField (recN r 24 2)])
  else if op = 0x0502 then (if h.eGlobal c then [] else [h.eCtx c])
  else if op = 0x0E01 then (if recN r 21 1 = 1 then [ctxField (recN r 22 2)] else [])
  else []

/-- The objects a command names: (0 context, 1 window, 2 queue, 3 model, 4 bell book entry, 5 stack, 6 shard, 7 patch slot). -/
def Hw.objectsOf (id : Ident) (h : Hw) (r : List Byte) : List (Nat × Nat) :=
  let op := cOp r
  let c := recN r 20 2
  let ctxs := if (0x0302 ≤ op ∧ op ≤ 0x0404 ∧ op ≠ 0x0401) ∨ op = 0x0502 then [] else (h.ctxsOf id r).map (fun c => (0, c))
  let more : List (Nat × Nat) :=
    if 0x0201 ≤ op ∧ op ≤ 0x0203 then [(1, 64 * c + recN r 22 1)]
    else if op = 0x0301 then [(1, 64 * recN r 24 2 + recN r 28 1), (2, recN r 36 4)] ++ (if recN r 20 4 = 0xFFFFF then [] else [(2, recN r 20 4)])
    else if 0x0302 ≤ op ∧ op ≤ 0x0306 then [(2, recN r 20 4)]
    else if op = 0x0401 then [(3, recN r 20 4), (1, 64 * recN r 24 2 + recN r 26 1), (1, 64 * recN r 24 2 + recN r 34 1)]
    else if 0x0402 ≤ op ∧ op ≤ 0x0404 then [(3, recN r 20 4)]
    else if op = 0x0501 then (if c = 0xFFFF then [] else [(4, c)])
    else if op = 0x0502 then [(4, c)]
    else if op = 0x0901 then [(1, 64 * c + recN r 22 1), (1, 64 * c + recN r 23 1)]
    else if 0x0A01 ≤ op ∧ op ≤ 0x0A04 then [(5, 2 * recN r 20 1 + recN r 21 1)]
    else if op = 0x0D02 ∨ op = 0x0D03 then [(7, recN r 20 1)]
    else []
  ctxs ++ more

/-- A background command holds one of the objects (R352). -/
def Hw.objHeld (id : Ident) (h : Hw) (r : List Byte) : Bool :=
  let os := h.objectsOf id r
  h.clerk.bg.any (fun b => (h.objectsOf id b.rcd).any (fun o => os.contains o))

def Hw.mbox (h : Hw) (m : Nat) : Mbox := SMap.get Mbox.init h.clerk.boxes m
def Hw.modBox (h : Hw) (m : Nat) (f : Mbox → Mbox) : Hw := h.modClerk (fun c => { c with boxes := SMap.mod Mbox.init c.boxes m f })

/-- Step 4 of R358: the scope of a bound mailbox (R353, R354, R359), or the groups the management port may use (R355). -/
def Hw.denied (id : Ident) (h : Hw) (m : Nat) (r : List Byte) : Bool :=
  let op := cOp r
  if m = 64 then op == 0x0E01 || op == 0x0E02 || !bitAt h.clerk.scope (op / 256)
  else match (h.mbox m).bound with
    | none => false
    | some c =>
      !scopeC.contains op || (h.ctxsOf id r).any (· != c) || (op == 0x0501 && bitAt (recN r 23 1) 0) ||
        (op == 0x0502 && h.eGlobal (recN r 20 2)) || (op == 0x0601 && recN r 20 2 == 0xFFFF) ||
        (cPlen r != 0 && !cWindowed r)

/-- A die whose stacks the bring-up commands reach: in service, or held for a failed stack. -/
def Hw.stackThere (h : Hw) (d : Nat) : Bool := h.dieUp d || SMap.get 0 h.dieSt d == 4

/-- Step 6 of R358: a named object does not exist. -/
def Hw.absent (id : Ident) (h : Hw) (r : List Byte) : Bool :=
  let op := cOp r
  let free (c : Nat) : Bool := (h.ctx c).st == 0
  if [0x0102, 0x0104, 0x0201, 0x0202, 0x0203, 0x0301, 0x0401, 0x0501, 0x0601, 0x0704, 0x0901, 0x0E01].contains op ∧
      (h.ctxsOf id r).any free then true
  else if op = 0x0301 then recN r 26 1 != 3 && (h.q id (recN r 36 4)).st == 0
  else if 0x0302 ≤ op ∧ op ≤ 0x0305 then (h.q id (recN r 20 4)).st == 0
  else if op = 0x0306 then (h.qp (recN r 20 4)).isNone
  else if 0x0402 ≤ op ∧ op ≤ 0x0404 then (h.modelOf (recN r 20 4)).isNone
  else if 0x0A01 ≤ op ∧ op ≤ 0x0A04 then !h.stackThere (recN r 20 1)
  else if op = 0x0C01 ∧ recN r 20 1 = 3 then !h.present id (recN r 21 1)
  else false

/-- Commands of R480 on a context that is faulted or tearing down. -/
def Hw.notNow (id : Ident) (h : Hw) (r : List Byte) : Bool :=
  [0x0104, 0x0201, 0x0301, 0x0305, 0x0401, 0x0501, 0x0704].contains (cOp r) &&
    (h.ctxsOf id r).any (fun c => (h.ctx c).st == 2 || (h.ctx c).st == 3)

/-- Steps 1 to 7 of R358, with the boot hold and the boot itself (R363, 20 R450). The package lacks no feature (step 8). -/
def Hw.checkCmd (id : Ident) (h : Hw) (m : Nat) (r : List Byte) : Option Ans :=
  let op := cOp r
  let early := [0x0001, 0x0002, 0x0003, 0x0801, 0x0802].contains op
  if !clerkOps.contains op then some (.fail 1)
  else if recN r 2 1 ≠ 1 then some (.fail 2)
  else if h.boot.phase = 9 ∧ !early ∧ !(op = 0x0C01 ∧ recN r 20 1 = 0) then some (.fail 0xE)
  else if h.boot.phase < 8 ∧ !early then some (.fail 9)
  else if h.denied id m r then some (.fail 4)
  else match badField (m == 64) r with
    | some o => some (.bad o)
    | none =>
      if h.absent id r then some (.fail 7)
      else if h.objHeld id r ∨ h.notNow id r then some (.fail 9)
      else none

/-! ## Replies (R357) -/

/-- The reply record. -/
def replyRec (r : List Byte) (a : Ans) : List Byte :=
  mkRec 16 [(0, 3, recN r 0 3), (4, 4, recN r 4 4), (8, 2, a.st), (10, 2, a.det)] ++ subB a.res 0 48

/-- A command's reply: REP is written whole, DONE set and BUSY cleared, and the MSI sent; a management reply leaves by its
port and is kept (R351, R355). -/
def Hw.reply (h : Hw) (c : ClerkCmd) (a : Ans) : Hw :=
  let rep := replyRec c.rcd a
  if c.box = 64 then
    let h := h.modBox 64 (fun b => { b with busy := false, last := a.st })
    { h.modClerk (fun k => { k with kept := (⟨c.src, c.seq, rep, a.pay⟩ :: k.kept).take 16 }) with
      out := h.out ++ [Outp.mgmt c.src (mgmtHdr 2 c.seq) rep a.pay] }
  else
    let h := h.modBox c.box (fun b => { b with rep := rep, busy := false, done := true, last := a.st })
    let ct := blkBase .clerk 0 + 0x1000 * c.box + 0x80
    if bitAt (recN c.rcd 3 1) 0 then h.msi (h.regF ct 12 6) (h.regF ct 18 2) (h.regF ct 20 3) (h.regF ct 0 11) else h

/-! ## Mailboxes (R350 to R352) -/

/-- MAILBOX_GO: a write of MB_CTRL; with GO = 1 it submits REQ, or is ignored and counted. -/
def mailboxGo (m : Nat) (v : Word) (h : Hw) : Hw :=
  if 64 ≤ m ∨ h.inReset then h
  else
    let ct := blkBase .clerk 0 + 0x1000 * m + 0x80
    let h := h.setReg ct (v.toNat &&& 0x7FF7FF)
    if !bitAt v.toNat 63 then h
    else if (h.mbox m).busy ∨ (h.mbox m).done then h.bump (ct + 8) 0 16 1
    else h.modBox m (fun b => { b with go := true })

/-- MAILBOX_FREE. -/
def mailboxFree (m : Nat) (h : Hw) : Hw := if m < 64 then h.modBox m (fun b => { b with done := false }) else h

/-- The clerk answers: from the end of step 2, with the module powered and not held in reset. -/
def Hw.clerkUp (h : Hw) : Bool := decide (3 ≤ h.boot.phase) && h.power.mainSw && !h.inReset

/-- Run the checks on a command: its failing reply, or it is the one being executed. -/
def Hw.beginCmd (id : Ident) (h : Hw) (c : ClerkCmd) : Hw :=
  match h.checkCmd id c.box c.rcd with
  | some a => h.reply c a
  | none => h.modClerk (fun k => { k with cur := some c })

/-- The mailboxes in rotating order. -/
def boxOrder (last : Nat) : List Nat := (List.range 65).map (fun i => (last + 1 + i) % 65)

/-- COMMAND_ACCEPT: one GO in rotating order; a background command that would be the fifth waits, its mailbox BUSY. -/
def commandAccept (id : Ident) (h : Hw) : Hw :=
  if h.clerk.cur.isSome ∨ !h.clerkUp then h
  else
    let room := decide (h.clerk.bg.length < 4)
    let next (h : Hw) : Hw := match (boxOrder h.clerk.lastBox).find? (fun m => (h.mbox m).go) with
      | none => h
      | some m =>
        let k := h.clerk
        let c : ClerkCmd :=
          { id := k.nextId, box := m, rcd := (h.mbox m).req, pay := (if m = 64 then k.mgmtPay else []), src := k.mgmtSrc,
            seq := k.mgmtSeq, at_ := h.localNs, ready := false, status := 0, results := [], shard := none }
        let h := (h.modBox m (fun b => { b with go := false, busy := true })).modClerk (fun k =>
          { k with lastBox := m, nextId := k.nextId + 1 })
        if isBack c.rcd && !room then h.modClerk (fun k => { k with heldCmds := k.heldCmds ++ [c] }) else h.beginCmd id c
    match h.clerk.heldCmds with
    | c :: cs => if room then (h.modClerk (fun k => { k with heldCmds := cs })).beginCmd id c else next h
    | [] => next h

/-- MANAGEMENT_REQUEST: a datagram to port 47,073 from a source, with its 8-byte header, record and inline payload (R355). One whose
key is kept is answered again; one that comes while the mailbox is in use, or whose header is no request's, is dropped
(notes/assumptions/103). -/
def managementRequest (src hdr : Nat) (r pay : List Byte) (h : Hw) : Hw :=
  let seq := fld hdr 32 32
  if !h.clerkUp ∨ hdr ≠ mgmtHdr 1 seq ∨ r.length ≠ 64 ∨ 8192 < pay.length then h
  else match h.clerk.kept.find? (fun k => k.src == src && k.seq == seq) with
    | some k => { h with out := h.out ++ [Outp.mgmt src (mgmtHdr 2 seq) k.rep k.pay] }
    | none =>
      if (h.mbox 64).busy ∨ (h.mbox 64).go then h
      else (h.modBox 64 (fun b => { b with req := r, go := true })).modClerk (fun k => { k with mgmtSrc := src, mgmtSeq := seq, mgmtPay := pay })

/-! ## Executing a command -/

/-- Execute the command whose checks have passed, when it is of an opcode that `pick` accepts. -/
def Hw.runCmd (h : Hw) (op : Nat) (pick : List Byte → Bool) (f : ClerkCmd → Hw → Ans × Hw) : Hw :=
  match h.clerk.cur with
  | none => h
  | some c =>
    if cOp c.rcd = op ∧ pick c.rcd then
      let (a, h) := f c (h.modClerk (fun k => { k with cur := none }))
      h.reply c a
    else h

/-- The same for a background command: it runs in the background, or fails its own checks and replies. -/
def Hw.runBack (h : Hw) (op : Nat) (pick : List Byte → Bool) (f : ClerkCmd → Hw → Option Ans × Hw) : Hw :=
  match h.clerk.cur with
  | none => h
  | some c =>
    if cOp c.rcd = op ∧ pick c.rcd then
      match f c (h.modClerk (fun k => { k with cur := none, bg := k.bg ++ [{ c with pay := [] }] })) with
      | (some a, h) => (h.modClerk (fun k => { k with bg := k.bg.filter (fun b => b.id != c.id) })).reply c a
      | (none, h) => h
    else h

/-! ## Payloads (R359) -/

/-- The context a windowed payload address is in: the one the command names, else the mailbox's. -/
def Hw.payCtx (id : Ident) (h : Hw) (c : ClerkCmd) : Option Nat := match h.ctxsOf id c.rcd with
  | x :: _ => some x
  | [] => if c.box = 64 then none else (h.mbox c.box).bound

/-- A physical range that is all cacheable memory. -/
def Hw.memRange (id : Ident) (h : Hw) (a n : Nat) : Bool :=
  let z := a + (n - 1)
  let side (x : Nat) : Nat := if x < 0x10000000000 then 0 else if x < ddrBase then 1 else 2
  h.reachable id a && h.reachable id z && cacheable id (keyOf a) && cacheable id (keyOf z) && side a == side z

/-- The physical address of a payload of PLEN bytes that a command reads or writes, or its failure; `need` bytes are needed. -/
def Hw.payAddr (id : Ident) (h : Hw) (c : ClerkCmd) (right need : Nat) : Except Ans Nat :=
  let n := cPlen c.rcd
  if c.box = 64 then (if n < need then .error (.short need) else .ok 0)
  else if n = 0 then (if need = 0 then .ok 0 else .error (.short need))
  else
    let at_ : Option Nat :=
      if cWindowed c.rcd then
        match h.payCtx id c with
        | some x =>
          let w := h.win x (cPwin c.rcd)
          match h.through x (cPwin c.rcd) right (cPaddr c.rcd) n with
            | some a => if w.base < 0x40000000 then none else some a
            | none => none
        | none => none
      else if h.memRange id (cPaddr c.rcd) n then some (cPaddr c.rcd) else none
    match at_ with
    | none => .error (.fail 0xA)
    | some a => if n < need then .error (.short need) else .ok a

/-- An uncorrectable error in what the clerk reads: its record, and the model it marks. -/
def Hw.clerkBad (h : Hw) (c : ClerkCmd) (cls a : Nat) : Hw :=
  let (r, h) := h.uncorrectable cls (srcOf 8 0x18 (if c.box = 64 then 0x40 else c.box)) none a [] none
  let h := h.send r
  h.coverFor r a

/-- Read `n` bytes at a physical address for a command. -/
def Hw.clerkRead (id : Ident) (h : Hw) (c : ClerkCmd) (a n : Nat) : Except Ans (List Byte) × Hw :=
  match h.ncRead id hintClerk a n with
  | (.ok b, h) => (.ok b, h)
  | (.fault _, h) => (.error (.fail 0xA), h)
  | (.bad cls x, h) => (.error (.fail 0xB), h.clerkBad c cls x)

/-- The first `n` bytes of a payload. -/
def Hw.payIn (id : Ident) (h : Hw) (c : ClerkCmd) (n : Nat) : Except Ans (List Byte) × Hw :=
  match h.payAddr id c rRead n with
  | .error a => (.error a, h)
  | .ok a => if c.box = 64 then (.ok (subB c.pay 0 n), h) else h.clerkRead id c a n

/-- Write a payload and answer; a management reply carries it. -/
def Hw.payOut (id : Ident) (h : Hw) (c : ClerkCmd) (b : List Byte) (a : Ans) : Ans × Hw :=
  match h.payAddr id c rWrite b.length with
  | .error e => (e, h)
  | .ok x => if c.box = 64 then ({ a with pay := b }, h) else (a, (h.ncWrite id hintClerk false x b).2)

end Sys2Proof.Machine
end

