-- ==== Sys2Proof/Machine/ClerkCmds.lean ====
section
/-!
DEFINITION. ClerkCmds.lean: what each command of 15 Table 15-5 does once its checks have passed.
-/
namespace Sys2Proof.Machine

/-- The first number from `i` that satisfies `p`, among `fuel`. -/
def firstFrom (p : Nat → Bool) : Nat → Nat → Option Nat
  | 0, _ => none
  | fuel + 1, i => if p i then some i else firstFrom p fuel (i + 1)

/-- Every record. -/
def anyRec (_ : List Byte) : Bool := true

/-! ## Identity (R362, 20 R455, R456) -/

def idGet (id : Ident) (h : Hw) : Hw :=
  h.runCmd 0x0001 anyRec (fun c h => h.payOut id c (h.identity id) (.ok [(16, 4, 1024)]))

def attest (id : Ident) (h : Hw) : Hw :=
  h.runCmd 0x0002 anyRec (fun c h =>
    let b := h.report (subB c.rcd 20 32)
    h.payOut id c b (.ok [(16, 4, b.length)]))

def certGet (id : Ident) (h : Hw) : Hw :=
  h.runCmd 0x0003 anyRec (fun c h =>
    let b := certBytes id
    h.payOut id c b (.ok [(16, 4, b.length)]))

/-! ## Contexts (16 R374, R385, R389) -/

def ctxCreate (h : Hw) : Hw :=
  h.runCmd 0x0101 anyRec (fun c h =>
    let want := recN c.rcd 20 2
    let free (i : Nat) : Bool := (h.ctx i).st == 0
    match (if want = 0xFFFF then firstFrom free 4096 0 else some want) with
    | none => (.fail 6, h)
    | some i =>
      if !free i then (.fail 8, h)
      else (.ok [(16, 2, i)], h.modCtx i (fun _ => { Ctx.init with st := 1, hint := recN c.rcd 22 10 })))

/-- A queue's descriptor is freed: its waiting completions are discarded and its bitmap bit clears. -/
def Hw.freeQ (id : Ident) (h : Hw) (q : Nat) : Hw :=
  let h := { h with compl := h.compl.filter (fun e => e.prod != q) }
  (h.setQ id q (QDesc.ofBytes [])).setBit q false

def Hw.dropQp (h : Hw) (n : Nat) : Hw := h.modFab (fun f => { f with qps := SMap.set none f.qps n none })

/-- The context is freed with what it holds (R389). -/
def Hw.freeCtx (id : Ident) (h : Hw) (c : Nat) : Hw :=
  let h := h.modFab (fun f => { f with qps := f.qps.filter (fun e => match e.2 with
    | some q => q.ctx != c
    | none => false) })
  let h := (h.queuesUsed id).foldl (fun h q => if (h.q id q).ctx = c then h.freeQ id q else h) h
  let ms := h.models.filter (fun e => match e.2 with
    | some m => m.ctx == c
    | none => false)
  let h := ms.foldl (fun h e => let h := h.dropModel e.1; { h with models := SMap.set none h.models e.1 none }) h
  let h := (List.range 64).foldl (fun h w => h.revokeWin c w) h
  let h := h.modClerk (fun k => { k with boxes := k.boxes.filterMap (fun e =>
    let b : Mbox := if e.2.bound = some c then { e.2 with bound := none } else e.2
    if b = Mbox.init then none else some (e.1, b)) })
  { h with ctxs := SMap.set Ctx.init h.ctxs c Ctx.init }

/-- CTX_DESTROY: the context is torn down, and is tearing down, held by the command, until its reply frees it (R389, R352). -/
def ctxDestroy (id : Ident) (h : Hw) : Hw :=
  h.runBack 0x0102 anyRec (fun c h =>
    let x := recN c.rcd 20 2
    let h := (h.teardownNow id x 1).modCtx x (fun y => { y with st := 3 })
    (none, h.cmdReady c.id 0 []))

def ctxStatus (id : Ident) (h : Hw) : Hw :=
  h.runCmd 0x0103 anyRec (fun c h =>
    let i := recN c.rcd 20 2
    let x := h.ctx i
    let ws := (List.range 64).countP (fun w => (h.win i w).valid)
    let qs := (h.queuesUsed id).countP (fun q => (h.q id q).ctx == i)
    (.ok [(16, 1, x.st), (17, 1, x.fcls), (24, 8, x.energy / 1000), (32, 8, x.fseq), (40, 1, ws), (44, 4, qs)], h))

def ctxHint (h : Hw) : Hw :=
  h.runCmd 0x0104 anyRec (fun c h => (.ok [], h.modCtx (recN c.rcd 20 2) (fun x => { x with hint := recN c.rcd 22 10 })))

/-! ## Windows (R364, 16 R376) -/

/-- A range that a window may cover (R364). -/
def Hw.winRange (id : Ident) (h : Hw) (b n : Nat) : Bool :=
  let within (lo hi : Nat) : Bool := decide (lo ≤ b ∧ b + n ≤ hi)
  (List.range 8).any (fun d => h.dieUp d && within (dieLocalBase d) (dieLocalBase d + hbmSize)) ||
    (h.aliasUp && within 0x10000000000 0x16000000000) || within ddrBase (clerkBase id) ||
    within 0x40000000 0x68000000 || within 0x2800000 0x3000000

/-- A valid window is revoked, and what uses it meets the fault its own chapter gives. -/
def Hw.revoke (id : Ident) (h : Hw) (c w : Nat) : Hw :=
  if (h.win c w).valid then
    let h := ((h.revokeWin c w).revokeCarts c (some w)).revokeUpdates c (some w)
    (h.queuesUsed id).foldl (fun h q => if (h.q id q).ctx = c ∧ (h.q id q).win = w then h.breakQ id q 0x03 else h) h
  else h

/-- The first failing argument of WIN_SET (R364). -/
def Hw.winBad (id : Ident) (h : Hw) (r : List Byte) : Option Nat :=
  let b := recN r 24 6
  let n := recN r 32 8
  if b % 4096 ≠ 0 then some 24
  else if n % 4096 ≠ 0 ∨ n = 0 then some 32
  else if h.winRange id b n then none
  else if h.winRange id b 4096 then some 32 else some 24

/-- WIN_SET: a window that is valid is revoked first. While accesses ordered before that are on their way home, the command stays the
one in hand, and its next execution goes on (R364, notes/assumptions/104). -/
def winSet (id : Ident) (h : Hw) : Hw :=
  let waits (c : ClerkCmd) : Bool := cOp c.rcd == 0x0201 && h.winBad id c.rcd == none && h.piecesOut (recN c.rcd 20 2) (recN c.rcd 22 1)
  match h.clerk.cur.filter waits with
  | some c => h.revoke id (recN c.rcd 20 2) (recN c.rcd 22 1)
  | none =>
    h.runCmd 0x0201 anyRec (fun c h =>
      let x := recN c.rcd 20 2
      let w := recN c.rcd 22 1
      match h.winBad id c.rcd with
      | some o => (.bad o, h)
      | none =>
        let h := h.revoke id x w
        let g := (h.win x w).gen
        (.ok [(16, 2, g)], { h with wins := SMap.set Window.init h.wins (64 * x + w) ⟨true, recN c.rcd 23 1, recN c.rcd 24 6, recN c.rcd 32 8, g⟩ }))

/-- WIN_REVOKE: new accesses are blocked at once; its reply comes when every access ordered before it is home (`bgHeld`). -/
def winRevoke (id : Ident) (h : Hw) : Hw :=
  h.runBack 0x0202 anyRec (fun c h =>
    let x := recN c.rcd 20 2
    let w := recN c.rcd 22 1
    let h := h.revoke id x w
    (none, h.cmdReady c.id 0 (Ans.ok [(16, 2, (h.win x w).gen)]).res))

/-- A WIN_REVOKE whose earlier accesses are not all home. -/
def Hw.bgHeld (h : Hw) (c : ClerkCmd) : Bool :=
  cOp c.rcd == 0x0202 && c.status == 0 && h.piecesOut (recN c.rcd 20 2) (recN c.rcd 22 1)

/-- BACKGROUND_COMMAND_DONE: a background command whose work is done frees its objects and writes its reply. -/
def backgroundCommandDone (id : Ident) (n : Nat) (h : Hw) : Hw :=
  match h.clerk.bg.find? (fun c => c.id == n && c.ready) with
  | none => h
  | some c =>
    if h.bgHeld c then h
    else
      let h := h.modClerk (fun k => { k with bg := k.bg.filter (fun b => b.id != n) })
      let h := if cOp c.rcd = 0x0102 ∧ c.status = 0 then h.freeCtx id (recN c.rcd 20 2) else h
      h.reply c ⟨c.status, 0xFFFF, if c.status = 0 ∨ c.status = 0xC then c.results else [], if c.box = 64 ∧ c.status = 0 then c.pay else []⟩

def winGet (h : Hw) : Hw :=
  h.runCmd 0x0203 anyRec (fun c h =>
    let w := h.win (recN c.rcd 20 2) (recN c.rcd 22 1)
    (.ok [(16, 1, w.rights), (17, 1, if w.valid then 1 else 0), (18, 2, w.gen), (24, 6, w.base), (32, 8, w.len)], h))

/-! ## Queues (R366, R483) -/

def qCreate (id : Ident) (h : Hw) : Hw :=
  h.runCmd 0x0301 anyRec (fun c h =>
    let r := c.rcd
    let want := recN r 20 4
    let free (q : Nat) : Bool := (h.q id q).st == 0
    let kind := recN r 26 1
    match (if want = 0xFFFFF then firstFrom free 0x100000 0 else some want) with
    | none => (.fail 6, h)
    | some q =>
      let d : QDesc :=
        { kind := kind, log2n := recN r 27 1, win := recN r 28 1, st := 1, ctx := recN r 24 2, reason := 0, ringOff := recN r 30 6,
          head := 0, tail := 0, cq := if kind = 3 then 0 else recN r 36 4, arrivals := 0, completed := 0 }
      if !free q then (.fail 8, h)
      else if !h.ringOk d then (.fail 0xA, h)
      else if kind ≠ 3 ∧ ((h.q id d.cq).kind ≠ 3 ∨ (h.q id d.cq).ctx ≠ d.ctx) then (.bad 36, h)
      else (.ok [(16, 4, q)], (h.setQ id q d).setBit q false))

/-- A queue pair, another queue or an enabled chute names the queue. -/
def Hw.queueInUse (id : Ident) (h : Hw) (q : Nat) : Bool :=
  h.fab.qps.any (fun e => match e.2 with
    | some p => (p.st == 1 || h.closing e.1 p) && (e.1 == q || p.rq == q || p.cq == q)
    | none => false) ||
  (h.queuesUsed id).any (fun x => (h.q id x).kind != 3 && (h.q id x).cq == q) ||
  h.mill.chutes.any (fun e => e.2.on && e.2.queue == q)

def qDestroy (id : Ident) (h : Hw) : Hw :=
  h.runCmd 0x0302 anyRec (fun c h =>
    let q := recN c.rcd 20 4
    if h.queueInUse id q then (.fail 0x10, h) else (.ok [], (h.dropQp q).freeQ id q))

def qQuery (id : Ident) (h : Hw) : Hw :=
  h.runCmd 0x0303 anyRec (fun c h =>
    let d := h.q id (recN c.rcd 20 4)
    h.payOut id c d.bytes (.ok [(16, 4, d.head), (20, 4, d.tail), (24, 1, d.st), (25, 1, d.reason)]))

def qRestart (id : Ident) (h : Hw) : Hw :=
  h.runCmd 0x0304 anyRec (fun c h =>
    let q := recN c.rcd 20 4
    let d := h.q id q
    if (h.ctx d.ctx).st ≠ 1 then (.fail 9, h)
    else if !h.ringOk d then (.fail 0xA, h)
    else (.ok [(16, 4, d.depth)], (h.setQ id q { d with head := d.tail, st := 1, reason := 0 }).setBit q false))

/-- The first failing field of a queue pair's attribute record (12 Table 12-6), for a send queue of context `ctx`. -/
def attrBad (ctx : Nat) (a : List Byte) : Option Nat :=
  let ordered := bitAt (recN a 4 4) 23
  if recN a 0 4 / 2 ^ 20 ≠ ctx then some 0
  else if fld (recN a 4 4) 20 3 = 0 ∨ recN a 4 4 / 2 ^ 25 ≠ 0 then some 4
  else if recN a 8 4 / 2 ^ 20 ≠ 0 then some 8
  else if recN a 12 1 / 128 ≠ 0 then some 12
  else if ordered != (recN a 14 1 != 0) then some 14
  else if recN a 15 1 % 16 = 0 ∨ recN a 15 1 / 16 = 0 then some 15
  else if recN a 38 2 ≠ 0 then some 38
  else if recN a 40 4 / 2 ^ 24 ≠ 0 then some 40
  else if recN a 44 4 / 2 ^ 24 ≠ 0 then some 44
  else if recN a 48 16 ≠ 0 then some 48
  else none

/-- QP_CREATE (12 R286). The carters are held with the accelerator side: BUSY then (notes/assumptions/90). -/
def qpCreate (id : Ident) (h : Hw) : Hw :=
  h.runCmd 0x0305 anyRec (fun c h =>
    let n := recN c.rcd 20 4
    let d := h.q id n
    match h.payIn id c 64 with
    | (.error e, h) => (e, h)
    | (.ok a, h) =>
      let rq := recN a 0 4 % 2 ^ 20
      let cq := recN a 4 4 % 2 ^ 20
      let used (p : Qp) (m : Nat) : Bool := (p.st == 1 || h.closing m p) && (m == n || p.rq == rq)
      let foreign : Bool := match (h.mbox c.box).bound with
        | some x => c.box != 64 && recN a 0 4 / 2 ^ 20 != x
        | none => false
      if foreign then (.fail 4, h)
      else if h.accelHeld then (.fail 9, h)
      else match attrBad d.ctx a with
        | some o => (.bad (0x8000 + o), h)
        | none =>
          if (h.q id rq).st = 0 ∨ (h.q id cq).st = 0 then (.fail 7, h)
          else if d.kind ≠ 1 then (.bad 20, h)
          else if (h.q id rq).kind ≠ 2 ∨ (h.q id rq).ctx ≠ d.ctx then (.bad 0x8000, h)
          else if (h.q id cq).kind ≠ 3 ∨ (h.q id cq).ctx ≠ d.ctx then (.bad 0x8004, h)
          else if h.fab.qps.any (fun e => match e.2 with
            | some p => used p e.1
            | none => false) then (.fail 0x10, h)
          else
            let q := { Qp.init with
              st := 1, attr := a, nextPsn := recN a 40 4, una := recN a 40 4, exp := recN a 44 4
              cwnd := h.cwndMax (linkByte (recN a 12 1) / 8), adv := h.localNs }
            (.ok [], h.setQp n q))

/-- QP_CLOSE: reason software-close (12 R288). -/
def qpClose (id : Ident) (h : Hw) : Hw :=
  h.runCmd 0x0306 anyRec (fun c h => (.ok [], h.closeAll id [recN c.rcd 20 4] 8))

/-! ## Models (16 R377, R389, 18 R416) -/

def modelReg (id : Ident) (h : Hw) : Hw :=
  h.runCmd 0x0401 anyRec (fun c h =>
    let r := c.rcd
    let x := recN r 24 2
    let m : Model := { ctx := x, entries := recN r 27 1 + 1, tabWin := recN r 26 1, tabOff := recN r 28 6, saveWin := recN r 34 1,
                       saveOff := recN r 36 6, sheaves := recN r 44 4, unusable := false, markSeq := 0, markWait := false, invocs := 0 }
    let tw := h.win x m.tabWin
    let sw := h.win x m.saveWin
    if (h.modelOf (recN r 20 4)).isSome then (.fail 8, h)
    else if !tw.valid || tw.isDoorbell || !decide (m.tabOff + 64 * m.entries ≤ tw.len) || !sw.valid || sw.isDoorbell ||
        !bitAt sw.rights rRead || !bitAt sw.rights rWrite || !decide (m.saveOff + 2048 * m.sheaves ≤ sw.len) then (.fail 0xA, h)
    else if m.stride < 2 then (.bad 44, h)
    else
      let h := (List.range m.entries).foldl (fun h e =>
        (h.ncWrite id hintClerk false (sw.base + m.imageOff e) (emptyHeader x (recN r 20 4) e 0)).2) h
      (.ok [], { h with models := SMap.set none h.models (recN r 20 4) (some m) }))

def modelUnreg (h : Hw) : Hw :=
  h.runCmd 0x0402 anyRec (fun c h =>
    let m := recN c.rcd 20 4
    if h.modelBusy m then (.fail 0x11, h)
    else
      let h := h.dropModel m
      (.ok [], { h with models := SMap.set none h.models m none }))

def modelStatus (h : Hw) : Hw :=
  h.runCmd 0x0403 anyRec (fun c h => match h.modelOf (recN c.rcd 20 4) with
    | some m => (.ok [(16, 1, if m.unusable then 1 else 0), (24, 8, m.invocs), (32, 8, m.markSeq)], h)
    | none => (.fail 7, h))

def modelClear (h : Hw) : Hw :=
  h.runCmd 0x0404 anyRec (fun c h =>
    let m := recN c.rcd 20 4
    if h.modelBusy m then (.fail 0x11, h)
    else match h.modelOf m with
      | some x => (.ok [], { h with models := SMap.set none h.models m (some { x with unusable := false, markWait := false }) })
      | none => (.fail 7, h))

/-! ## Bell book (13 R319, R482) -/

/-- BELL_ARM: the entry is written and armed; one that is armed or running is busy. -/
def bellArm (h : Hw) : Hw :=
  h.runCmd 0x0501 anyRec (fun c h =>
    let r := c.rcd
    let want := recN r 20 2
    match (if want = 0xFFFF then firstFrom h.eIdle 4096 0 else some want) with
    | none => (.fail 6, h)
    | some i =>
      if !h.eIdle i then (.fail 9, h)
      else
        let ctrl := recN r 28 4 + recN r 22 1 * 2 ^ 32 + recN r 24 2 * 2 ^ 44 + recN r 23 1 * 2 ^ 62
        let h' := (((h.setReg (eDue i) (recN r 32 8)).setReg (ePeriod i) (recN r 40 8)).setReg (eCtrl i) ctrl).setReg (eArg i) (recN r 48 4)
        match h'.armBad i with
        | some 0x08 => (.bad 40, h)
        | some 0x18 => (.bad 48, h)
        | some _ => (.bad (if recN r 23 1 = 1 then 23 else 22), h)
        | none => (.ok [(16, 2, i)], h'.arm i))

def bellDisarm (h : Hw) : Hw := h.runCmd 0x0502 anyRec (fun c h => (.ok [], h.disarm (recN c.rcd 20 2)))

/-! ## Operating points (17 R395 to R397, R401) -/

/-- The point a phase of a context would be granted now on its lowest-numbered tile; the ingest phase is the mill's. -/
def Hw.granted (id : Ident) (h : Hw) (c : Option Nat) (phase x : Nat) : Nat :=
  if phase = 4 then max x (h.power.watchCeil 8)
  else
    let tiles := match c with
      | some c => h.eligible id c
      | none => (List.range 80).filter (h.present id)
    match tiles.head? with
    | some g => h.power.grant (g / 10) x
    | none => x

def opPref (id : Ident) (h : Hw) : Hw :=
  h.runCmd 0x0601 anyRec (fun c h =>
    let x := recN c.rcd 20 2
    let p := recN c.rcd 22 1
    let pt := recN c.rcd 23 1
    let f (x : Ctx) : Ctx := { x with prefs := SMap.set 1 x.prefs p pt }
    if x = 0xFFFF then
      (.ok [(16, 1, h.granted id none p pt)], { h with ctxs := h.ctxs.map (fun e => if e.2.st = 0 then e else (e.1, f e.2)) })
    else (.ok [(16, 1, h.granted id (some x) p pt)], h.modCtx x f))

def powerCap (h : Hw) : Hw :=
  h.runCmd 0x0602 anyRec (fun c h =>
    let m := recN c.rcd 20 2
    let d := recN c.rcd 22 2
    let caps := (if m = 0 then h.clerk.caps.1 else m, if d = 0 then h.clerk.caps.2 else d)
    (.ok [(16, 2, caps.1), (18, 2, caps.2)], h.modClerk (fun k => { k with caps := caps })))

/-- Background commands that wait for stacks to enter self-refresh or go offline. -/
def Hw.stackWaits (h : Hw) : Hw :=
  h.clerk.bg.foldl (fun h b =>
    let op := cOp b.rcd
    if op = 0x0603 ∧ (List.range 16).all (fun k => (h.stack k).entering == 0) then h.cmdReady b.id 0 []
    else if op = 0x0A01 ∧ (h.stack (2 * recN b.rcd 20 1 + recN b.rcd 21 1)).entering = 0 then h.cmdReady b.id 0 []
    else h) h

/-- STACK_SELF_REFRESH_ENTRY, with the commands that waited for it. -/
def stackEntry (k : Nat) (h : Hw) : Hw := (stackSelfRefreshEntry k h).stackWaits

/-- The lamps go dark with their ports. -/
def Hw.lampsDark (h : Hw) : Hw :=
  (List.range 4).foldl (fun h n =>
    if 2 ≤ (h.lamp n).st ∧ (h.lamp n).st ≤ 4 then
      (lampLinks n).foldl Hw.linkLost (h.modLamp n (fun l => { l with st := 1, phase := 0 }))
    else h) h

/-- FALLOW_ENTER (R401): refused while a context exists. A fallow reset or a wake that it meets ends here, with what waits for it
cancelled. -/
def fallowEnter (id : Ident) (h : Hw) : Hw :=
  h.runBack 0x0603 anyRec (fun c h =>
    if h.ctxs.any (fun e => e.2.st != 0) then (some (.fail 9), h)
    else if h.boot.fallow = 2 then (none, h.cmdReady c.id 0 [])
    else
      let h := h.closeAll id (h.qpsOf none) 8
      let h := (List.range 16).foldl (fun h k => h.enterStack k 1) h
      let h := ((h.accelReset id).holdAccel).lampsDark
      (none, (h.modPower (fun p => { p with sev := if p.sev = 3 then 0 else p.sev })).stackWaits))

/-- FALLOW_EXIT: stacks are retrained with their repair tables reapplied (09 R224), those of `fail` without success (R227), and the lamps start up; the reply comes when the
module has woken, or a fallow reset in progress has ended. While the watchman stops the module, it is cancelled (R403). -/
def fallowExit (fail : Nat) (h : Hw) : Hw :=
  h.runBack 0x0604 anyRec (fun c h =>
    if 3 < h.power.sev then (some (.fail 0x0D), h)
    else if h.boot.fallow = 0 then (none, h.cmdReady c.id 0 [])
    else if h.boot.fallow ≠ 2 then (none, h)
    else
      let one (h : Hw) (k : Nat) : Hw :=
        if (h.stack k).st = .selfRefresh ∨ (h.stack k).entering = 1 then
          if bitAt fail k then h.failStack k 1 else h.modStack k (fun s => { s.reapply (SMap.get [] h.boot.repairs k) with st := .online, entering := 0 })
        else h
      let bad := (List.range 16).any (fun k => bitAt fail k && ((h.stack k).st == .selfRefresh || (h.stack k).entering == 1))
      let h := ((List.range 16).foldl one h).stackWaits
      let h := (h.modBoot (fun b => { b with fallow := 3, wakeBad := bad })).startLamps
      (none, h.wakeDone))

/-! ## Observation (19) -/

/-- Select a counter set on a field die, or on the hub (8): a change zeroes its counters (R427). -/
def Hw.obsSet (h : Hw) (d set : Nat) : Hw :=
  let pa := if d < 8 then blkBase .dobs d + 0x800 else blkBase .hobs 0 + 0x1000
  if h.regF pa 0 1 = set then h
  else if d < 8 then (h.zeroCtrs d).setRegF pa 0 1 set
  else
    let b := blkBase .hobs 0
    ({ h with regs := h.regs.filter (fun e => !decide (b ≤ e.1 ∧ e.1 < b + 0x1000)) }).setRegF pa 0 1 set

def obsSelect (h : Hw) : Hw :=
  h.runCmd 0x0701 anyRec (fun c h =>
    (.ok [], (List.range 9).foldl (fun h d => if bitAt (recN c.rcd 20 2) d then h.obsSet d (recN c.rcd 22 1) else h) h))

def chronCtrlStop (h : Hw) : Hw := h.runCmd 0x0702 (fun r => recN r 20 1 == 0) (fun _ h => (.ok [], h.chronStop))
def chronCtrlStart (h : Hw) : Hw := h.runCmd 0x0702 (fun r => recN r 20 1 == 1) (fun _ h => (.ok [], h.chronStart.2))

/-- The first non-zero byte of a record from `o`, as DETAIL names it. -/
def payNonzero (b : List Byte) (o n : Nat) : Option Nat := ((List.range n).find? (fun i => recN b (o + i) 1 != 0)).map (· + o)

/-- The first failing field of a chronicle configuration (Table 19-4). -/
def chronBad (id : Ident) (b : List Byte) : Option Nat :=
  let base := recN b 0 8
  if base % 2048 ≠ 0 ∨ base < ddrBase ∨ clerkBase id < base + 32 * 2 ^ min 24 (recN b 8 1) then some 0
  else if recN b 8 1 < 10 ∨ 24 < recN b 8 1 then some 8
  else if recN b 9 1 ≠ 0 then some 9
  else if 511 < recN b 10 2 then some 10
  else if 4095 < recN b 12 4 then some 12
  else payNonzero b 16 48

def chronCtrlConfigure (id : Ident) (h : Hw) : Hw :=
  h.runCmd 0x0702 (fun r => recN r 20 1 == 2) (fun c h =>
    match h.payIn id c 64 with
    | (.error e, h) => (e, h)
    | (.ok b, h) =>
      if h.chron.running then (.fail 9, h)
      else match chronBad id b with
        | some o => (.bad (0x8000 + o), h)
        | none => (.ok [], { h with chron := { h.chron with
            configured := true, base := recN b 0 8, log2n := recN b 8 1, dies := recN b 10 2, classes := recN b 12 4
            write := 0, read := 0, lost := [], firstLost := [], total := 0 } }))

/-- CENSUS_TAKE (R433): it begins, or waits for the census that runs. -/
def censusTake (id : Ident) (h : Hw) : Hw :=
  h.runBack 0x0703 anyRec (fun c h =>
    match h.payAddr id c rWrite (h.censusLen id (h.queuesUsed id).length) with
    | .error e => (some e, h)
    | .ok a =>
      if h.obs.census.isSome then
        let h := h.modClerk (fun k => { k with bg := k.bg.map (fun b => if b.id = c.id then { b with results := toLE 8 a ++ toLE 8 (cPlen c.rcd) } else b) })
        (none, { h with obs := { h.obs with waits := h.obs.waits ++ [c.id] } })
      else (none, h.beginCensus id 0 a 0 0 none (some c.id)))

/-- A tithe watch from its value (Table 19-9), for a context. -/
def titheOf (c v : Nat) : Tithe :=
  { enable := bitAt v 63, once := bitAt v 62, digest := bitAt v 61, stream := fld v 59 2, ctx := c, yoff := fld v 29 18
    recOff := fld v 11 18, bell := [] }

/-- The first failing byte of entry `i` of a tithe configuration. -/
def Hw.titheBad (id : Ident) (h : Hw) (b : List Byte) (i : Nat) : Option Nat :=
  let o := 4 + 16 * i
  if !h.present id (recN b o 1) then some o
  else if 3 < recN b (o + 1) 1 then some (o + 1)
  else match payNonzero b (o + 2) 6 with
    | some x => some x
    | none => if recN b (o + 8) 8 % 2048 ≠ 0 ∨ fld (recN b (o + 8) 8) 59 2 = 3 then some (o + 8) else none

/-- TITHE_CTRL (R437). While the tiles are held in reset: BUSY (notes/assumptions/90). -/
def titheCtrl (id : Ident) (h : Hw) : Hw :=
  h.runCmd 0x0704 anyRec (fun c h =>
    let x := recN c.rcd 20 2
    match h.payIn id c 4 with
    | (.error e, h) => (e, h)
    | (.ok b, h) =>
      let n := recN b 0 4
      if h.accelHeld then (.fail 9, h)
      else if n = 0 ∨ 320 < n then (.bad 0x8000, h)
      else match h.payIn id c (4 + 16 * n) with
        | (.error e, h) => (e, h)
        | (.ok b, h) => match (List.range n).findSome? (h.titheBad id b) with
          | some o => (.bad (0x8000 + o), h)
          | none => (.ok [], { h with tithe := (List.range n).foldl (fun m i =>
              let o := 4 + 16 * i
              SMap.set Tithe.init m (4 * recN b o 1 + recN b (o + 1) 1) (titheOf x (recN b (o + 8) 8))) h.tithe }))

/-- The largest IDX1 and IDX2 of a gauge source (Table 19-10); none for a reserved one. -/
def gaugeIdx (source : Nat) : Option (Nat × Nat) :=
  match source with
  | 0x01 => some (7, 1)
  | 0x02 => some (79, 0)
  | 0x03 => some (15, 0)
  | 0x04 => some (64, 0)
  | 0x10 => some (8, 0)
  | 0x11 => some (8, 0)
  | 0x12 => some (7, 1)
  | 0x13 => some (0, 0)
  | 0x14 => some (0, 0)
  | 0x15 => some (0, 0)
  | _ => none

/-- The first failing byte of a gauge configuration: reserved bits always, the rest where it is enabled. -/
def gaugeBad (b : List Byte) : Option Nat :=
  let log2 := bitAt (recN b 3 1) 0
  if recN b 3 1 / 2 ≠ 0 then some 3
  else if recN b 13 1 / 2 ≠ 0 then some 13
  else if recN b 14 2 ≠ 0 then some 14
  else if recN b 13 1 = 0 then none
  else match gaugeIdx (recN b 0 1) with
    | none => some 0
    | some m =>
      if m.1 < recN b 1 1 then some 1
      else if m.2 < recN b 2 1 then some 2
      else if log2 && decide (sgn 32 (recN b 4 4) < 1) then some 4
      else if log2 != (recN b 8 4 == 0) then some 8
      else if 15 < recN b 12 1 then some 12
      else none

/-- GAUGE_CTRL (R442). -/
def gaugeCtrl (id : Ident) (h : Hw) : Hw :=
  h.runCmd 0x0705 anyRec (fun c h =>
    match h.payIn id c 512 with
    | (.error e, h) => (e, h)
    | (.ok b, h) => match (List.range 32).findSome? (fun i => (gaugeBad (subB b (16 * i) 16)).map (· + 16 * i)) with
      | some o => (.bad (0x8000 + o), h)
      | none => (.ok [], { h with obs := { h.obs with gauges := (List.range 32).foldl (fun m i =>
          SMap.set Gauge.init m i { Gauge.init with cfg := subB b (16 * i) 16 }) [] } }))

/-! ## Error records (18 R413) -/

/-- ERR_READ: the ring after it, and the rest. -/
def errRead (id : Ident) (e : ErrRing) (h : Hw) : ErrRing × Hw :=
  match h.clerk.cur with
  | none => (e, h)
  | some c =>
    if cOp c.rcd = 0x0801 then
      let n := recN c.rcd 20 2
      match h.payAddr id c rWrite (64 * n) with
      | .error _ => (e, h.runCmd 0x0801 anyRec (fun c h => h.payOut id c (List.replicate (64 * n) 0) (.ok [])))
      | .ok _ =>
        let (rs, first, e') := e.take n
        (e', h.runCmd 0x0801 anyRec (fun c h =>
          let (_, h) := h.payOut id c rs.flatten (.ok [])
          ({ Ans.ok [(16, 2, rs.length), (24, 8, first), (32, 8, e.overN)] with pay := if c.box = 64 then rs.flatten else [] }, h)))
    else (e, h)

/-- ERR_ACK. -/
def errAck (e : ErrRing) (h : Hw) : ErrRing × Hw :=
  match h.clerk.cur with
  | none => (e, h)
  | some c =>
    if cOp c.rcd = 0x0802 then
      let (ok, e) := e.ack (recN c.rcd 24 8)
      (e, h.runCmd 0x0802 anyRec (fun _ h => (if ok then .ok [] else .bad 24, h)))
    else (e, h)

/-! ## Checkpoints (07 R177) -/

/-- The exported planes of a shard: offset in its window and length, in the order high, low, first and second moment. -/
def exportPlanes (d : List Byte) : List (Nat × Nat) :=
  let ns := udNs d
  [(udHigh d, ns * 2048), (udLow d, ns * 2048), if udUsesM d then (udM d, ns * 1024 * mBytes (udCompact d)) else (0, 0),
    if udUsesV d then (udV d, ns * 4096) else (0, 0)]

/-- Read ranges of a window, in order. -/
def Hw.clerkReads (id : Ident) (c : ClerkCmd) (base : Nat) : List (Nat × Nat) → Hw → Except Ans (List (List Byte)) × Hw
  | [], h => (.ok [], h)
  | (o, n) :: rs, h =>
    if n = 0 then
      match Hw.clerkReads id c base rs h with
      | (.ok bs, h) => (.ok ([] :: bs), h)
      | r => r
    else match h.clerkRead id c (base + o) n with
      | (.error e, h) => (.error e, h)
      | (.ok b, h) => match Hw.clerkReads id c base rs h with
        | (.ok bs, h) => (.ok (b :: bs), h)
        | r => r

/-- The checkpoint header (Table 07-6) over the planes. -/
def ckptHeader (d : List Byte) (step : Nat) (planes : List (List Byte)) : List Byte :=
  let offs := planes.foldl (fun (a : List Nat × Nat) p => (a.1 ++ [a.2], a.2 + p.length)) ([], 2048)
  let dir := (planes.zip offs.1).flatMap (fun e => if e.1 = [] then List.replicate 16 (0 : Byte) else toLE 8 e.2 ++ toLE 8 e.1.length)
  let head := mkRec 24 [(0, 4, 0x32315043), (4, 2, 1), (6, 1, udRule d), (7, 1, if udCompact d then 1 else 0), (8, 4, udShard d),
    (12, 4, udNp d), (16, 8, step)] ++ dir ++ overlay d 12 (List.replicate 60 0)
  head ++ sha3 (head ++ planes.flatten) ++ List.replicate 8 0

/-- A running export is marked with its shard, for updates on it to wait (R177). -/
def Hw.exportOf (h : Hw) (n x sid : Nat) : Hw :=
  h.modClerk (fun k => { k with bg := k.bg.map (fun b => if b.id = n then { b with shard := some (x, sid) } else b) })

/-- CKPT_EXPORT: the copy is made in one piece (notes/assumptions/63); an update dispatched on the shard before
BACKGROUND_COMMAND_DONE waits. -/
def ckptExport (id : Ident) (h : Hw) : Hw :=
  h.runBack 0x0901 anyRec (fun c h =>
    let r := c.rcd
    let x := recN r 20 2
    let wd := h.win x (recN r 22 1)
    let wo := h.win x (recN r 23 1)
    let off := recN r 32 6
    let len := recN r 40 8
    if wd.isDoorbell || wo.isDoorbell then (some (.fail 0xA), h)
    else match h.through x (recN r 22 1) rRead (recN r 24 6) 128, h.through x (recN r 23 1) rWrite off len with
      | some a, some dst => match h.clerkRead id c a 128 with
        | (.error e, h) => (some e, h)
        | (.ok d, h) =>
          let ps := exportPlanes d
          let need := 2048 + ps.foldl (fun a p => a + p.2) 0
          let w := h.win x (udWin d)
          let ex := ps ++ [(udStamp d, 8 * udNs d), (udTally d, 64)]
          if 6 < udRule d ∨ udNp d = 0 then (some (.bad 24), h)
          else if !w.valid || w.isDoorbell || !bitAt w.rights rRead || ex.any (fun p => !decide (p.1 + p.2 ≤ w.len)) then (some (.fail 0xA), h)
          else if len < need then (some (.short need), h)
          else if h.updating x (udShard d) then (some (.fail 0x12), h)
          else match Hw.clerkReads id c w.base [(udTally d, 64), (udStamp d, 8 * udNs d)] h with
            | (.ok [l, st], h) =>
              let step := recN st 0 8
              if openRecs l ≠ [] then (some (.fail 0x13), h)
              else if (List.range (udNs d)).any (fun k => recN st (8 * k) 8 != step) then (some (.fail 0x14), h)
              else match Hw.clerkReads id c w.base ps h with
                | (.ok planes, h) =>
                  match h.ncWrite id hintClerk false dst (ckptHeader d step planes) with
                  | (some _, h) => (some (.fail 0xA), h)
                  | (none, h) => match h.ncWrite id hintClerk false (dst + 2048) planes.flatten with
                    | (some _, h) => (some (.fail 0xA), h)
                    | (none, h) => (none, (h.exportOf c.id x (udShard d)).cmdReady c.id 0 (Ans.ok [(16, 8, need), (24, 8, step)]).res)
                | (.error e, h) => (some e, h)
            | (.ok _, h) => (some (.fail 0xB), h)
            | (.error e, h) => (some e, h)
      | _, _ => (some (.fail 0xA), h))

/-! ## Stacks (09 R224, R225) -/

def cStack (r : List Byte) : Nat := 2 * recN r 20 1 + recN r 21 1

def stackOffline (h : Hw) : Hw :=
  h.runBack 0x0A01 anyRec (fun c h =>
    if h.ctxs.any (fun e => e.2.st != 0) ∨ h.memS.open_ ≠ [] ∨ h.memS.wait ≠ [] then (some (.fail 0x15), h)
    else (none, (h.enterStack (cStack c.rcd) 2).stackWaits))

/-- STACK_ONLINE: `ok` says that retraining succeeded. -/
def stackOnline (ok : Bool) (h : Hw) : Hw :=
  h.runBack 0x0A02 anyRec (fun c h =>
    let k := cStack c.rcd
    if (h.stack k).st = .online then (none, h.cmdReady c.id 0 [])
    else if ok then (none, (h.modStack k (fun s => { s with st := .online, entering := 0 })).cmdReady c.id 0 [])
    else (none, (h.failStack k 2).cmdReady c.id 0x18 []))

/-- Bursts of stack k among addresses. -/
def burstsIn (k : Nat) (as : List Nat) : List Nat := (as.map (fun a => a / 32 * 32)).filter (inStack k)

/-- A test reads every burst of stack k, meeting further correctable errors at `corr` and uncorrectable ones at `unc`: both are
counted, the first corrected, a record written for each of the second (R222, R223), and the reply prepared: TEST_FAILED where one is
uncorrectable, else what was found and the lowest burst with an error (notes/assumptions/82). -/
def Hw.stackRead (h : Hw) (k : Nat) (corr unc : List Nat) (c : ClerkCmd) : Hw :=
  let h := h.modMem (fun m => (burstsIn k unc).foldl (fun m a => m.hurt a 2) ((burstsIn k corr).foldl (fun m a => m.hurt a 1) m))
  let bad := h.memS.mem.bad.filter (inStack k)
  let soft := h.memS.mem.soft.filter (fun a => inStack k a && !bad.contains a)
  let h := (h.hbmFixed k soft.length).modMem (fun m => { m with soft := m.soft.filter (fun a => !soft.contains a) })
  let h := bad.foldl (fun h a => (h.bump (blkBase .hbm k + 8) 32 16 1).err 0x07 1 (srcOf 8 0x18 c.box) none (some a) [(40, 1, 0)]) h
  match soft with
  | [] => if bad = [] then h.cmdReady c.id 0 [] else h.cmdReady c.id 0x18 []
  | a :: rest => if bad = [] then h.cmdReady c.id 0 (Ans.ok [(16, 4, soft.length), (24, 8, rest.foldl min a)]).res else h.cmdReady c.id 0x18 []

/-- STACK_TEST in patrol mode. A stack that is not online cannot be read, and the test fails (notes/assumptions/82). -/
def stackTestPatrol (corr unc : List Nat) (h : Hw) : Hw :=
  h.runBack 0x0A03 (fun r => recN r 22 1 == 0) (fun c h =>
    let k := cStack c.rcd
    (none, if (h.stack k).st = .online then h.stackRead k corr unc c else h.cmdReady c.id 0x18 []))

/-- STACK_TEST in march mode: the stack's contents are destroyed (notes/assumptions/3). -/
def stackTestMarch (corr unc : List Nat) (h : Hw) : Hw :=
  h.runBack 0x0A03 (fun r => recN r 22 1 == 1) (fun c h =>
    let k := cStack c.rcd
    if (h.stack k).st ≠ .offline then (some (.fail 0x16), h)
    else
      (none, (h.wipeStack k).stackRead k corr unc c))

/-- The repair a command names (Table 15-5). -/
def cRepair (r : List Byte) : Repair := ⟨recN r 22 1, recN r 23 1, recN r 24 1, recN r 26 4, recN r 30 2⟩

/-- STACK_REPAIR: `spares` are the soft rows or lanes the stack still has of the kind (the spec counts the other two kinds);
`flash` says that its repair table was recorded. -/
def stackRepair (spares : Nat) (flash : Bool) (h : Hw) : Hw :=
  h.runBack 0x0A04 anyRec (fun c h =>
    let k := cStack c.rcd
    let s := h.stack k
    let r := cRepair c.rcd
    let left := if r.kind = 0 then s.hppr else if r.kind = 3 then 512 - s.used 3 else spares
    if s.st ≠ .offline then (some (.fail 0x16), h)
    else if left = 0 then (some (.fail 0x17), h)
    else if !flash then (some (.fail 0x1D), h)
    else
      let h := (h.modStack k (fun s => { s with hppr := if r.kind = 0 then s.hppr - 1 else s.hppr, repairs := s.repairs ++ [r] })).modBoot
        (fun b => { b with repairs := SMap.set [] b.repairs k (SMap.get [] b.repairs k ++ [r]) })
      (none, h.cmdReady c.id 0 (Ans.ok [(16, 2, left - 1)]).res))

/-! ## Lease (12 R306) -/

def leaseSet (h : Hw) : Hw :=
  h.runCmd 0x0B01 anyRec (fun c h => (.ok [], h.leaseWrite (bitAt (recN c.rcd 20 1) 0) (bitAt (recN c.rcd 20 1) 1) (recN c.rcd 24 4)))

def leaseRenew (h : Hw) : Hw :=
  h.runCmd 0x0B02 anyRec (fun c h =>
    let e := recN c.rcd 24 8
    if !h.leaseOn then (.fail 0x1A, h)
    else if e ≤ h.fab.epoch then (.fail 0x19, h)
    else
      let h := h.renew e
      (.ok [(16, 4, (h.fab.leaseAt - h.localNs) / 1000000)], h))

/-! ## Resets (R365, 20 R446, R447) -/

def Hw.resetIn (h : Hw) (kind : Nat) : Hw := h.modBoot (fun b => { b with resetAt := b.resetAt ++ [(kind, h.localNs + 1000000)] })

def resetModule (h : Hw) : Hw := h.runCmd 0x0C01 (fun r => recN r 20 1 == 0) (fun _ h => (.ok [], h.resetIn 0))
def resetHost (h : Hw) : Hw := h.runCmd 0x0C01 (fun r => recN r 20 1 == 1) (fun _ h => (.ok [], h.resetIn 1))

/-- RESET of kind fallow: its reply comes at FALLOW_RESET_END; in the fallow state there is nothing to reset. -/
def resetFallow (id : Ident) (h : Hw) : Hw :=
  h.runBack 0x0C01 (fun r => recN r 20 1 == 2) (fun c h =>
    let h := h.beginFallow id 3
    (none, if h.boot.fallow = 1 ∨ h.boot.fallow = 3 then h else h.cmdReady c.id 0 []))

/-- RESET of a tile (20 R447), merged into a fallow reset that is in progress (R448). -/
def resetTileCmd (id : Ident) (h : Hw) : Hw :=
  h.runBack 0x0C01 (fun r => recN r 20 1 == 3) (fun c h =>
    let g := recN c.rcd 21 1
    if 2 ≤ (h.res g).st then (some (.fail 9), h)
    else if h.boot.fallow = 1 then (none, h)
    else (none, (h.resetTile id g).cmdReady c.id 0 []))

/-! ## Patches (R371, R372) -/

def patchList (id : Ident) (h : Hw) : Hw :=
  h.runCmd 0x0D01 anyRec (fun c h =>
    let one (i : Nat) : List Byte := if h.slotEmpty i then List.replicate 64 0 else h.flashBytes (slotBase i) 64
    let ok := (List.range 12).foldl (fun a i => a + (if h.slotOk i then 2 ^ i else 0)) 0
    h.payOut id c ((List.range 12).flatMap one) (.ok [(16, 2, ok), (18, 2, h.clerk.patched), (20, 2, h.clerk.shadowed)]))

/-- PATCH_INSTALL: `flash` says that the write and its read-back succeeded. -/
def patchInstall (id : Ident) (flash : Bool) (h : Hw) : Hw :=
  h.runBack 0x0D02 anyRec (fun c h =>
    match h.payIn id c 64 with
    | (.error e, h) => (some e, h)
    | (.ok hd, h) =>
      let n := 64 + recN hd 12 4 + 2420
      if 94000 < recN hd 12 4 then (some (.fail 0x1B), h)
      else match h.payIn id c n with
        | (.error e, h) => (some e, h)
        | (.ok im, h) =>
          if !patchOk im then (some (.fail 0x1B), h)
          else if patchRefused im then (some (.fail 0x1C), h)
          else if !flash then (some (.fail 0x1D), h)
          else
            let a := slotBase (recN c.rcd 20 1)
            (none, ((h.flashErase a 0x18000).flashWrite a im).cmdReady c.id 0 []))

def patchErase (flash : Bool) (h : Hw) : Hw :=
  h.runBack 0x0D03 anyRec (fun c h =>
    if !flash then (some (.fail 0x1D), h)
    else (none, (h.flashErase (slotBase (recN c.rcd 20 1)) 0x18000).cmdReady c.id 0 []))

/-! ## Scopes (R353, R355) -/

def mbScope (h : Hw) : Hw :=
  h.runCmd 0x0E01 anyRec (fun c h =>
    (.ok [], h.modBox (recN c.rcd 20 1) (fun b => { b with bound := if recN c.rcd 21 1 = 1 then some (recN c.rcd 22 2) else none })))

def mgmtScope (h : Hw) : Hw :=
  h.runCmd 0x0E02 anyRec (fun c h =>
    (.ok [(16, 2, recN c.rcd 20 2)], h.modClerk (fun k => { k with scope := recN c.rcd 20 2 })))

end Sys2Proof.Machine
end

