-- ==== Sys2Proof/Machine/Isa.lean ====
section
/-!
DEFINITION. Isa.lean: the instructions of a tile stream: RV64IMC, FENCE, FENCE.I, the counters and the tensor commands
(04 R80, R95, R96, R115, R478), fetched and performed through the windows of its tile's context (16 R375).
-/
namespace Sys2Proof.Machine

/-! ## Decoding -/

/-- Operations of RV64I and RV64M on two values. -/
inductive Alu where
  | add | sub | sll | slt | sltu | xor | srl | sra | or | and
  | mul | mulh | mulhsu | mulhu | div | divu | rem | remu
  deriving DecidableEq, Repr

/-- A decoded instruction. Immediates are sign-extended. -/
inductive Rv where
  | lui (rd : Nat) (imm : Word)
  | auipc (rd : Nat) (imm : Word)
  | jal (rd : Nat) (off : Word)
  | jalr (rd rs1 : Nat) (off : Word)
  | branch (f3 rs1 rs2 : Nat) (off : Word)
  | load (f3 rd rs1 : Nat) (off : Word)
  | store (f3 rs1 rs2 : Nat) (off : Word)
  | imm (op : Alu) (w32 : Bool) (rd rs1 : Nat) (v : Word)
  | reg (op : Alu) (w32 : Bool) (rd rs1 rs2 : Nat)
  | fence
  | fenceI
  | csr (rd num : Nat)
  | tensor (f3 f2 rs1 rs2 rs3 sy : Nat)
  | vector (f3 f2 rs1 rs2 rs3 sy : Nat)
  deriving DecidableEq, Repr

/-- A number of `n` bits, sign-extended. -/
def sxt (n v : Nat) : Word := BitVec.ofInt 64 (sgn n v)

def immB (w : Nat) : Word := sxt 13 (fld w 8 4 * 2 + fld w 25 6 * 32 + fld w 7 1 * 2048 + fld w 31 1 * 4096)
def immJ (w : Nat) : Word := sxt 21 (fld w 21 10 * 2 + fld w 20 1 * 2048 + fld w 12 8 * 4096 + fld w 31 1 * 2 ^ 20)

/-- The operation of an OP or OP-IMM funct3, without funct7. -/
def aluOf (f3 : Nat) : Alu :=
  match f3 with
  | 0 => .add
  | 1 => .sll
  | 2 => .slt
  | 3 => .sltu
  | 4 => .xor
  | 5 => .srl
  | 6 => .or
  | _ => .and

def mulOf (f3 : Nat) : Alu :=
  match f3 with
  | 0 => .mul
  | 1 => .mulh
  | 2 => .mulhsu
  | 3 => .mulhu
  | 4 => .div
  | 5 => .divu
  | 6 => .rem
  | _ => .remu

/-- Custom-0 encodings that 04 Table 04-3 lists, with unused register fields zero (R96). -/
def tensorOk (f3 f2 rs1 rs2 rs3 sy : Nat) : Bool :=
  match f3 with
  | 0 => f2 == 0
  | 1 => f2 == 0
  | 2 => f2 == 0 && rs3 == 0
  | 3 => rs2 == 0 && rs3 == 0 && (f2 == 0 || f2 == 2 || rs1 == 0)
  | 4 => f2 ≤ 1 && rs3 == 0 && sy == 0
  | 5 => (f2 == 1 || (f2 == 0 && rs3 == 0)) && sy == 0
  | 6 => f2 == 0 && rs1 == 0 && rs2 == 0 && rs3 == 0 && sy == 0
  | _ => false

/-- Custom-1 encodings of 05 Table 05-2 and 07 R164. -/
def vectorOk (f3 f2 : Nat) : Bool :=
  match f3 with
  | 0 => f2 == 0
  | 1 => f2 == 0
  | 2 => decide (f2 ≤ 2)
  | 3 => decide (f2 ≤ 2)
  | 4 => decide (f2 ≤ 2)
  | 5 => decide (f2 ≤ 1)
  | 6 => f2 == 0
  | _ => false

/-- A 32-bit instruction; none is illegal. -/
def decode32 (w : Nat) : Option Rv :=
  let rd := fld w 7 5
  let f3 := fld w 12 3
  let rs1 := fld w 15 5
  let rs2 := fld w 20 5
  let f7 := fld w 25 7
  let immI := sxt 12 (fld w 20 12)
  match fld w 0 7 with
  | 0x37 => some (.lui rd (sxt 32 (w / 4096 * 4096)))
  | 0x17 => some (.auipc rd (sxt 32 (w / 4096 * 4096)))
  | 0x6F => some (.jal rd (immJ w))
  | 0x67 => if f3 = 0 then some (.jalr rd rs1 immI) else none
  | 0x63 => if f3 = 2 ∨ f3 = 3 then none else some (.branch f3 rs1 rs2 (immB w))
  | 0x03 => if f3 = 7 then none else some (.load f3 rd rs1 immI)
  | 0x23 => if 3 < f3 then none else some (.store f3 rs1 rs2 (sxt 12 (rd + f7 * 32)))
  | 0x13 =>
    if f3 = 1 then (if fld w 26 6 = 0 then some (.imm .sll false rd rs1 (BitVec.ofNat 64 (fld w 20 6))) else none)
    else if f3 = 5 then
      (if fld w 26 6 = 0 then some (.imm .srl false rd rs1 (BitVec.ofNat 64 (fld w 20 6)))
       else if fld w 26 6 = 0x10 then some (.imm .sra false rd rs1 (BitVec.ofNat 64 (fld w 20 6))) else none)
    else some (.imm (aluOf f3) false rd rs1 immI)
  | 0x1B =>
    if f3 = 0 then some (.imm .add true rd rs1 immI)
    else if f3 = 1 ∧ f7 = 0 then some (.imm .sll true rd rs1 (BitVec.ofNat 64 rs2))
    else if f3 = 5 ∧ f7 = 0 then some (.imm .srl true rd rs1 (BitVec.ofNat 64 rs2))
    else if f3 = 5 ∧ f7 = 0x20 then some (.imm .sra true rd rs1 (BitVec.ofNat 64 rs2))
    else none
  | 0x33 =>
    if f7 = 0 then some (.reg (aluOf f3) false rd rs1 rs2)
    else if f7 = 1 then some (.reg (mulOf f3) false rd rs1 rs2)
    else if f7 = 0x20 ∧ f3 = 0 then some (.reg .sub false rd rs1 rs2)
    else if f7 = 0x20 ∧ f3 = 5 then some (.reg .sra false rd rs1 rs2)
    else none
  | 0x3B =>
    if f7 = 0 ∧ (f3 = 0 ∨ f3 = 1 ∨ f3 = 5) then some (.reg (aluOf f3) true rd rs1 rs2)
    else if f7 = 1 ∧ (f3 = 0 ∨ 4 ≤ f3) then some (.reg (mulOf f3) true rd rs1 rs2)
    else if f7 = 0x20 ∧ f3 = 0 then some (.reg .sub true rd rs1 rs2)
    else if f7 = 0x20 ∧ f3 = 5 then some (.reg .sra true rd rs1 rs2)
    else none
  | 0x0F => if f3 = 0 then some .fence else if f3 = 1 then some .fenceI else none
  | 0x73 => if (f3 = 2 ∨ f3 = 6) ∧ rs1 = 0 ∧ 0xC00 ≤ fld w 20 12 ∧ fld w 20 12 ≤ 0xC02 then some (.csr rd (fld w 20 12)) else none
  | 0x0B => if tensorOk f3 (fld w 25 2) rs1 rs2 (fld w 27 5) rd then some (.tensor f3 (fld w 25 2) rs1 rs2 (fld w 27 5) rd) else none
  | 0x2B => if vectorOk f3 (fld w 25 2) then some (.vector f3 (fld w 25 2) rs1 rs2 (fld w 27 5) rd) else none
  | _ => none

/-- A 16-bit instruction; none is illegal. -/
def decode16 (w : Nat) : Option Rv :=
  let rdq := 8 + fld w 2 3          -- rd' or rs2'
  let rsq := 8 + fld w 7 3          -- rs1' or rd'
  let rd := fld w 7 5
  let rs2 := fld w 2 5
  let imm6 := sxt 6 (fld w 2 5 + fld w 12 1 * 32)
  let sh := BitVec.ofNat 64 (fld w 2 5 + fld w 12 1 * 32)
  let offW := BitVec.ofNat 64 (fld w 6 1 * 4 + fld w 10 3 * 8 + fld w 5 1 * 64)
  let offD := BitVec.ofNat 64 (fld w 10 3 * 8 + fld w 5 2 * 64)
  let cj := sxt 12 (fld w 3 3 * 2 + fld w 11 1 * 16 + fld w 2 1 * 32 + fld w 7 1 * 64 + fld w 6 1 * 128 + fld w 9 2 * 256 +
    fld w 8 1 * 1024 + fld w 12 1 * 2048)
  let cb := sxt 9 (fld w 3 2 * 2 + fld w 10 2 * 8 + fld w 2 1 * 32 + fld w 5 2 * 64 + fld w 12 1 * 256)
  match fld w 0 2, fld w 13 3 with
  | 0, 0 =>
    let n := fld w 6 1 * 4 + fld w 5 1 * 8 + fld w 11 2 * 16 + fld w 7 4 * 64
    if n = 0 then none else some (.imm .add false rdq 2 (BitVec.ofNat 64 n))
  | 0, 2 => some (.load 2 rdq rsq offW)
  | 0, 3 => some (.load 3 rdq rsq offD)
  | 0, 6 => some (.store 2 rsq rdq offW)
  | 0, 7 => some (.store 3 rsq rdq offD)
  | 1, 0 => some (.imm .add false rd rd imm6)
  | 1, 1 => if rd = 0 then none else some (.imm .add true rd rd imm6)
  | 1, 2 => some (.imm .add false rd 0 imm6)
  | 1, 3 =>
    if fld w 2 5 = 0 ∧ fld w 12 1 = 0 then none
    else if rd = 2 then
      some (.imm .add false 2 2 (sxt 10 (fld w 6 1 * 16 + fld w 2 1 * 32 + fld w 5 1 * 64 + fld w 3 2 * 128 + fld w 12 1 * 512)))
    else some (.lui rd (sxt 18 (fld w 2 5 * 4096 + fld w 12 1 * 2 ^ 17)))
  | 1, 4 =>
    match fld w 10 2 with
    | 0 => some (.imm .srl false rsq rsq sh)
    | 1 => some (.imm .sra false rsq rsq sh)
    | 2 => some (.imm .and false rsq rsq imm6)
    | _ =>
      match fld w 12 1, fld w 5 2 with
      | 0, 0 => some (.reg .sub false rsq rsq rdq)
      | 0, 1 => some (.reg .xor false rsq rsq rdq)
      | 0, 2 => some (.reg .or false rsq rsq rdq)
      | 0, 3 => some (.reg .and false rsq rsq rdq)
      | 1, 0 => some (.reg .sub true rsq rsq rdq)
      | 1, 1 => some (.reg .add true rsq rsq rdq)
      | _, _ => none
  | 1, 5 => some (.jal 0 cj)
  | 1, 6 => some (.branch 0 rsq 0 cb)
  | 1, 7 => some (.branch 1 rsq 0 cb)
  | 2, 0 => some (.imm .sll false rd rd sh)
  | 2, 2 =>
    if rd = 0 then none
    else some (.load 2 rd 2 (BitVec.ofNat 64 (fld w 4 3 * 4 + fld w 12 1 * 32 + fld w 2 2 * 64)))
  | 2, 3 =>
    if rd = 0 then none
    else some (.load 3 rd 2 (BitVec.ofNat 64 (fld w 5 2 * 8 + fld w 12 1 * 32 + fld w 2 3 * 64)))
  | 2, 4 =>
    if fld w 12 1 = 0 then
      if rs2 = 0 then (if rd = 0 then none else some (.jalr 0 rd 0)) else some (.reg .add false rd 0 rs2)
    else if rs2 = 0 then (if rd = 0 then none else some (.jalr 1 rd 0))
    else some (.reg .add false rd rd rs2)
  | 2, 6 => some (.store 2 2 rs2 (BitVec.ofNat 64 (fld w 9 4 * 4 + fld w 7 2 * 64)))
  | 2, 7 => some (.store 3 2 rs2 (BitVec.ofNat 64 (fld w 10 3 * 8 + fld w 7 3 * 64)))
  | _, _ => none

/-! ## Arithmetic -/

/-- An operation at 64 bits. -/
def Alu.run64 (op : Alu) (a b : Word) : Word :=
  match op with
  | .add => a + b
  | .sub => a - b
  | .sll => a <<< (b.toNat % 64)
  | .slt => if a.toInt < b.toInt then 1 else 0
  | .sltu => if a.toNat < b.toNat then 1 else 0
  | .xor => a ^^^ b
  | .srl => a >>> (b.toNat % 64)
  | .sra => a.sshiftRight (b.toNat % 64)
  | .or => a ||| b
  | .and => a &&& b
  | .mul => a * b
  | .mulh => BitVec.ofInt 64 (a.toInt * b.toInt / 2 ^ 64)
  | .mulhsu => BitVec.ofInt 64 (a.toInt * b.toNat / 2 ^ 64)
  | .mulhu => BitVec.ofNat 64 (a.toNat * b.toNat / 2 ^ 64)
  | .div => if b = 0 then BitVec.allOnes 64 else BitVec.ofInt 64 (a.toInt.tdiv b.toInt)
  | .divu => if b = 0 then BitVec.allOnes 64 else BitVec.ofNat 64 (a.toNat / b.toNat)
  | .rem => if b = 0 then a else BitVec.ofInt 64 (a.toInt.tmod b.toInt)
  | .remu => if b = 0 then a else BitVec.ofNat 64 (a.toNat % b.toNat)

/-- An operation of a W instruction: on the low 32 bits, the result sign-extended. -/
def Alu.run32 (op : Alu) (a b : Word) : Word :=
  let x := a.toNat % 2 ^ 32
  let y := b.toNat % 2 ^ 32
  let sx := sgn 32 x
  let sy := sgn 32 y
  let out (v : Int) : Word := sxt 32 (v % 2 ^ 32).toNat
  match op with
  | .add => out (sx + sy)
  | .sub => out (sx - sy)
  | .sll => out ((x * 2 ^ (y % 32) : Nat) : Int)
  | .srl => out ((x / 2 ^ (y % 32) : Nat) : Int)
  | .sra => out (sx / 2 ^ (y % 32))
  | .mul => out (sx * sy)
  | .div => if y = 0 then BitVec.allOnes 64 else out (sx.tdiv sy)
  | .divu => if y = 0 then BitVec.allOnes 64 else out ((x / y : Nat) : Int)
  | .rem => if y = 0 then out sx else out (sx.tmod sy)
  | .remu => if y = 0 then out sx else out ((x % y : Nat) : Int)
  | _ => out sx

def Alu.run (op : Alu) (w32 : Bool) (a b : Word) : Word := if w32 then op.run32 a b else op.run64 a b

def branchTaken (f3 : Nat) (a b : Word) : Bool :=
  match f3 with
  | 0 => a == b
  | 1 => a != b
  | 4 => decide (a.toInt < b.toInt)
  | 5 => decide (b.toInt ≤ a.toInt)
  | 6 => decide (a.toNat < b.toNat)
  | _ => decide (b.toNat ≤ a.toNat)

/-! ## Memory -/

/-- What an access of a stream meets. -/
inductive CoreRes where
  | ok (b : List Byte)
  | fault (a : Option Nat)        -- the physical address, where the access has one
  | bad (cls a : Nat) (detail : List (Nat × Nat × Nat))
  deriving DecidableEq, Repr

/-- The physical address of a context address, if the access is allowed (16 R375). -/
def Hw.ctxAddr (h : Hw) (g right a n : Nat) : Option Nat :=
  if a / 2 ^ 48 ≠ 0 then none
  else match h.tileCtx g with
    | some c => h.coreThrough c (fld a 42 6) right (fld a 0 42) n
    | none => none

/-- The physical address that a context address names where its window is valid (18 Table 18-2), keyed (10 R241). -/
def Hw.ctxPhys (h : Hw) (g a : Nat) : Option Nat :=
  match (if a / 2 ^ 48 ≠ 0 then none else h.tileCtx g) with
  | some c => if (h.win c (fld a 42 6)).valid then some (keyOf ((h.win c (fld a 42 6)).base + fld a 0 42)) else none
  | none => none

/-- A fetch or load of `n` naturally aligned bytes at a physical address by tile g's control core. -/
def Hw.coreLoad (id : Ident) (h : Hw) (g right pa n : Nat) : CoreRes × Hw :=
  if 0x2800000 ≤ pa ∧ pa < 0x3000000 then
    if right = rRead ∧ (n = 8 ∨ n = 4) then
      (.ok (if pa % 8 = 0 then toLE n (h.doorbellRead id ((pa - 0x2800000) / 8)) else toLE n 0), h)
    else (.fault (some (keyOf pa)), h)
  else match locate id pa with
    | .gran t off =>
      if h.reachable id pa then match h.granRead t off n with
        | .ok b => (.ok b, h.granFix t off n)
        | .error e => (.bad 0x05 e [(40, 1, 0)], h.bump (tileReg t 0xCC0) 32 16 1)
      else (.fault (some (keyOf pa)), h)
    | _ => match h.cacheWord g (keyOf pa) n with
      | some w => (.bad 0x05 w [(40, 1, 2)], h)
      | none => match h.agentLoad id g pa n with
        | (.ok b, h) => (.ok b, { h with resp := .none })
        | (.fault x, h) => (.fault (some x), h)
        | (.bad cls x, h) => (.bad cls x [(40, 1, 0)], h)

/-- A store, likewise. -/
def Hw.coreStore (id : Ident) (h : Hw) (g pa : Nat) (b : List Byte) : CoreRes × Hw :=
  if 0x2800000 ≤ pa ∧ pa < 0x3000000 then
    if b.length = 8 ∨ b.length = 4 then (.ok [], doorbellWrite id ((pa - 0x2800000) / 8) b.length (pa % 8) (leNat b) h)
    else (.fault (some (keyOf pa)), h)
  else match locate id pa with
    | .gran t off => if h.reachable id pa then (.ok [], if h.accelHeld then h else h.granWrite t off b) else (.fault (some (keyOf pa)), h)
    | _ => match h.opMeets g (keyOf pa) (.store b) with
      | some w => (.bad 0x05 w [(40, 1, 2)], h)
      | none => match h.agentStore id g pa b with
        | (.ok _, h) => (.ok [], { h with resp := .none })
        | (.fault x, h) => (.fault (some x), h)
        | (.bad cls x, h) => (.bad cls x [(40, 1, 0)], h)

/-- What a faulting access does to the stream: kind 0 fetch, 1 load, 2 store. -/
def Hw.accFault (h : Hw) (g s kind pc : Nat) (r : CoreRes) : Hw :=
  match r with
  | .ok _ => h
  | .fault a => h.accessFault g s kind pc a
  | .bad cls a detail => h.streamUncorr g s pc cls (srcStream g) a detail none

/-- Fetch `n` bytes at the context address `a`. -/
def Hw.fetchN (id : Ident) (h : Hw) (g a n : Nat) : CoreRes × Hw :=
  match h.ctxAddr g rExec a n with
  | none => (.fault (h.ctxPhys g a), h)
  | some pa => h.coreLoad id g rExec pa n

/-- The instruction word at the context address `pc` and its length in bytes. -/
def Hw.fetchInstr (id : Ident) (h : Hw) (g pc : Nat) : CoreRes × Hw :=
  match h.fetchN id g pc 2 with
  | (.ok lo, h) =>
    if leNat lo % 4 ≠ 3 then (.ok lo, h)
    else match h.fetchN id g (pc + 2) 2 with
      | (.ok hi, h) => (.ok (lo ++ hi), h)
      | r => r
  | r => r

/-! ## Execution -/

/-- FENCE: the model's accesses reach their homes in order, so it only retires. -/
def Hw.fence (h : Hw) (g s len : Nat) : Hw := h.issued g s len

/-- FENCE_I (R478): fetches observe every store as it is made, so it only retires. -/
def fenceI (g s : Nat) (h : Hw) : Hw := h.issue g s [] (fun h => h.issued g s 4)

/-- CSR_COUNTER_READ (R478): the cycle count is timing, and free. -/
def csrCounterRead (g s rd csr : Nat) (h : Hw) : Hw :=
  let x := h.stream g s
  h.issue g s [rd] (fun h =>
    if csr = 0xC00 then
      let (v, h) := h.draw
      (h.issued g s 4).modStream g s (fun x => x.setX rd v)
    else if csr = 0xC01 then (h.issued g s 4).modStream g s (fun x => x.setX rd (BitVec.ofNat 64 h.bellNs))
    else if csr = 0xC02 then (h.issued g s 4).modStream g s (fun y => y.setX rd (BitVec.ofNat 64 x.instret))
    else h.streamFault g s 0x01 0 x.pc)

def loadSize (f3 : Nat) : Nat := 2 ^ (f3 % 4)

/-- A value loaded by funct3, extended. -/
def loadValue (f3 : Nat) (b : List Byte) : Word :=
  if f3 < 4 then sxt (8 * loadSize f3) (leNat b) else BitVec.ofNat 64 (leNat b)

/-- Tensor commands and the tile control instructions (R96). -/
def tensorInstr (g s f3 f2 rs1 rs2 rs3 sy : Nat) (h : Hw) : Hw :=
  match f3 with
  | 0 => matrixIssue false g s rs1 rs2 rs3 sy h
  | 1 => matrixIssue true g s rs1 rs2 rs3 sy h
  | 2 => cartIssue g s rs1 rs2 sy h
  | 3 => if f2 = 0 then talloc g s rs1 sy h else if f2 = 1 then gfence g s sy h else if f2 = 2 then tstepIssue g s rs1 sy h else tnopIssue g s sy h
  | 4 => twait (f2 == 1) g s rs1 rs2 h
  | 5 => if f2 = 0 then tsig g s rs1 rs2 h else tsigRemote g s rs1 rs2 rs3 h
  | _ => tend g s h

/-- Execute a decoded instruction of `len` bytes; one that touches a pending register waits (R110). -/
def Rv.run (i : Rv) (id : Ident) (g s len : Nat) (h : Hw) : Hw :=
  let x := h.stream g s
  let pc := x.pc
  let wr (rd : Nat) (v : Word) (h : Hw) : Hw := (h.issued g s len).modStream g s (fun x => x.setX rd v)
  let goto (h : Hw) (a : Word) : Hw := h.modStream g s (fun x => { x with pc := a.toNat / 2 * 2 })
  let pcw : Word := BitVec.ofNat 64 pc
  let next : Word := BitVec.ofNat 64 (pc + len)
  match i with
  | .lui rd v => h.issue g s [rd] (wr rd v)
  | .auipc rd v => h.issue g s [rd] (wr rd (pcw + v))
  | .jal rd off => h.issue g s [rd] (fun h => goto (wr rd next h) (pcw + off))
  | .jalr rd rs1 off => h.issue g s [rd, rs1] (fun h => goto (wr rd next h) (x.getX rs1 + off))
  | .branch f3 rs1 rs2 off => h.issue g s [rs1, rs2] (fun h =>
      let h := h.issued g s len
      if branchTaken f3 (x.getX rs1) (x.getX rs2) then goto h (pcw + off) else h)
  | .load f3 rd rs1 off => h.issue g s [rd, rs1] (fun h =>
      let a := (x.getX rs1 + off).toNat
      let n := loadSize f3
      if a % n ≠ 0 then h.streamFault g s 0x06 0 pc
      else match h.ctxAddr g rRead a n with
        | none => h.accessFault g s 1 pc (h.ctxPhys g a)
        | some pa => match h.coreLoad id g rRead pa n with
          | (.ok b, h) => (h.issued g s len).modStream g s (fun x => x.setX rd (loadValue f3 b))
          | (r, h) => h.accFault g s 1 pc r)
  | .store f3 rs1 rs2 off => h.issue g s [rs1, rs2] (fun h =>
      let a := (x.getX rs1 + off).toNat
      let n := loadSize f3
      if a % n ≠ 0 then h.streamFault g s 0x06 0 pc
      else match h.ctxAddr g rWrite a n with
        | none => h.accessFault g s 2 pc (h.ctxPhys g a)
        | some pa => match h.coreStore id g pa (toLE n (x.getX rs2).toNat) with
          | (.ok _, h) => h.issued g s len
          | (r, h) => h.accFault g s 2 pc r)
  | .imm op w32 rd rs1 v => h.issue g s [rd, rs1] (wr rd (op.run w32 (x.getX rs1) v))
  | .reg op w32 rd rs1 rs2 => h.issue g s [rd, rs1, rs2] (wr rd (op.run w32 (x.getX rs1) (x.getX rs2)))
  | .fence => h.issue g s [] (fun h => h.fence g s len)
  | .fenceI => Sys2Proof.Machine.fenceI g s h
  | .csr rd n => csrCounterRead g s rd n h
  | .tensor f3 f2 rs1 rs2 rs3 sy => tensorInstr g s f3 f2 rs1 rs2 rs3 sy h
  | .vector f3 f2 rs1 rs2 rs3 sy =>
    if f3 = 6 then updateIssue g s rs1 rs2 rs3 sy h else vecIssue f3 f2 g s rs1 rs2 rs3 sy h

/-- STREAM_INSTRUCTION: fetch, decode and execute one instruction of a stream that can issue and has its turn (R80). -/
def streamInstruction (id : Ident) (g s : Nat) (h : Hw) : Hw :=
  let x := h.stream g s
  if !h.mayIssue g s [] then h
  else match h.fetchInstr id g x.pc with
    | (.ok b, h) =>
      match (if b.length = 2 then decode16 (leNat b) else decode32 (leNat b)) with
      | some i => i.run id g s b.length h
      | none => h.streamFault g s 0x01 0 x.pc
    | (r, h) => h.accFault g s 0 x.pc r

end Sys2Proof.Machine
end

