-- ==== Sys2Proof/Machine/Access.lean ====
section
/-!
DEFINITION. Access.lean: register accesses by harts: what every register reads as, and what a write of it does
(00 R10 to R15, R477, 16 R390 to R393).
-/
namespace Sys2Proof.Machine

/-! ## Reading -/

/-- The bits of a field. -/
def Field.mask (f : Field) : Nat := 2 ^ (f.hi + 1) - 2 ^ f.lo

/-- The bits of fields of an access code. -/
def accMask (fs : List Field) (p : Field → Bool) : Nat := fs.foldl (fun a f => if p f then a + f.mask else a) 0

/-- A register's stored fields as they read: Boundary fields from the shadow, WO fields as zero (00 Table 00-4). -/
def Hw.stored (h : Hw) (pa : Nat) (fs : List Field) : Nat :=
  let sh := match SMap.get none h.shadow pa with
    | some v => v.toNat
    | none => h.reg pa
  (h.reg pa &&& accMask fs (fun f => f.acc != .wo && f.upd != .boundary)) ||| (sh &&& accMask fs (fun f => f.upd == .boundary))

/-- PENDING of a register with Boundary fields (R391). -/
def Hw.pendingBit (h : Hw) (pa : Nat) : Nat := if (SMap.get none h.shadow pa).isSome then 2 ^ 63 else 0

/-- A word from (low bit, value) pairs of fields that do not overlap. -/
def wordOf (fs : List (Nat × Nat)) : Nat := fs.foldl (fun a f => a + f.2 * 2 ^ f.1) 0

def Hw.streamStatus (h : Hw) (g s : Nat) : Nat :=
  let x := h.stream g s
  let w := h.waitOf g s
  let st := match x.st with
    | .idle => 0
    | .running => 1
    | .stopping => 2
    | .faulted => 3
  wordOf [(62, st), (61, if x.notsup then 1 else 0), (48, x.cause % 256), (40, x.detail % 256), (24, w.1), (16, w.2 % 64), (0, x.queue.length % 64)]

/-- Read-only bits of a tile register. -/
def Hw.tileView (id : Ident) (h : Hw) (g off : Nat) : Nat :=
  let t := h.tile g
  let s := off % 0x20 / 8
  if off = 0 then wordOf [(32, h.pkgFeature % 256), (24, (id.die (g / 10)).letter % 256), (16, (id.die (g / 10)).digit % 256), (14, if id.tiles80 || g % 10 != 9 then 1 else 0), (10, g % 10), (7, g / 10), (0, g)]
  else if 0x60 ≤ off ∧ off < 0x78 then h.streamStatus g s
  else if 0x80 ≤ off ∧ off < 0x98 then (t.stream s).retired
  else if 0xA0 ≤ off ∧ off < 0xB8 then (t.stream s).issued
  else if 0x120 ≤ off ∧ off < 0x138 then (t.stream s).faultPc
  else if 0xC0 ≤ off ∧ off < 0xD8 then (t.stream s).granted % 2 ^ 32 + (t.stream s).request % 2 ^ 32 * 2 ^ 32
  else if 0x708 ≤ off ∧ off < 0x720 then
    let k := (off - 0x708) / 8
    let run : Bool := (match t.vec with
      | some v => v.stream == k
      | none => false) || (match t.upd with
      | some u => u.stream == k
      | none => false)
    wordOf [(63, if run then 1 else 0), (16, (t.stream k).q % 2 ^ 24)]
  else if 0x200 ≤ off ∧ off < 0x600 then
    (List.range 64).foldl (fun a k => a + (if ((t.core ((off - 0x200) / 8 * 8 + k / 8)).slot (k % 8)).sat then 2 ^ k else 0)) 0
  else if 0x720 ≤ off ∧ off < 0x738 then (t.stream ((off - 0x720) / 8)).step.toNat
  else if 0x800 ≤ off ∧ off < 0xA00 then t.token ((off - 0x800) / 8) % 65536
  else if 0x1000 ≤ off ∧ off < 0x1300 then ((t.stream ((off - 0x1000) / 0x100)).getX (off % 0x100 / 8)).toNat
  else if 0xC88 ≤ off ∧ off < 0xCA8 then
    let c := t.cart ((off - 0xC88) / 8)
    wordOf [(63, if c.busy then 1 else 0), (56, c.stream % 4), (32, c.op % 16), (0, c.remain % 2 ^ 32)]
  else if off = 0xD00 then (h.reg (tileReg g 0xD00) &&& 0xFF003FFFFF) + (if t.upd.isSome then 2 ^ 63 else 0)
  else if off = 0x180 ∨ off = 0xD08 then h.pendingBit (tileReg g off)
  else 0

/-- Die-frame edge of package direction p at a die with these straps (11 R263). -/
def edgeOf (straps p : Nat) : Nat :=
  let west := straps % 2 == straps / 2 % 2      -- ROT XOR MIRROR = 0: die-west lies to the left
  match p with
  | 0 => 0
  | 1 => 2
  | 2 => if west then 3 else 1
  | _ => if west then 1 else 3

def Hw.siteStatus (h : Hw) (k edge : Nat) : Nat :=
  let x := h.site k
  wordOf [(61, if siteUsed k then x.st else if h.dieMet (k / 4) then 5 else 0), (56, edge),
    (32, if siteUsed k then (x.spares + (h.site (sitePeer k)).spares) % 256 else 0), (0, x.attempts % 16)]

/-- Read-only bits of a field die's registers. -/
def Hw.dieView (id : Ident) (h : Hw) (b : Blk) (i off : Nat) : Nat :=
  match b with
  | .die =>
    if off = 0 then dieId id i - (if h.dieMet i then 0 else i)
    else if off = 8 then dieFeature
    else if off = 16 then
      let m := id.die i
      let met (v : Nat) : Nat := if h.dieMet i then v else 0
      wordOf [(28, id.dis1 i % 16), (24, m.dis0 % 16), (16, met (if m.straps = strapsFor i then 0 else 1)), (8, met i),
        (0, m.straps % 8)]
    else 0
  | .link => if off < 32 then h.siteStatus (4 * i + off / 8) (edgeOf (id.die i).straps (off / 8)) else 0
  | .hbm =>
    if off = 0 then
      let s := h.stack i
      wordOf [(61, s.st.code), (60, if s.doubledRefresh then 1 else 0), (40, s.hppr % 256), (32, min (s.used 1) 255),
        (16, min (s.used 3) 512), (8, min (s.used 2) 255)]
    else 0
  | .cellar => if off = 0 then (if (h.slice i).flushing = [] then 0 else 2 ^ 62) else 0
  | .therm =>
    if off < 16 then
      let s := h.stack (2 * i + off / 8)
      wordOf [(62, s.level % 4), (58, (List.range 4).foldl (fun a k => a + (if (SMap.get Sensor.init s.sensors k).valid then 2 ^ k else 0)) 0),
        (0, bits16 s.temp)]
    else 0
  | .scrub => if off = 0 then h.pendingBit (blkBase .scrub i) else 0
  | .pwr =>
    if off = 0 then
      wordOf ((61, h.power.ceilOf i) :: (List.range 10).flatMap (fun t =>
        let g := 10 * i + t
        if h.present id g then [(6 * t + 3, h.power.effOf g), (6 * t, h.power.reqOf g)] else [(6 * t + 3, 7), (6 * t, 7)]))
    else if off = 0x18 then SMap.get 0 h.power.uj i
    else 0
  | .dobs =>
    if off < 0x800 then h.reg (blkBase .dobs i + off)
    else if 0x900 ≤ off ∧ off ≤ 0x958 then SMap.get 0 h.obs.elatch (16 * i + (off - 0x900) / 8)
    else if 0x1000 ≤ off ∧ off < 0x1140 then
      let w := SMap.get Tithe.init h.tithe (40 * i + (off - 0x1000) / 8)
      wordOf [(63, if w.enable then 1 else 0), (62, if w.once then 1 else 0), (61, if w.digest then 1 else 0), (59, w.stream % 4), (47, w.ctx % 4096),
        (29, w.yoff % 2 ^ 18), (11, w.recOff % 2 ^ 18)]
    else 0
  | _ => 0

/-- Read-only bits of a carter's registers. -/
def Hw.carterView (h : Hw) (i off : Nat) : Nat :=
  if 0x40 ≤ off ∧ off < 0x80 then
    let l := (off - 0x40) / 8
    let x := h.flink (8 * i + l)
    let fab (v : Nat) : Nat := if h.portMode i = 1 then 0 else v
    wordOf [(61, if h.portLinks i ≤ l then (if h.boot.phase = 7 ∨ h.boot.phase = 8 then 4 else 0) else x.st),
      (60, if h.lampLit (i / 4) then 1 else 0), (56, fab (x.peerPort % 16)), (53, fab (x.peerLink % 8)),
      (0, x.peerId % 2 ^ 32)]
  else if off = 0x220 then 1
  else if off = 0x228 then h.fab.black.length % 256 * 2 ^ 56
  else if i = 0 ∧ off = 0x8008 then
    wordOf [(62, h.fab.leaseSt % 4), (0, if h.fab.leaseSt = 1 then (h.fab.leaseAt - h.localNs) / 1000000 % 2 ^ 32 else 0)]
  else if i = 0 ∧ off = 0x8010 then h.fab.epoch
  else 0

/-- Read-only bits of the clerk's registers. -/
def Hw.clerkView (e : ErrRing) (h : Hw) (off : Nat) : Nat :=
  if off < 0x40000 then
    let b := h.mbox (off / 4096)
    let o := off % 4096
    if o < 0x40 then recN b.req o 8
    else if o < 0x80 then recN b.rep (o - 0x40) 8
    else if o = 0x88 then wordOf [(63, if b.busy then 1 else 0), (62, if b.done then 1 else 0), (16, b.last % 256)]
    else if o = 0x90 then (match b.bound with
      | some c => 2 ^ 63 + c % 4096
      | none => 0)
    else 0
  else if off = 0x40000 then h.clerkInfo
  else if off = 0x40008 then wordOf [(32, e.unread % 65536), (16, e.recs.length % 65536)]
  else if off = 0x40010 then e.next
  else if off = 0x40018 then e.overN % 2 ^ 32 * 2 ^ 32
  else if off = 0x40100 then
    wordOf [(60, h.boot.phase % 16), (56, h.boot.cause % 16), (55, if h.boot.retained then 1 else 0), (54, h.boot.bank % 2),
      (53, if h.boot.unlocked then 1 else 0), (48, h.boot.scopes % 16), (40, h.boot.fails % 256), (0, h.boot.iver % 2 ^ 32)]
  else if off = 0x40108 then (if h.boot.busy then 2 ^ 62 else 0)
  else if off = 0x40110 then
    1 + ((List.range 64).filter (fun i => decide (0 < i) && h.hartOn i)).foldl (fun a i => a + 2 ^ i) 0
  else 0

/-- Read-only bits of the steward's registers (16 R393, 15 R367, R368). -/
def Hw.stewardView (id : Ident) (h : Hw) (off : Nat) : Nat :=
  if off < 0x400000 then
    let w := h.win (off / 0x400) (off % 0x400 / 16)
    if off % 16 < 8 then (if w.valid then 2 ^ 63 else 0) + w.rights % 64 * 2 ^ 48 + w.base % 2 ^ 48 / 4096 * 4096
    else w.gen % 65536 * 2 ^ 48 + w.len % 2 ^ 48 / 4096 * 4096
  else if off < 0x420000 then
    let q := (off - 0x400000) / 8 * 64
    (List.range 64).foldl (fun a i => a + (if SMap.get false h.bitmap (q + i) then 2 ^ i else 0)) 0
  else if off < 0x428000 then
    let c := (off - 0x420000) / 8
    let x := h.ctx c
    wordOf [(62, x.st % 4), (48, x.fcls % 256), (0, (List.range 64).countP (fun w => (h.win c w).valid))]
  else if off < 0x430000 then (h.ctx ((off - 0x428000) / 8)).energy / 1000
  else if off < 0x430280 then
    let r := h.res ((off - 0x430000) / 8)
    wordOf [(62, r.st % 4), (48, r.ctx % 4096), (40, r.entry % 256), (0, r.model % 2 ^ 32)]
  else if 0x800000 ≤ off then h.doorbellRead id ((off - 0x800000) / 8)
  else 0

/-- WATCH.STATUS.ACTION: the decision in progress, else throttling while a throttle condition holds. -/
def Hw.watchAction (h : Hw) : Nat :=
  if h.power.action ≠ 0 then h.power.action
  else if h.power.capHeld || (List.range 9).any (fun d => decide (0 < h.power.watchCeil d)) then 1 else 0

/-- Read-only bits of the hub's observation registers (19 Tables 19-12 to 19-16). -/
def Hw.hobsView (h : Hw) (off : Nat) : Nat :=
  if off < 0x1000 then h.reg (blkBase .hobs 0 + off)
  else if 0x1100 ≤ off ∧ off ≤ 0x1120 then SMap.get 0 h.obs.elatch (128 + (off - 0x1100) / 8)
  else if off = 0x2000 then h.chron.write % 2 ^ 32 * 2 ^ 32 + h.chron.read % 2 ^ 32
  else if off = 0x2008 then wordOf [(63, if h.chron.running then 1 else 0), (62, if h.chron.configured then 1 else 0), (0, h.chron.total % 2 ^ 62)]
  else if off = 0x3008 then (if h.obs.census.isSome then 2 ^ 63 else 0)
  else if 0x4000 ≤ off ∧ off < 0x6000 then
    let g := h.gauge ((off - 0x4000) / 256)
    let o := off % 256
    let b32 (x : Option Int) : Nat := match x with
      | some v => (v % 2 ^ 32).toNat
      | none => 0
    if o = 0 then b32 g.max * 2 ^ 32 + b32 g.min
    else if o = 8 then g.n
    else if o < 0x90 then
      let j := (o - 16) / 8
      SMap.get 0 g.bins (2 * j + 1) * 2 ^ 32 + SMap.get 0 g.bins (2 * j)
    else 0
  else 0

/-- Read-only bits of the remaining blocks. -/
def Hw.hubView (id : Ident) (h : Hw) (b : Blk) (off : Nat) : Nat :=
  match b with
  | .hub =>
    if off = 0 then hubId id
    else if off = 8 then dieFeature
    else if off = 16 then h.pkgFeature
    else if off = 24 then h.dieState
    else 0
  | .reeve =>
    if off = 8 then h.reg (blkBase .reeve 0 + 8) &&& 0xC000000000000000
    else if 0x10000 ≤ off ∧ off < 0x20000 ∧ off % 4096 = 0 then
      let i := (off - 0x10000) / 4096
      let n (l : List Txn) : Nat := l.countP (fun t => sliceOf t.key == i)
      wordOf [(48, n h.memS.open_ % 65536), (32, n h.memS.wait % 65536), (0, (h.memS.roll.map (·.1) ++ h.memS.open_.flatMap (·.ways)).eraseDups.countP (fun k => sliceOf (k * 64) == i) % 2 ^ 19)]
    else 0
  | .repl =>
    if 0x200 ≤ off ∧ off < 0x400 then
      let g := h.grp ((off - 0x200) / 8)
      wordOf [(61, g.st % 8), (58, if g.late then 1 else 0), (48, g.reason % 256), (24, if 2 ≤ g.st then min g.pendingN 0xFFFFFF else 0)]
    else if 0x400 ≤ off ∧ off < 0x600 then (h.grp ((off - 0x400) / 8)).step
    else 0
  | .bell =>
    if off = 0 then h.bellNs
    else if off = 8 then h.bellNs % 2 ^ 48 * 65536 + h.bell.frac / 2 ^ 32
    else if off = 16 then (h.bell.lastStep % 2 ^ 64).toNat
    else if off = 0x40 then wordOf [(62, h.bell.lock % 4), (61, if h.bell.slew = 0 then 0 else 1), (0, (h.bell.lastErr % 2 ^ 32).toNat)]
    else if off = 0x50 then h.bell.rxHead % 65536 * 2 ^ 48 + h.bell.txTail % 65536
    else if 0x30000 ≤ off ∧ off < 0x38000 then (if SMap.get false h.bell.bad ((off - 0x30000) / 8) then 1 else 0)
    else 0
  | .mill =>
    if 0x1000 ≤ off ∧ off < 0x1400 then
      let c := (off - 0x1000) / 64
      let x := h.chute c
      if off % 64 = 8 then
        wordOf [(62, if !x.on then 0 else if x.inBatch then 1 else 2), (61, if x.alarm then 1 else 0), (48, x.reason % 256),
          (32, x.samples.countP (fun s => !s.done) % 4096), (0, h.ready c)]
      else if off % 64 = 16 then x.head % 2 ^ 32
      else if off % 64 = 24 then x.released % 2 ^ 32
      else 0
    else 0
  | .ddr => if off = 0 then h.pendingBit (blkBase .ddr 0) else 0
  | .hlink => if off < 0x800 ∧ off % 256 = 0 then h.siteStatus (32 + off / 256) 0 else 0
  | .watch =>
    if off = 8 then
      wordOf [(61, h.watchAction % 8), (48, h.power.cause % 256), (32, bits16 (h.power.input 11)), (16, bits16 (h.power.input 12)),
        (0, bits16 (h.power.input 13))]
    else if off = 16 then
      wordOf [(48, bits16 (h.power.input 9)), (32, bits16 (h.power.input 10)), (16, h.power.inputW % 65536), (3, if h.power.bank then 1 else 0),
        (2, if h.power.mainSw then 1 else 0), (0, h.power.leak % 4)]
    else if 0x100 ≤ off ∧ off < 0x180 then h.crashF (off - 0x100) 8
    else if 0x200 ≤ off ∧ off < 0x220 then
      let l := h.lamp ((off - 0x200) / 8)
      if l.seen then wordOf [(61, l.st % 8), (60, if l.open_ then 1 else 0), (32, l.temp % 65536), (0, l.hours % 2 ^ 32)] else 0
    else 0
  | .hobs => h.hobsView off
  | _ => 0

/-- What a register reads as, whole: its stored fields and its read-only ones. An offset without a register reads zero (09 R202). -/
def Hw.regView (id : Ident) (e : ErrRing) (h : Hw) (b : Blk) (i off : Nat) : Nat :=
  let pa := blkBase b i + off
  let st := match regFind b off allRegs with
    | some (r, _) => if b = .carter ∧ i ≠ 0 ∧ off = 0x8000 then 0 else h.stored pa r.fields
    | none => 0
  match b with
  | .tile =>
    if 0x800 ≤ off ∧ off < 0xA00 ∨ 0x1000 ≤ off ∧ off < 0x1300 then h.tileView id i off
    else st ||| h.tileView id i off
  | .carter => st ||| h.carterView i off
  | .clerk => st ||| h.clerkView e off
  | .steward => h.stewardView id off
  | .hobs => if off = 0x2000 ∨ off = 0x2008 then h.hobsView off else st ||| h.hobsView off
  | .die | .link | .hbm | .cellar | .therm | .scrub | .pwr | .dobs => st ||| h.dieView id b i off
  | .imsic => 0
  | _ => st ||| h.hubView id b off

/-- A register block answers: it is one of Tables 09-2 and 09-3, and on a field die the die is in service; the DIE and LINK
blocks of a held die answer while it answers on its hub link (09 R206). -/
def Hw.blockThere (h : Hw) (b : Blk) (i : Nat) : Bool :=
  let st (d : Nat) : Nat := SMap.get 0 h.dieSt d
  match b with
  | .die | .link => st i != 3 && st i != 5
  | .tile => st (i / 10) == 0
  | .hbm | .cellar => st (i / 2) == 0
  | .therm | .scrub | .pwr | .dobs => st i == 0
  | _ => true

/-- A register access that reaches no register: an access fault and its record (R10). -/
def Hw.regFault (h : Hw) (hart a kind : Nat) : Hw := (h.err 0x02 1 (srcHart hart) none (some a) [(40, 1, kind)]).respond .fault

/-- The bits an access of a width at an address names. -/
def accessBits (a width : Nat) : Nat := if width = 8 then 2 ^ 64 - 1 else (2 ^ 32 - 1) * 2 ^ (8 * (a % 8))

/-- Clear the RC fields a read names (R13, R477). -/
def Hw.clearRc (h : Hw) (b : Blk) (off pa m : Nat) : Hw :=
  if b = .hobs ∧ off = 0x2008 then
    { h with chron := { h.chron with total := h.chron.total - (h.chron.total &&& m) } }
  else match regFind b off allRegs with
    | some (r, _) =>
      let c := accMask r.fields (fun f => f.acc == .rc) &&& m
      h.setReg pa (h.reg pa - (h.reg pa &&& c))
    | none => h

/-- READ_CLEAR: a hart reads a register: its value, and the RC bits read clear. -/
def readClear (id : Ident) (e : ErrRing) (hart a width : Nat) (h : Hw) : Hw :=
  match locReg a with
  | .reg b i off =>
    if (width = 4 ∨ width = 8) ∧ a % width = 0 ∧ h.blockThere b i then
      let o := off / 8 * 8
      let v := h.regView id e b i o
      let v := if width = 8 then v else v / 2 ^ (8 * (a % 8)) % 2 ^ 32
      (h.clearRc b o (a / 8 * 8) (accessBits a width)).respond (.value (BitVec.ofNat 64 v))
    else h.regFault hart a 1
  | _ => h.regFault hart a 1

/-! ## Writing -/

/-- Every link of a port is down and no queue pair names it (12 R308). -/
def Hw.portIdle (h : Hw) (i : Nat) : Bool :=
  (List.range 8).all (fun l => (h.flink (8 * i + l)).st == 0) &&
    !h.fab.qps.any (fun e => match e.2 with
      | some q => q.plink / 8 == i || (q.altEn && q.alink / 8 == i)
      | none => false)

/-- The idle condition of a register's Idle-only fields (16 Table 16-3). -/
def Hw.regIdle (h : Hw) (b : Blk) (i off : Nat) : Bool :=
  let still (s : Nat) : Bool := (h.stream i s).st == .idle
  match b with
  | .tile =>
    if off = 8 ∨ off = 0x700 then (List.range 3).all still
    else if 0x40 ≤ off ∧ off < 0x58 then still ((off - 0x40) / 8)
    else if 0xE0 ≤ off ∧ off < 0xF8 then still ((off - 0xE0) / 8)
    else if 0x1000 ≤ off ∧ off < 0x1300 then still ((off - 0x1000) / 0x100)
    else true
  | .carter => if 0x100 ≤ off ∧ off < 0x180 then (h.flink (8 * i + (off - 0x100) / 16)).st == 0 else h.portIdle i
  | .bell =>
    if off = 0x48 then h.regF (bellReg 0x48) 63 1 == 0
    else if 0x10000 ≤ off ∧ off < 0x30000 then h.eIdle ((off - 0x10000) / 32)
    else true
  | .clerk => !h.boot.busy
  | _ => true

/-- Write the fields of a register by their access codes and update classes; `m` are the bits the access names. A refused
Idle-only write leaves its record. -/
def Hw.fieldWrite (h : Hw) (hart pa v m : Nat) (r : RegDef) (idle : Bool) : Hw :=
  let old := h.reg pa
  let mi := accMask r.fields (fun f => f.acc == .rw && f.upd == .idleOnly) &&& m
  let mb := accMask r.fields (fun f => f.acc == .rw && f.upd == .boundary) &&& m
  let ml := accMask r.fields (fun f => f.acc == .rw && f.upd == .live) &&& m
  let mc := accMask r.fields (fun f => f.acc == .w1c) &&& m
  let ms := accMask r.fields (fun f => f.acc == .w1s) &&& m
  let bad := !idle && (v &&& mi) != (old &&& mi)
  let mw := ml ||| (if idle then mi else 0)
  let new := (old - (old &&& mw)) ||| (v &&& mw)
  let new := new - (new &&& (v &&& mc))
  let h := h.setReg pa (new ||| (v &&& ms))
  let h := if mb = 0 then h
    else
      let base := match SMap.get none h.shadow pa with
        | some s => s.toNat
        | none => old
      { h with shadow := SMap.set none h.shadow pa (some (BitVec.ofNat 64 ((base - (base &&& mb)) ||| (v &&& mb)))) }
  if bad then h.busyWrite pa v old (srcHart hart) else h

/-- VEC_RNG_SEED_WRITE: the seed is written and the lanes' generators start from it; while a stream runs a changed seed is
refused (05 R133). -/
def vecRngSeedWrite (id : Ident) (hart g : Nat) (seed : Word) (h : Hw) : Hw :=
  let pa := tileReg g 0x700
  if !h.present id g || h.accelHeld then h
  else if h.regIdle .tile g 0x700 then
    (h.setReg pa seed.toNat).modTile g (fun t => { t with rngSeed := seed, rngN := 0 })
  else if seed.toNat = h.reg pa then h
  else h.busyWrite pa seed.toNat (h.reg pa) (srcHart hart)

/-- Bits named by the access over what the register holds. -/
def merge (old v m : Nat) : Nat := (old - (old &&& m)) ||| (v &&& m)

/-- A write of a tile's register. -/
def Hw.tileWrite (id : Ident) (h : Hw) (hart g off v m : Nat) : Hw :=
  let pa := tileReg g off
  if !h.present id g then h
  else if 0x800 ≤ off ∧ off < 0xA00 then
    let i := (off - 0x800) / 8
    tokenWrite id g i (merge ((h.tile g).token i) v m) h
  else if 0x1000 ≤ off ∧ off < 0x1300 then
    let s := (off - 0x1000) / 0x100
    let n := off % 0x100 / 8
    let old := ((h.stream g s).getX n).toNat
    let new := merge old v m
    if h.regIdle .tile g off then h.modStream g s (fun x => x.setX n (BitVec.ofNat 64 new))
    else if new = old ∨ n = 0 then h
    else h.busyWrite pa v old (srcHart hart)
  else if 0x200 ≤ off ∧ off < 0x600 then
    h.modTile g (fun t => (List.range 64).foldl (fun t k =>
      if bitAt (v &&& m) k then t.modCore ((off - 0x200) / 8 * 8 + k / 8) (fun c => c.modSlot (k % 8) (fun s => { s with sat := false }))
      else t) t)
  else if off = 0x700 then vecRngSeedWrite id hart g (BitVec.ofNat 64 (merge (h.reg pa) v m)) h
  else match regFind .tile off allRegs with
    | none => h
    | some (r, _) =>
      let h := h.fieldWrite hart pa v m r (h.regIdle .tile g off)
      if 0x40 ≤ off ∧ off < 0x58 then
        let s := (off - 0x40) / 8
        let h := if bitAt (v &&& m) 63 then streamStart id g s h else h
        if bitAt (v &&& m) 62 then tileStop id g h else h
      else if 0x60 ≤ off ∧ off < 0x78 ∧ bitAt (v &&& m) 61 then
        (h.setRegF pa 61 1 0).modStream g ((off - 0x60) / 8) (fun x => { x with notsup := false })
      else h

/-- A write of a bell register. -/
def Hw.bellWrite (h : Hw) (hart off v m : Nat) : Hw :=
  let pa := bellReg off
  if off = 0x20 then
    if h.regF (bellReg 0x18) 62 2 = 2 ∨ m % 2 = 0 then h
    else (h.setRegF pa 0 32 v).steered
  else if off = 0x28 then (if m = 2 ^ 64 - 1 then bellOffsetWrite (BitVec.ofNat 64 v) h else h)
  else if off = 0x30 then (if m = 2 ^ 64 - 1 then bellStepTo (BitVec.ofNat 64 v) h else h)
  else if 0x10000 ≤ off ∧ off < 0x30000 ∧ off % 32 = 16 then
    h.eCtrlWrite hart ((off - 0x10000) / 32) (BitVec.ofNat 64 (merge (h.reg pa) v m))
  else match regFind .bell off allRegs with
    | none => h
    | some (r, _) =>
      let src := h.regF (bellReg 0x18) 62 2
      let h := h.fieldWrite hart pa v m r (h.regIdle .bell 0 off)
      if off = 0x18 ∧ h.regF (bellReg 0x18) 62 2 ≠ src then h.modBell (fun b => { b with seen := false }) else h

/-- A write of a clerk register. -/
def Hw.clerkWrite (h : Hw) (hart off v m : Nat) : Hw :=
  let pa := blkBase .clerk 0 + off
  if off < 0x40000 then
    let b := off / 4096
    let o := off % 4096
    if o < 0x40 then
      if (h.mbox b).busy then h
      else h.modBox b (fun x => { x with req := overlay x.req o (toLE 8 (merge (recN x.req o 8) v m)) })
    else if o = 0x80 then mailboxGo b (BitVec.ofNat 64 (merge (h.reg pa % 2 ^ 63) v m)) h
    else if o = 0x88 ∧ bitAt (v &&& m) 62 then mailboxFree b h
    else h
  else if off = 0x40108 then h.flashCtrlWrite hart (merge (h.reg pa % 2 ^ 61) v m)
  else if off = 0x40110 then hartStart (BitVec.ofNat 64 (v &&& m)) h
  else match regFind .clerk off allRegs with
    | none => h
    | some (r, _) => h.fieldWrite hart pa v m r (h.regIdle .clerk 0 off)

/-- A write of a carter register. -/
def Hw.carterWrite (h : Hw) (hart i off v m : Nat) : Hw :=
  let pa := blkBase .carter i + off
  if off = 0x8000 then
    if i ≠ 0 then h
    else
      let old := h.stored pa [⟨63, 63, .rw, .live⟩, ⟨62, 62, .rw, .live⟩, ⟨31, 0, .rw, .boundary⟩]
      let w := merge old v m
      if m < 2 ^ 32 then
        { h with shadow := SMap.set none h.shadow pa (some (BitVec.ofNat 64 (w % 2 ^ 32))) }
      else h.leaseWrite (bitAt w 63) (bitAt w 62) (w % 2 ^ 32)
  else match regFind .carter off allRegs with
    | none => h
    | some (r, _) =>
      let h := h.fieldWrite hart pa v m r (h.regIdle .carter i off)
      if off = 0x220 then h.pump i else h

/-- A write of a hub observation register. -/
def Hw.hobsWrite (h : Hw) (hart off v m : Nat) : Hw :=
  let pa := blkBase .hobs 0 + off
  if off = 0x1000 then (if m % 2 = 1 then h.obsSet 8 (v % 2) else h)
  else if off = 0x2000 then
    if m % 2 = 0 ∨ sub32 h.chron.write h.chron.read < sub32 (v % 2 ^ 32) h.chron.read then h
    else { h with chron := { h.chron with read := v % 2 ^ 32 } }
  else if off = 0x2008 then h
  else if off = 0x2010 then (if m = 2 ^ 64 - 1 then chronMark hart (BitVec.ofNat 64 v) h else h)
  else match regFind .hobs off allRegs with
    | none => h
    | some (r, _) => h.fieldWrite hart pa v m r true

/-- A write of a register in any block. -/
def Hw.regWrite (id : Ident) (h : Hw) (hart : Nat) (b : Blk) (i off v m : Nat) : Hw :=
  let pa := blkBase b i + off
  let plain (h : Hw) : Hw := match regFind b off allRegs with
    | none => h
    | some (r, _) => h.fieldWrite hart pa v m r (h.regIdle b i off)
  match b with
  | .tile => h.tileWrite id hart i off v m
  | .bell => h.bellWrite hart off v m
  | .clerk => h.clerkWrite hart off v m
  | .carter => h.carterWrite hart i off v m
  | .hobs => h.hobsWrite hart off v m
  | .repl =>
    if off < 0x200 then
      let w := BitVec.ofNat 64 (merge (h.reg pa) v m)
      if bitAt w.toNat 63 then replGroupEnable id hart (off / 8) w h else replGroupDisable hart (off / 8) w h
    else if off < 0x400 then
      let g := (off - 0x200) / 8
      let h := if bitAt (v &&& m) 60 then replRelease id g h else h
      if bitAt (v &&& m) 59 then replAbort id g h else h
    else h
  | .mill =>
    if off < 0x1000 ∨ 0x1400 ≤ off then h
    else
      let c := (off - 0x1000) / 64
      if off % 64 = 0 then
        let w := BitVec.ofNat 64 (merge (h.reg pa) v m)
        if bitAt w.toNat 63 then chuteEnable id hart c w h else chuteDisable hart c w h
      else if off % 64 = 16 then (if m < 2 ^ 32 then h else ringTailWrite c (v / 2 ^ 32) h)
      else if off % 64 = 24 then (if m < 2 ^ 32 then h else hopperFreedWrite c (v / 2 ^ 32) h)
      else h
  | .cellar =>
    let h := plain h
    if off = 0 ∧ bitAt (v &&& m) 63 then cellarFlush i h else h
  | .dobs => if off = 0x800 then (if m % 2 = 1 then h.obsSet i (v % 2) else h) else plain h
  | .watch => if off = 0x180 then watchCrashClear (BitVec.ofNat 64 (v &&& m)) h else plain h
  | _ => plain h

/-- An MSI written by an agent to an interrupt file (20 R454): four bytes at offset 0 of the file's page. -/
def Hw.imsicWrite (h : Hw) (off width v : Nat) : Hw :=
  if width ≠ 4 ∨ off % 4096 ≠ 0 ∨ 2047 < v then h
  else if off < 0x1000000 then h.msi (off / 4096) 0 0 v
  else
    let o := off - 0x1000000
    let f := o % 0x8000 / 4096
    h.msi (o / 0x8000) (if f = 0 then 1 else 2) (f - 1) v

/-- The block of a register is held in reset, with the accelerator side (17 R401) or the whole module: a write of it has no effect. The
lease is the watchman's, and doorbells reach the queues' descriptors. -/
def Hw.heldBlk (h : Hw) (b : Blk) (i off : Nat) : Bool :=
  h.inReset || h.accelHeld && b.accel && b != .steward && !(b == .carter && i == 0 && off / 8 * 8 == 0x8000)

/-- REGISTER_WRITE: a hart writes a register, `v` in the low bits. -/
def registerWrite (id : Ident) (hart a width : Nat) (v : Word) (h : Hw) : Hw :=
  match locReg a with
  | .reg b i off =>
    if (width = 4 ∨ width = 8) ∧ a % width = 0 ∧ h.blockThere b i then
      if h.heldBlk b i off then h.respond .done
      else if b = .steward then
        (if 0x800000 ≤ off then doorbellWrite id ((off - 0x800000) / 8) width (off % 8) v.toNat h else h).respond .done
      else if b = .imsic then (h.imsicWrite off width (v.toNat % 2 ^ 32)).respond .done
      else
        let w := if width = 8 then v.toNat else v.toNat % 2 ^ 32 * 2 ^ (8 * (a % 8))
        (h.regWrite id hart b i (off / 8 * 8) w (accessBits a width)).respond .done
    else h.regFault hart a 2
  | _ => h.regFault hart a 2

end Sys2Proof.Machine
end

