-- ==== Sys2Proof/Machine/ExecBells.lean ====
section
/-!
DEFINITION. ExecBells.lean: what each command of bell time and the bell book (13) does to the whole state.
-/
namespace Sys2Proof.Machine

/-- BELL_ENTRY_ISSUE (R317). -/
def execBellEntryIssue (e : Nat) (st : State) : Host.Outcome State Fault Refusal := st.act (bellEntryIssue st.ident e)
/-- LATE_FIRING (R323). -/
def execLateFiring (e : Nat) (st : State) : Host.Outcome State Fault Refusal := st.act (lateFiring st.ident e)
/-- BELL_ENTRY_ARM (R319). -/
def execBellEntryArm (hart : Nat) (e : Nat) (v : Word) (st : State) : Host.Outcome State Fault Refusal := st.act (bellEntryArm hart e v)
/-- BELL_OFFSET_WRITE (R312). -/
def execBellOffsetWrite (v : Word) (st : State) : Host.Outcome State Fault Refusal := st.act (bellOffsetWrite v)
/-- BELL_STEP_TO (R312). -/
def execBellStepTo (v : Word) (st : State) : Host.Outcome State Fault Refusal := st.act (bellStepTo v)
/-- SLEW_DONE (R312). -/
def execSlewDone (st : State) : Host.Outcome State Fault Refusal := st.act slewDone
/-- PPS_PULSE (R311). -/
def execPpsPulse (st : State) : Host.Outcome State Fault Refusal := st.act ppsPulse
/-- HOLDOVER_ENTRY (R313). -/
def execHoldoverEntry (lost : Bool) (st : State) : Host.Outcome State Fault Refusal := st.act (holdoverEntry lost)
/-- PTP_RX (R315). -/
def execPtpRx (port : Nat) (link : Nat) (m : Machine.PtpMsg) (st : State) : Host.Outcome State Fault Refusal := st.act (ptpRx st.ident port link m)
/-- PTP_TX (R315). -/
def execPtpTx (st : State) : Host.Outcome State Fault Refusal := st.act (ptpTx st.ident)

end Sys2Proof.Machine
end

