-- ==== Sys2Proof/Machine/ExecCarters.lean ====
section
/-!
DEFINITION. ExecCarters.lean: what each command of the fabric (12) does to the whole state.
-/
namespace Sys2Proof.Machine

/-- SEND (R293). -/
def execSend (port : Nat) (link : Nat) (src : Nat) (pk : Machine.Pkt) (st : State) : Host.Outcome State Fault Refusal := st.act (recvOp st.ident 0 port link src pk)
/-- WRITE (R294). -/
def execWrite (port : Nat) (link : Nat) (src : Nat) (pk : Machine.Pkt) (st : State) : Host.Outcome State Fault Refusal := st.act (recvOp st.ident 1 port link src pk)
/-- READ_REQ (R290). -/
def execReadReq (port : Nat) (link : Nat) (src : Nat) (pk : Machine.Pkt) (st : State) : Host.Outcome State Fault Refusal := st.act (recvOp st.ident 2 port link src pk)
/-- READ_RESP (R289). -/
def execReadResp (port : Nat) (link : Nat) (src : Nat) (pk : Machine.Pkt) (st : State) : Host.Outcome State Fault Refusal := st.act (recvOp st.ident 3 port link src pk)
/-- FADD (R294). -/
def execFadd (port : Nat) (link : Nat) (src : Nat) (pk : Machine.Pkt) (st : State) : Host.Outcome State Fault Refusal := st.act (recvOp st.ident 4 port link src pk)
/-- CAS (R294). -/
def execCas (port : Nat) (link : Nat) (src : Nat) (pk : Machine.Pkt) (st : State) : Host.Outcome State Fault Refusal := st.act (recvOp st.ident 5 port link src pk)
/-- ATOMIC_RESP (R289). -/
def execAtomicResp (port : Nat) (link : Nat) (src : Nat) (pk : Machine.Pkt) (st : State) : Host.Outcome State Fault Refusal := st.act (recvOp st.ident 6 port link src pk)
/-- RFENCE (R292). -/
def execRfence (port : Nat) (link : Nat) (src : Nat) (pk : Machine.Pkt) (st : State) : Host.Outcome State Fault Refusal := st.act (recvOp st.ident 7 port link src pk)
/-- RFENCE_ACKNOWLEDGE (R292). -/
def execRfenceAcknowledge (qpn : Nat) (st : State) : Host.Outcome State Fault Refusal := st.act (rfenceAcknowledge st.ident qpn)
/-- ACK (R295). -/
def execAck (port : Nat) (link : Nat) (src : Nat) (pk : Machine.Pkt) (st : State) : Host.Outcome State Fault Refusal := st.act (recvOp st.ident 8 port link src pk)
/-- NAK (R296). -/
def execNak (port : Nat) (link : Nat) (src : Nat) (pk : Machine.Pkt) (st : State) : Host.Outcome State Fault Refusal := st.act (recvOp st.ident 9 port link src pk)
/-- CLOSE (R288). -/
def execClose (port : Nat) (link : Nat) (src : Nat) (pk : Machine.Pkt) (st : State) : Host.Outcome State Fault Refusal := st.act (recvOp st.ident 10 port link src pk)
/-- LEASE (R306). -/
def execLease (port : Nat) (link : Nat) (src : Nat) (pk : Machine.Pkt) (st : State) : Host.Outcome State Fault Refusal := st.act (recvOp st.ident 11 port link src pk)
/-- REDUCE (R300). -/
def execReduce (port : Nat) (link : Nat) (src : Nat) (pk : Machine.Pkt) (st : State) : Host.Outcome State Fault Refusal := st.act (recvOp st.ident 12 port link src pk)
/-- GATHER (R300). -/
def execGather (port : Nat) (link : Nat) (src : Nat) (pk : Machine.Pkt) (st : State) : Host.Outcome State Fault Refusal := st.act (recvOp st.ident 13 port link src pk)
/-- LINK_CONTROL_FRAME (R278). -/
def execLinkControlFrame (port : Nat) (link : Nat) (serial : Nat) (pport : Nat) (plink : Nat) (st : State) : Host.Outcome State Fault Refusal := st.act (linkControlFrame port link serial pport plink)
/-- LINK_CONTROL_SEND (R278). -/
def execLinkControlSend (port : Nat) (link : Nat) (st : State) : Host.Outcome State Fault Refusal := st.act (linkControlSend port link)
/-- BLACKLIST_EXPIRY (R305). -/
def execBlacklistExpiry (src : Nat) (st : State) : Host.Outcome State Fault Refusal := st.act (blacklistExpiry src)
/-- LAST_PACKET_WRITE (R290). -/
def execLastPacketWrite (qpn : Nat) (st : State) : Host.Outcome State Fault Refusal := st.act (lastPacketWrite st.ident qpn)
/-- LINK_DOWN (R279). -/
def execLinkDown (port : Nat) (link : Nat) (st : State) : Host.Outcome State Fault Refusal := st.act (linkDown port link)
/-- LINK_UP (R279). -/
def execLinkUp (port : Nat) (link : Nat) (st : State) : Host.Outcome State Fault Refusal := st.act (linkUp port link)
/-- LINK_HOLD_EXPIRY (R279). -/
def execLinkHoldExpiry (port : Nat) (link : Nat) (st : State) : Host.Outcome State Fault Refusal := st.act (linkHoldExpiry st.ident port link)
/-- ACK_TIMER (R295). -/
def execAckTimer (qpn : Nat) (st : State) : Host.Outcome State Fault Refusal := st.act (ackTimer qpn)
/-- RETRANSMIT_TIMEOUT (R296). -/
def execRetransmitTimeout (qpn : Nat) (st : State) : Host.Outcome State Fault Refusal := st.act (retransmitTimeout st.ident qpn)
/-- RNR_RETRY (R293). -/
def execRnrRetry (qpn : Nat) (st : State) : Host.Outcome State Fault Refusal := st.act (rnrRetry qpn)
/-- SEND_WORK_REQUEST (R287). -/
def execSendWorkRequest (qpn : Nat) (st : State) : Host.Outcome State Fault Refusal := st.act (sendWorkRequest st.ident qpn)
/-- WRITE_WORK_REQUEST (R287). -/
def execWriteWorkRequest (qpn : Nat) (st : State) : Host.Outcome State Fault Refusal := st.act (writeWorkRequest st.ident qpn)
/-- READ_WORK_REQUEST (R287). -/
def execReadWorkRequest (qpn : Nat) (st : State) : Host.Outcome State Fault Refusal := st.act (readWorkRequest st.ident qpn)
/-- FADD_WORK_REQUEST (R287). -/
def execFaddWorkRequest (qpn : Nat) (st : State) : Host.Outcome State Fault Refusal := st.act (faddWorkRequest st.ident qpn)
/-- CAS_WORK_REQUEST (R287). -/
def execCasWorkRequest (qpn : Nat) (st : State) : Host.Outcome State Fault Refusal := st.act (casWorkRequest st.ident qpn)
/-- RFENCE_WORK_REQUEST (R287). -/
def execRfenceWorkRequest (qpn : Nat) (st : State) : Host.Outcome State Fault Refusal := st.act (rfenceWorkRequest st.ident qpn)
/-- RECV_WORK_REQUEST (R293). -/
def execRecvWorkRequest (qpn : Nat) (st : State) : Host.Outcome State Fault Refusal := st.act (recvWorkRequest st.ident qpn)
/-- COLL_WORK_REQUEST (R299). -/
def execCollWorkRequest (qpn : Nat) (st : State) : Host.Outcome State Fault Refusal := st.act (collWorkRequest st.ident qpn)
/-- COLLECTIVE_COMBINE (R300). -/
def execCollectiveCombine (cg : Nat) (j : Nat) (lo : Nat) (hi : Nat) (chunk : Nat) (st : State) : Host.Outcome State Fault Refusal := st.act (collectiveCombine st.ident cg j lo hi chunk)
/-- COMPLETION_WRITE (R366). -/
def execCompletionWrite (q : Nat) (st : State) : Host.Outcome State Fault Refusal := st.act (completionWrite st.ident q)
/-- LEASE_ENABLE (R306). -/
def execLeaseEnable (v : Word) (st : State) : Host.Outcome State Fault Refusal := st.act (leaseEnable v)
/-- LEASE_LAPSE (R307). -/
def execLeaseLapse (st : State) : Host.Outcome State Fault Refusal := st.act (leaseLapse st.ident st.err.next (fun h => h.lapseNoted (st.err.next - 1)))

end Sys2Proof.Machine
end

