-- ==== Sys2Proof/Machine/ExecChutes.lean ====
section
/-!
DEFINITION. ExecChutes.lean: what each command of the mill (14) does to the whole state.
-/
namespace Sys2Proof.Machine

/-- CHUTE_ENABLE (R326). -/
def execChuteEnable (hart : Nat) (ch : Nat) (v : Word) (st : State) : Host.Outcome State Fault Refusal := st.act (chuteEnable st.ident hart ch v)
/-- CHUTE_DISABLE (R347). -/
def execChuteDisable (hart : Nat) (ch : Nat) (v : Word) (st : State) : Host.Outcome State Fault Refusal := st.act (chuteDisable hart ch v)
/-- RING_TAIL_WRITE (R327). -/
def execRingTailWrite (ch : Nat) (idx : Nat) (st : State) : Host.Outcome State Fault Refusal := st.act (ringTailWrite ch idx)
/-- BATCH_START (R338). -/
def execBatchStart (ch : Nat) (st : State) : Host.Outcome State Fault Refusal := st.act (batchStart ch)
/-- SAMPLE_TAKE (R339). -/
def execSampleTake (ch : Nat) (st : State) : Host.Outcome State Fault Refusal := st.act (sampleTake st.ident ch)
/-- SAMPLE_DONE (R332). -/
def execSampleDone (ch : Nat) (slot : Nat) (bad : Bool) (st : State) : Host.Outcome State Fault Refusal := st.act (sampleDone st.ident ch slot bad)
/-- SAMPLE_FORWARD (R340). -/
def execSampleForward (ch : Nat) (slot : Nat) (st : State) : Host.Outcome State Fault Refusal := st.act (sampleForward st.ident ch slot)
/-- BATCH_RELEASE (R342). -/
def execBatchRelease (ch : Nat) (st : State) : Host.Outcome State Fault Refusal := st.act (batchRelease st.ident ch)
/-- DROUGHT_EXPIRY (R343). -/
def execDroughtExpiry (ch : Nat) (st : State) : Host.Outcome State Fault Refusal := st.act (droughtExpiry st.ident ch)
/-- HOPPER_FREED_WRITE (R344). -/
def execHopperFreedWrite (ch : Nat) (idx : Nat) (st : State) : Host.Outcome State Fault Refusal := st.act (hopperFreedWrite ch idx)

end Sys2Proof.Machine
end

