-- ==== Sys2Proof/Machine/ExecCommands.lean ====
section
/-!
DEFINITION. ExecCommands.lean: what each command of the clerk and its commands (15) does to the whole state.
-/
namespace Sys2Proof.Machine

/-- MAILBOX_GO (R351). -/
def execMailboxGo (mb : Nat) (v : Word) (st : State) : Host.Outcome State Fault Refusal := st.act (mailboxGo mb v)
/-- COMMAND_ACCEPT (R352). -/
def execCommandAccept (st : State) : Host.Outcome State Fault Refusal := st.act (commandAccept st.ident)
/-- MAILBOX_FREE (R351). -/
def execMailboxFree (mb : Nat) (st : State) : Host.Outcome State Fault Refusal := st.act (mailboxFree mb)
/-- MANAGEMENT_REQUEST (R355). -/
def execManagementRequest (src : Nat) (hdr : Nat) (rcd : List Byte) (pay : List Byte) (st : State) : Host.Outcome State Fault Refusal := st.act (managementRequest src hdr rcd pay)
/-- BACKGROUND_COMMAND_DONE (R352). -/
def execBackgroundCommandDone (n : Nat) (st : State) : Host.Outcome State Fault Refusal := st.act (backgroundCommandDone st.ident n)
/-- ID_GET (R362). -/
def execIdGet (st : State) : Host.Outcome State Fault Refusal := st.act (idGet st.ident)
/-- ATTEST (R456). -/
def execAttest (st : State) : Host.Outcome State Fault Refusal := st.act (attest st.ident)
/-- CERT_GET (R455). -/
def execCertGet (st : State) : Host.Outcome State Fault Refusal := st.act (certGet st.ident)
/-- CTX_CREATE (R374). -/
def execCtxCreate (st : State) : Host.Outcome State Fault Refusal := st.act ctxCreate
/-- CTX_DESTROY (R389). -/
def execCtxDestroy (st : State) : Host.Outcome State Fault Refusal := st.act (ctxDestroy st.ident)
/-- CTX_STATUS (R374). -/
def execCtxStatus (st : State) : Host.Outcome State Fault Refusal := st.act (ctxStatus st.ident)
/-- CTX_HINT (R385). -/
def execCtxHint (st : State) : Host.Outcome State Fault Refusal := st.act ctxHint
/-- WIN_SET (R364). -/
def execWinSet (st : State) : Host.Outcome State Fault Refusal := st.act (winSet st.ident)
/-- WIN_REVOKE (R364). -/
def execWinRevoke (st : State) : Host.Outcome State Fault Refusal := st.act (winRevoke st.ident)
/-- WIN_GET (R376). -/
def execWinGet (st : State) : Host.Outcome State Fault Refusal := st.act winGet
/-- Q_CREATE (R366). -/
def execQCreate (st : State) : Host.Outcome State Fault Refusal := st.act (qCreate st.ident)
/-- Q_DESTROY (R366). -/
def execQDestroy (st : State) : Host.Outcome State Fault Refusal := st.act (qDestroy st.ident)
/-- Q_QUERY (R366). -/
def execQQuery (st : State) : Host.Outcome State Fault Refusal := st.act (qQuery st.ident)
/-- Q_RESTART (R483). -/
def execQRestart (st : State) : Host.Outcome State Fault Refusal := st.act (qRestart st.ident)
/-- QP_CREATE (R286). -/
def execQpCreate (st : State) : Host.Outcome State Fault Refusal := st.act (qpCreate st.ident)
/-- QP_CLOSE (R288). -/
def execQpClose (st : State) : Host.Outcome State Fault Refusal := st.act (qpClose st.ident)
/-- MODEL_REG (R377). -/
def execModelReg (st : State) : Host.Outcome State Fault Refusal := st.act (modelReg st.ident)
/-- MODEL_UNREG (R389). -/
def execModelUnreg (st : State) : Host.Outcome State Fault Refusal := st.act modelUnreg
/-- MODEL_STATUS (R416). -/
def execModelStatus (st : State) : Host.Outcome State Fault Refusal := st.act modelStatus
/-- MODEL_CLEAR (R416). -/
def execModelClear (st : State) : Host.Outcome State Fault Refusal := st.act modelClear
/-- BELL_ARM (R319). -/
def execBellArm (st : State) : Host.Outcome State Fault Refusal := st.act bellArm
/-- BELL_DISARM (R482). -/
def execBellDisarm (st : State) : Host.Outcome State Fault Refusal := st.act bellDisarm
/-- OP_PREF (R395). -/
def execOpPref (st : State) : Host.Outcome State Fault Refusal := st.act (opPref st.ident)
/-- POWER_CAP (R397). -/
def execPowerCap (st : State) : Host.Outcome State Fault Refusal := st.act powerCap
/-- FALLOW_ENTER (R401). -/
def execFallowEnter (st : State) : Host.Outcome State Fault Refusal := st.act (fallowEnter st.ident)
/-- FALLOW_EXIT (R401). -/
def execFallowExit (failed : Nat) (st : State) : Host.Outcome State Fault Refusal := st.act (fallowExit failed)
/-- OBS_SELECT (R427). -/
def execObsSelect (st : State) : Host.Outcome State Fault Refusal := st.act obsSelect
/-- CHRON_CTRL_STOP (R432). -/
def execChronCtrlStop (st : State) : Host.Outcome State Fault Refusal := st.act chronCtrlStop
/-- CHRON_CTRL_START (R429). -/
def execChronCtrlStart (st : State) : Host.Outcome State Fault Refusal := st.act chronCtrlStart
/-- CHRON_CTRL_CONFIGURE (R429). -/
def execChronCtrlConfigure (st : State) : Host.Outcome State Fault Refusal := st.act (chronCtrlConfigure st.ident)
/-- CENSUS_TAKE (R433). -/
def execCensusTake (st : State) : Host.Outcome State Fault Refusal := st.act (censusTake st.ident)
/-- TITHE_CTRL (R437). -/
def execTitheCtrl (st : State) : Host.Outcome State Fault Refusal := st.act (titheCtrl st.ident)
/-- GAUGE_CTRL (R442). -/
def execGaugeCtrl (st : State) : Host.Outcome State Fault Refusal := st.act (gaugeCtrl st.ident)
/-- ERR_READ (R413). -/
def execErrRead (st : State) : Host.Outcome State Fault Refusal := st.actErr (errRead st.ident)
/-- ERR_ACK (R413). -/
def execErrAck (st : State) : Host.Outcome State Fault Refusal := st.actErr errAck
/-- CKPT_EXPORT (R177). -/
def execCkptExport (st : State) : Host.Outcome State Fault Refusal := st.act (ckptExport st.ident)
/-- STACK_OFFLINE (R225). -/
def execStackOffline (st : State) : Host.Outcome State Fault Refusal := st.act stackOffline
/-- STACK_ONLINE (R225). -/
def execStackOnline (ok : Bool) (st : State) : Host.Outcome State Fault Refusal := st.act (stackOnline ok)
/-- STACK_TEST_PATROL (R225). -/
def execStackTestPatrol (corr : List Nat) (unc : List Nat) (st : State) : Host.Outcome State Fault Refusal := st.act (stackTestPatrol corr unc)
/-- STACK_TEST_MARCH (R225). -/
def execStackTestMarch (corr : List Nat) (unc : List Nat) (st : State) : Host.Outcome State Fault Refusal := st.act (stackTestMarch corr unc)
/-- STACK_REPAIR (R225). -/
def execStackRepair (spares : Nat) (flash : Bool) (st : State) : Host.Outcome State Fault Refusal := st.act (stackRepair spares flash)
/-- LEASE_SET (R306). -/
def execLeaseSet (st : State) : Host.Outcome State Fault Refusal := st.act leaseSet
/-- LEASE_RENEW (R306). -/
def execLeaseRenew (st : State) : Host.Outcome State Fault Refusal := st.act leaseRenew
/-- RESET_MODULE (R365). -/
def execResetModule (st : State) : Host.Outcome State Fault Refusal := st.act resetModule
/-- RESET_HOST (R365). -/
def execResetHost (st : State) : Host.Outcome State Fault Refusal := st.act resetHost
/-- RESET_FALLOW (R446). -/
def execResetFallow (st : State) : Host.Outcome State Fault Refusal := st.act (resetFallow st.ident)
/-- RESET_TILE (R447). -/
def execResetTile (st : State) : Host.Outcome State Fault Refusal := st.act (resetTileCmd st.ident)
/-- PATCH_LIST (R372). -/
def execPatchList (st : State) : Host.Outcome State Fault Refusal := st.act (patchList st.ident)
/-- PATCH_INSTALL (R371). -/
def execPatchInstall (flash : Bool) (st : State) : Host.Outcome State Fault Refusal := st.act (patchInstall st.ident flash)
/-- PATCH_ERASE (R371). -/
def execPatchErase (flash : Bool) (st : State) : Host.Outcome State Fault Refusal := st.act (patchErase flash)
/-- MB_SCOPE (R353). -/
def execMbScope (st : State) : Host.Outcome State Fault Refusal := st.act mbScope
/-- MGMT_SCOPE (R355). -/
def execMgmtScope (st : State) : Host.Outcome State Fault Refusal := st.act mgmtScope

end Sys2Proof.Machine
end

