-- ==== Sys2Proof/Machine/ExecEngines.lean ====
section
/-!
DEFINITION. ExecEngines.lean: what each command of matrix cores, vector engine, carts, update (02, 05, 06, 07) does to the whole state.
-/
namespace Sys2Proof.Machine

/-- PEN_LOAD (R35). -/
def execPenLoad (g : Nat) (s : Nat) (r0 : Nat) (nr : Nat) (rstep : Nat) (c0 : Nat) (nc : Nat) (cstep : Nat) (st : State) : Host.Outcome State Fault Refusal := st.act (penLoad g s r0 nr rstep c0 nc cstep)
/-- TROUGH_FILL (R37). -/
def execTroughFill (g : Nat) (x : Nat) (e : Nat) (r0 : Nat) (nr : Nat) (rstep : Nat) (c0 : Nat) (nc : Nat) (cstep : Nat) (st : State) : Host.Outcome State Fault Refusal := st.act (troughFill g x e r0 nr rstep c0 nc cstep)
/-- K_STEP (R31). -/
def execKStep (g : Nat) (s : Nat) (c : Nat) (st : State) : Host.Outcome State Fault Refusal := st.act (kStep g s c)
/-- SLOT_DRAIN (R45). -/
def execSlotDrain (g : Nat) (s : Nat) (c : Nat) (st : State) : Host.Outcome State Fault Refusal := st.act (slotDrain g s c)
/-- VMAP (R122). -/
def execVmap (g : Nat) (s : Nat) (p : Phase) (st : State) : Host.Outcome State Fault Refusal :=
  match p with
  | .issue rs1 rs2 rs3 sy => st.act (vecIssue 0 0 g s rs1 rs2 rs3 sy)
  | .run => st.act (runVmap g)
/-- VRED (R127). -/
def execVred (g : Nat) (s : Nat) (p : Phase) (st : State) : Host.Outcome State Fault Refusal :=
  match p with
  | .issue rs1 rs2 rs3 sy => st.act (vecIssue 1 0 g s rs1 rs2 rs3 sy)
  | .run => st.act (runVred g)
/-- VSOFTMAX (R129). -/
def execVsoftmax (g : Nat) (s : Nat) (p : Phase) (st : State) : Host.Outcome State Fault Refusal :=
  match p with
  | .issue rs1 rs2 rs3 sy => st.act (vecIssue 2 0 g s rs1 rs2 rs3 sy)
  | .run => st.act (runVsoftmax g)
/-- VLNORM (R130). -/
def execVlnorm (g : Nat) (s : Nat) (p : Phase) (st : State) : Host.Outcome State Fault Refusal :=
  match p with
  | .issue rs1 rs2 rs3 sy => st.act (vecIssue 2 1 g s rs1 rs2 rs3 sy)
  | .run => st.act (runVlnorm g)
/-- VRMSNORM (R130). -/
def execVrmsnorm (g : Nat) (s : Nat) (p : Phase) (st : State) : Host.Outcome State Fault Refusal :=
  match p with
  | .issue rs1 rs2 rs3 sy => st.act (vecIssue 2 2 g s rs1 rs2 rs3 sy)
  | .run => st.act (runVrmsnorm g)
/-- VGATHER (R131). -/
def execVgather (g : Nat) (s : Nat) (p : Phase) (st : State) : Host.Outcome State Fault Refusal :=
  match p with
  | .issue rs1 rs2 rs3 sy => st.act (vecIssue 3 0 g s rs1 rs2 rs3 sy)
  | .run => st.act (runVgather g)
/-- VSCATTER (R131). -/
def execVscatter (g : Nat) (s : Nat) (p : Phase) (st : State) : Host.Outcome State Fault Refusal :=
  match p with
  | .issue rs1 rs2 rs3 sy => st.act (vecIssue 3 1 g s rs1 rs2 rs3 sy)
  | .run => st.act (runVscatter g)
/-- VSCATADD (R131). -/
def execVscatadd (g : Nat) (s : Nat) (p : Phase) (st : State) : Host.Outcome State Fault Refusal :=
  match p with
  | .issue rs1 rs2 rs3 sy => st.act (vecIssue 3 2 g s rs1 rs2 rs3 sy)
  | .run => st.act (runVscatadd g)
/-- VRAND_UNIFORM (R136). -/
def execVrandUniform (g : Nat) (s : Nat) (p : Phase) (st : State) : Host.Outcome State Fault Refusal :=
  match p with
  | .issue rs1 rs2 rs3 sy => st.act (vecIssue 4 0 g s rs1 rs2 rs3 sy)
  | .run => st.act (runVrandUniform g)
/-- VRAND_NORMAL (R136). -/
def execVrandNormal (g : Nat) (s : Nat) (p : Phase) (st : State) : Host.Outcome State Fault Refusal :=
  match p with
  | .issue rs1 rs2 rs3 sy => st.act (vecIssue 4 1 g s rs1 rs2 rs3 sy)
  | .run => st.act (runVrandNormal g)
/-- VRAND_BERNOULLI (R136). -/
def execVrandBernoulli (g : Nat) (s : Nat) (p : Phase) (st : State) : Host.Outcome State Fault Refusal :=
  match p with
  | .issue rs1 rs2 rs3 sy => st.act (vecIssue 4 2 g s rs1 rs2 rs3 sy)
  | .run => st.act (runVrandBernoulli g)
/-- VMXPACK_PEN (R132). -/
def execVmxpackPen (g : Nat) (s : Nat) (p : Phase) (st : State) : Host.Outcome State Fault Refusal :=
  match p with
  | .issue rs1 rs2 rs3 sy => st.act (vecIssue 5 0 g s rs1 rs2 rs3 sy)
  | .run => st.act (runVmxpackPen g)
/-- VMXPACK_CHUNK (R132). -/
def execVmxpackChunk (g : Nat) (s : Nat) (p : Phase) (st : State) : Host.Outcome State Fault Refusal :=
  match p with
  | .issue rs1 rs2 rs3 sy => st.act (vecIssue 5 1 g s rs1 rs2 rs3 sy)
  | .run => st.act (runVmxpackChunk g)
/-- VEC_RNG_SEED_WRITE (R133). -/
def execVecRngSeedWrite (hart : Nat) (g : Nat) (v : Word) (st : State) : Host.Outcome State Fault Refusal := st.act (vecRngSeedWrite st.ident hart g v)
/-- CART_PIECE_COMPLETE (R148). -/
def execCartPieceComplete (g : Nat) (ct : Nat) (n : Nat) (st : State) : Host.Outcome State Fault Refusal := st.act (cartPieceComplete st.ident g ct n)
/-- GRANARY_WINDOW_ACCESS (R156). -/
def execGranaryWindowAccess (hart : Nat) (a : Nat) (size : Nat) (store : Option (List Byte)) (st : State) : Host.Outcome State Fault Refusal := st.act (granaryWindowAccess st.ident hart a size store)
/-- UPDATE (R164). -/
def execUpdate (g : Nat) (s : Nat) (rs1 : Nat) (rs2 : Nat) (rs3 : Nat) (sy : Nat) (st : State) : Host.Outcome State Fault Refusal := st.act (updateIssue g s rs1 rs2 rs3 sy)
/-- TALLY_RESTORE_FREE (R173). -/
def execTallyRestoreFree (g : Nat) (j : Nat) (st : State) : Host.Outcome State Fault Refusal := st.act (tallyRestoreFree st.ident g j)
/-- UPDATE_SHEAF_START (R169). -/
def execUpdateSheafStart (g : Nat) (st : State) : Host.Outcome State Fault Refusal := st.act (updateSheafStart st.ident g)
/-- UPDATE_OPEN_RECORD (R170). -/
def execUpdateOpenRecord (g : Nat) (j : Nat) (st : State) : Host.Outcome State Fault Refusal := st.act (updateOpenRecord st.ident g j)
/-- UPDATE_WRITE_MOMENTS (R170). -/
def execUpdateWriteMoments (g : Nat) (j : Nat) (st : State) : Host.Outcome State Fault Refusal := st.act (updateWriteMoments st.ident g j)
/-- UPDATE_WRITE_WEIGHTS (R170). -/
def execUpdateWriteWeights (g : Nat) (j : Nat) (st : State) : Host.Outcome State Fault Refusal := st.act (updateWriteWeights st.ident g j)
/-- UPDATE_COMMIT (R170). -/
def execUpdateCommit (g : Nat) (j : Nat) (st : State) : Host.Outcome State Fault Refusal := st.act (updateCommit st.ident g j)

end Sys2Proof.Machine
end

