-- ==== Sys2Proof/Machine/ExecGroups.lean ====
section
/-!
DEFINITION. ExecGroups.lean: what each command of replica groups (08) does to the whole state.
-/
namespace Sys2Proof.Machine

/-- REPL_GROUP_ENABLE (R199). -/
def execReplGroupEnable (hart : Nat) (grp : Nat) (v : Word) (st : State) : Host.Outcome State Fault Refusal := st.act (replGroupEnable st.ident hart grp v)
/-- REPL_GROUP_DISABLE (R200). -/
def execReplGroupDisable (hart : Nat) (grp : Nat) (v : Word) (st : State) : Host.Outcome State Fault Refusal := st.act (replGroupDisable hart grp v)
/-- SHARD_READY_SEND (R189). -/
def execShardReadySend (grp : Nat) (sh : Nat) (st : State) : Host.Outcome State Fault Refusal := st.act (shardReadySend st.ident grp sh)
/-- DIGEST_TABLE_RECEIVE (R190). -/
def execDigestTableReceive (grp : Nat) (rank : Nat) (sh : Nat) (b : Nat) (step : Nat) (v : Nat) (st : State) : Host.Outcome State Fault Refusal := st.act (digestTableReceive st.ident grp rank sh b step v)
/-- REFETCH_START (R192). -/
def execRefetchStart (grp : Nat) (sh : Nat) (b : Nat) (st : State) : Host.Outcome State Fault Refusal := st.act (refetchStart st.ident grp sh b)
/-- REFETCH_SERVE (R192). -/
def execRefetchServe (grp : Nat) (rank : Nat) (sh : Nat) (b : Nat) (step : Nat) (st : State) : Host.Outcome State Fault Refusal := st.act (refetchServe st.ident grp rank sh b step)
/-- REFETCH_DELIVER (R192). -/
def execRefetchDeliver (grp : Nat) (sh : Nat) (b : Nat) (answer : Nat) (data : List Byte) (st : State) : Host.Outcome State Fault Refusal := st.act (refetchDeliver st.ident grp sh b answer data)
/-- EXCHANGE_CLOSE_GATE (R191). -/
def execExchangeCloseGate (grp : Nat) (st : State) : Host.Outcome State Fault Refusal := st.act (exchangeCloseGate st.ident grp)
/-- XCHG_TIMEOUT (R195). -/
def execXchgTimeout (grp : Nat) (st : State) : Host.Outcome State Fault Refusal := st.act (xchgTimeout grp)
/-- REPL_RELEASE (R196). -/
def execReplRelease (grp : Nat) (st : State) : Host.Outcome State Fault Refusal := st.act (replRelease st.ident grp)
/-- REPL_ABORT (R196). -/
def execReplAbort (grp : Nat) (st : State) : Host.Outcome State Fault Refusal := st.act (replAbort st.ident grp)

end Sys2Proof.Machine
end

