-- ==== Sys2Proof/Machine/ExecHub.lean ====
section
/-!
DEFINITION. ExecHub.lean: what each command of queues, the steward, power, errors, observation (15, 16, 17, 18, 19) does to the whole state.
-/
namespace Sys2Proof.Machine

/-- DOORBELL_WRITE (R367). -/
def execDoorbellWrite (q : Nat) (width : Nat) (off : Nat) (v : Nat) (st : State) : Host.Outcome State Fault Refusal := st.act (doorbellWrite st.ident q width off v)
/-- STEWARD_DECISION (R384). -/
def execStewardDecision (st : State) : Host.Outcome State Fault Refusal := st.act (stewardDecision st.ident)
/-- SWAP_OUT_BODY (R379). -/
def execSwapOutBody (g : Nat) (st : State) : Host.Outcome State Fault Refusal := st.act (swapOutBody st.ident g)
/-- SWAP_OUT_FINAL_HEADER (R379). -/
def execSwapOutFinalHeader (g : Nat) (st : State) : Host.Outcome State Fault Refusal := st.act (swapOutFinalHeader st.ident g)
/-- SWAP_COMPLETE (R380). -/
def execSwapComplete (g : Nat) (st : State) : Host.Outcome State Fault Refusal := st.act (swapComplete st.ident g)
/-- TEARDOWN (R388). -/
def execTeardown (ctx : Nat) (st : State) : Host.Outcome State Fault Refusal := st.act (teardown st.ident ctx)
/-- OP_REQUEST_UPDATE (R395). -/
def execOpRequestUpdate (st : State) : Host.Outcome State Fault Refusal := st.act (opRequestUpdate st.ident)
/-- POWER_CEILING_REVISION (R397). -/
def execPowerCeilingRevision (ws : List Nat) (input : Nat) (eff : Nat) (st : State) : Host.Outcome State Fault Refusal := st.act (powerCeilingRevision ws input eff)
/-- POINT_CHANGE_SETTLE (R398). -/
def execPointChangeSettle (g : Nat) (st : State) : Host.Outcome State Fault Refusal := st.act (pointChangeSettle g)
/-- SAG_STRETCH (R399). -/
def execSagStretch (d : Nat) (mv : Nat) (st : State) : Host.Outcome State Fault Refusal := st.act (sagStretch d mv)
/-- SAG_RELEASE (R399). -/
def execSagRelease (d : Nat) (st : State) : Host.Outcome State Fault Refusal := st.act (sagRelease d)
/-- ENERGY_MEASURE (R400). -/
def execEnergyMeasure (die9 : Nat) (uj : List Nat) (acts : List Nat) (st : State) : Host.Outcome State Fault Refusal := st.act (energyMeasure st.ident die9 uj acts)
/-- WATCHMAN_SAMPLE (R402). -/
def execWatchmanSample (inp : Nat) (vs : List Int) (st : State) : Host.Outcome State Fault Refusal := st.actReset (watchmanSample st.ident (st.err.next - 1) inp vs)
/-- GRACE_EXPIRY (R404). -/
def execGraceExpiry (st : State) : Host.Outcome State Fault Refusal := st.act graceExpiry
/-- AUTO_RESTART (R404). -/
def execAutoRestart (st : State) : Host.Outcome State Fault Refusal := st.actReset autoRestart
/-- WATCH_CRASH_CLEAR (R425). -/
def execWatchCrashClear (v : Word) (st : State) : Host.Outcome State Fault Refusal := st.act (watchCrashClear v)
/-- ERROR_RECORD_ARRIVAL (R410). -/
def execErrorRecordArrival (unit : Nat) (st : State) : Host.Outcome State Fault Refusal := st.actErr (errorRecordArrival unit)
/-- CLERK_HANDLER_ERROR (R422). -/
def execClerkHandlerError (hkind : Nat) (opcode : Nat) (pc : Word) (st : State) : Host.Outcome State Fault Refusal := st.act (clerkHandlerError st.ident (st.err.next - 1) hkind opcode pc)
/-- CHRONICLE_WRITE (R430). -/
def execChronicleWrite (st : State) : Host.Outcome State Fault Refusal := st.act (chronicleWrite st.ident)
/-- CHRON_MARK (R429). -/
def execChronMark (hart : Nat) (v : Word) (st : State) : Host.Outcome State Fault Refusal := st.act (chronMark hart v)
/-- CENSUS_COMPLETE (R433). -/
def execCensusComplete (st : State) : Host.Outcome State Fault Refusal := st.act (censusComplete st.ident)
/-- GAUGE_SAMPLE (R442). -/
def execGaugeSample (gau : Nat) (sv : Int) (st : State) : Host.Outcome State Fault Refusal := st.act (gaugeSample gau sv)

end Sys2Proof.Machine
end

