-- ==== Sys2Proof/Machine/ExecLife.lean ====
section
/-!
DEFINITION. ExecLife.lean: what each command of power-on, reset, boot, trust, lamps (20, 21) does to the whole state.
-/
namespace Sys2Proof.Machine

/-- POWER_ON (R445). -/
def execPowerOn (st : State) : Host.Outcome State Fault Refusal := st.actReset powerOn
/-- MRST_N_ASSERT (R472). -/
def execMrstNAssert (st : State) : Host.Outcome State Fault Refusal := st.actReset mrstNAssert
/-- MRST_N_RELEASE (R472). -/
def execMrstNRelease (st : State) : Host.Outcome State Fault Refusal := st.act mrstNRelease
/-- BOOT_CLERK_START (R449). -/
def execBootClerkStart (dimms : Nat) (st : State) : Host.Outcome State Fault Refusal := st.act (bootClerkStart dimms)
/-- BOOT_VERIFY_IMAGES (R451). -/
def execBootVerifyImages (st : State) : Host.Outcome State Fault Refusal := st.act (bootVerifyImages st.ident)
/-- BOOT_DIES_UP (R274). -/
def execBootDiesUp (mute : Nat) (links : Nat) (sides : Nat) (spares : List Nat) (st : State) : Host.Outcome State Fault Refusal := st.act (bootDiesUp st.ident mute links sides spares)
/-- BOOT_HBM (R226). -/
def execBootHbm (failed : Nat) (reps : List (Nat × List Machine.Repair)) (st : State) : Host.Outcome State Fault Refusal := st.act (bootHbm failed reps)
/-- BOOT_OPTICS (R449). -/
def execBootOptics (st : State) : Host.Outcome State Fault Refusal := st.act bootOptics
/-- BOOT_RELEASE_HARTS (R453). -/
def execBootReleaseHarts (st : State) : Host.Outcome State Fault Refusal := st.act (fun h => bootReleaseHarts st.ident h)
/-- HOST_RESET_RELEASE (R255). -/
def execHostResetRelease (st : State) : Host.Outcome State Fault Refusal := st.act (hostResetRelease st.ident)
/-- HART_START (R453). -/
def execHartStart (v : Word) (st : State) : Host.Outcome State Fault Refusal := st.act (hartStart v)
/-- FLASH_PROGRAM (R459). -/
def execFlashProgram (hart : Nat) (v : Word) (st : State) : Host.Outcome State Fault Refusal := st.act (flashProgram hart v)
/-- FLASH_ERASE (R459). -/
def execFlashErase (hart : Nat) (v : Word) (st : State) : Host.Outcome State Fault Refusal := st.act (flashEraseCmd hart v)
/-- FLASH_OP_DONE (R459). -/
def execFlashOpDone (ok : Bool) (st : State) : Host.Outcome State Fault Refusal := st.act (flashOpDone ok)
/-- UNLOCK_CHALLENGE (R457). -/
def execUnlockChallenge (st : State) : Host.Outcome State Fault Refusal := st.act unlockChallenge
/-- UNLOCK_TOKEN (R457). -/
def execUnlockToken (t : List Byte) (st : State) : Host.Outcome State Fault Refusal := st.act (unlockToken t)
/-- EXTEST_ENTRY (R458). -/
def execExtestEntry (st : State) : Host.Outcome State Fault Refusal := st.actReset extestEntry
/-- HOLDUP_BANK_FULL (R463). -/
def execHoldupBankFull (st : State) : Host.Outcome State Fault Refusal := st.act holdupBankFull
/-- LAMP_LATCH_OPEN (R468). -/
def execLampLatchOpen (bay : Nat) (st : State) : Host.Outcome State Fault Refusal := st.act (lampLatchOpen bay)
/-- LAMP_LATCH_CLOSE (R469). -/
def execLampLatchClose (bay : Nat) (kind : Nat) (temp : Nat) (hours : Nat) (st : State) : Host.Outcome State Fault Refusal := st.act (lampLatchClose bay kind temp hours)
/-- LAMP_WARMED (R469). -/
def execLampWarmed (bay : Nat) (st : State) : Host.Outcome State Fault Refusal := st.act (lampWarmed bay)
/-- LAMP_CALIBRATED (R469). -/
def execLampCalibrated (bay : Nat) (st : State) : Host.Outcome State Fault Refusal := st.act (lampCalibrated bay)
/-- LAMP_READY (R469). -/
def execLampReady (bay : Nat) (st : State) : Host.Outcome State Fault Refusal := st.act (lampReady bay)
/-- FORWARDED_CLOCK_LOCK_LOSS (R267). -/
def execForwardedClockLockLoss (site : Nat) (st : State) : Host.Outcome State Fault Refusal := st.act (forwardedClockLockLoss site)
/-- EXTEST_EXIT (R458). -/
def execExtestExit (st : State) : Host.Outcome State Fault Refusal := st.act extestExit
/-- FALLOW_RESET_END (R446). -/
def execFallowResetEnd (links : Nat) (sides : Nat) (spares : List Nat) (st : State) : Host.Outcome State Fault Refusal := st.act (fallowResetEnd st.ident links sides spares)
/-- PACING_INTERVAL_EXPIRY (R297). -/
def execPacingIntervalExpiry (qpn : Nat) (st : State) : Host.Outcome State Fault Refusal := st.act (pacingIntervalExpiry qpn)

end Sys2Proof.Machine
end

