-- ==== Sys2Proof/Machine/ExecMemory.lean ====
section
/-!
DEFINITION. ExecMemory.lean: what each command of cellars, stacks, scrubs, coherence, die links (09, 10, 11) does to the whole state.
-/
namespace Sys2Proof.Machine

/-- CELLAR_READ (R210). -/
def execCellarRead (a : Nat) (len : Nat) (hint : Nat) (found : Nat) (st : State) : Host.Outcome State Fault Refusal := st.act (cellarReadCmd st.ident a len hint found)
/-- CELLAR_WRITE (R211). -/
def execCellarWrite (a : Nat) (hint : Nat) (thru : Bool) (data : List Byte) (st : State) : Host.Outcome State Fault Refusal := st.act (cellarWriteCmd st.ident a hint thru data)
/-- CELLAR_FLUSH (R214). -/
def execCellarFlush (k : Nat) (st : State) : Host.Outcome State Fault Refusal := st.act (cellarFlush k)
/-- CELLAR_FLUSH_DONE (R214). -/
def execCellarFlushDone (k : Nat) (st : State) : Host.Outcome State Fault Refusal := st.act (cellarFlushDone k)
/-- STACK_SELF_REFRESH_ENTRY (R214). -/
def execStackSelfRefreshEntry (k : Nat) (st : State) : Host.Outcome State Fault Refusal := st.act (stackEntry k)
/-- PATROL_SCRUB_STEP (R230). -/
def execPatrolScrubStep (t : Nat) (found : Nat) (st : State) : Host.Outcome State Fault Refusal := st.act (patrolScrubStep st.ident t found)
/-- SRAM_SCRUB_STEP (R232). -/
def execSramScrubStep (kind : Nat) (u : Nat) (w : Nat) (found : Nat) (st : State) : Host.Outcome State Fault Refusal := st.actErr (fun e h => (e.scrub kind u found, sramScrubStep st.ident kind u w found h))
/-- THERM_SAMPLE (R216). -/
def execThermSample (d : Nat) (stk : Nat) (rs : List (Option Int)) (st : State) : Host.Outcome State Fault Refusal := st.act (thermSample st.ident (st.err.next - 1) d stk rs)
/-- READ_SHARED (R238). -/
def execReadShared (agent : Nat) (a : Nat) (found : Nat) (st : State) : Host.Outcome State Fault Refusal := st.act (readShared st.ident agent a found)
/-- READ_UNIQUE (R238). -/
def execReadUnique (agent : Nat) (a : Nat) (op : Machine.CacheOp) (st : State) : Host.Outcome State Fault Refusal := st.act (readUnique st.ident agent a op)
/-- UPGRADE (R240). -/
def execUpgrade (agent : Nat) (a : Nat) (op : Machine.CacheOp) (st : State) : Host.Outcome State Fault Refusal := st.act (upgrade st.ident agent a op)
/-- WRITE_BACK (R249). -/
def execWriteBack (agent : Nat) (a : Nat) (st : State) : Host.Outcome State Fault Refusal := st.act (writeBack st.ident agent a)
/-- EVICT_CLEAN (R238). -/
def execEvictClean (agent : Nat) (a : Nat) (st : State) : Host.Outcome State Fault Refusal := st.act (evictClean st.ident agent a)
/-- TRANSFER (R238). -/
def execTransfer (agent : Nat) (a : Nat) (st : State) : Host.Outcome State Fault Refusal := st.act (transfer st.ident agent a)
/-- SNOOP_WITHOUT_ALLOCATE (R244). -/
def execSnoopWithoutAllocate (nc : Nat) (a : Nat) (len : Nat) (hint : Nat) (found : Nat) (st : State) : Host.Outcome State Fault Refusal := st.act (snoopWithoutAllocate st.ident nc a len hint found)
/-- WRITE_INVALIDATE (R245). -/
def execWriteInvalidate (nc : Nat) (a : Nat) (hint : Nat) (data : List Byte) (st : State) : Host.Outcome State Fault Refusal := st.act (writeInvalidate st.ident nc a hint data)
/-- NONCACHING_ATOMIC (R246). -/
def execNoncachingAtomic (nc : Nat) (a : Nat) (size : Nat) (op : Nat) (opnd : List Byte) (st : State) : Host.Outcome State Fault Refusal := st.act (noncachingAtomic st.ident nc a size op opnd)
/-- SNOOP (R247). -/
def execSnoop (agent : Nat) (a : Nat) (st : State) : Host.Outcome State Fault Refusal := st.act (snoop st.ident agent a)
/-- LINE_RELEASE (R242). -/
def execLineRelease (slice : Nat) (a : Nat) (st : State) : Host.Outcome State Fault Refusal := st.act (lineRelease st.ident slice a)
/-- FLIT_RECEIVE (R266). -/
def execFlitReceive (site : Nat) (seq : Nat) (crcOk : Bool) (credit : List Nat) (st : State) : Host.Outcome State Fault Refusal := st.act (flitReceive site seq crcOk credit)
/-- RETRAIN_ATTEMPT_END (R268). -/
def execRetrainAttemptEnd (site : Nat) (ok : Bool) (sp : Nat) (sq : Nat) (st : State) : Host.Outcome State Fault Refusal := st.act (retrainAttemptEnd st.ident site ok sp sq)
/-- BG_CALIBRATION (R269). -/
def execBgCalibration (site : Nat) (group : Nat) (fail : Bool) (st : State) : Host.Outcome State Fault Refusal := st.act (bgCalibration site group fail)
/-- CAL_MAX_EXPIRY (R269). -/
def execCalMaxExpiry (site : Nat) (group : Nat) (st : State) : Host.Outcome State Fault Refusal := st.act (calMaxExpiry site group)

end Sys2Proof.Machine
end

