-- ==== Sys2Proof/Machine/ExecTile.lean ====
section
/-!
DEFINITION. ExecTile.lean: what each command of tiles: registers, streams, commands, tokens (00, 04, 16) does to the whole state.
-/
namespace Sys2Proof.Machine

/-- REGISTER_WRITE (R15). -/
def execRegisterWrite (hart : Nat) (a : Nat) (width : Nat) (v : Word) (st : State) : Host.Outcome State Fault Refusal := st.act (registerWrite st.ident hart a width v)
/-- READ_CLEAR (R13). -/
def execReadClear (hart : Nat) (a : Nat) (width : Nat) (st : State) : Host.Outcome State Fault Refusal := st.act (readClear st.ident st.err hart a width)
/-- STREAM_START (R81). -/
def execStreamStart (g : Nat) (s : Nat) (st : State) : Host.Outcome State Fault Refusal := st.act (streamStart st.ident g s)
/-- STREAM_START_GRANTED (R94). -/
def execStreamStartGranted (g : Nat) (s : Nat) (st : State) : Host.Outcome State Fault Refusal := st.act (streamStartGranted g s)
/-- TILE_STOP (R83). -/
def execTileStop (g : Nat) (st : State) : Host.Outcome State Fault Refusal := st.act (tileStop st.ident g)
/-- STREAM_INSTRUCTION (R80). -/
def execStreamInstruction (g : Nat) (s : Nat) (st : State) : Host.Outcome State Fault Refusal := st.act (streamInstruction st.ident g s)
/-- CSR_COUNTER_READ (R478). -/
def execCsrCounterRead (g : Nat) (s : Nat) (rd : Nat) (csr : Nat) (st : State) : Host.Outcome State Fault Refusal := st.act (csrCounterRead g s rd csr)
/-- FENCE_I (R478). -/
def execFenceI (g : Nat) (s : Nat) (st : State) : Host.Outcome State Fault Refusal := st.act (fenceI g s)
/-- MMA (R109). -/
def execMma (g : Nat) (s : Nat) (rs1 : Nat) (rs2 : Nat) (rs3 : Nat) (sy : Nat) (st : State) : Host.Outcome State Fault Refusal := st.act (matrixIssue false g s rs1 rs2 rs3 sy)
/-- MDRAIN (R106). -/
def execMdrain (g : Nat) (s : Nat) (rs1 : Nat) (rs2 : Nat) (rs3 : Nat) (sy : Nat) (st : State) : Host.Outcome State Fault Refusal := st.act (matrixIssue true g s rs1 rs2 rs3 sy)
/-- CART (R145). -/
def execCart (g : Nat) (s : Nat) (rs1 : Nat) (rs2 : Nat) (sy : Nat) (st : State) : Host.Outcome State Fault Refusal := st.act (cartIssue g s rs1 rs2 sy)
/-- TALLOC (R93). -/
def execTalloc (g : Nat) (s : Nat) (rs1 : Nat) (sy : Nat) (st : State) : Host.Outcome State Fault Refusal := st.act (talloc g s rs1 sy)
/-- TALLOC_GRANT (R93). -/
def execTallocGrant (g : Nat) (s : Nat) (st : State) : Host.Outcome State Fault Refusal := st.act (tallocGrant st.ident g s)
/-- GFENCE (R96). -/
def execGfence (g : Nat) (s : Nat) (sy : Nat) (st : State) : Host.Outcome State Fault Refusal := st.act (gfence g s sy)
/-- GFENCE_COMPLETE (R96). -/
def execGfenceComplete (g : Nat) (s : Nat) (seq : Nat) (st : State) : Host.Outcome State Fault Refusal := st.act (gfenceComplete g s seq)
/-- TSTEP (R96). -/
def execTstep (g : Nat) (s : Nat) (p : Phase) (st : State) : Host.Outcome State Fault Refusal :=
  match p with
  | .issue rs1 _ _ sy => st.act (tstepIssue g s rs1 sy)
  | .run => st.act (tstepRun st.ident g s)
/-- TNOP (R96). -/
def execTnop (g : Nat) (s : Nat) (p : Phase) (st : State) : Host.Outcome State Fault Refusal :=
  match p with
  | .issue _ _ _ sy => st.act (tnopIssue g s sy)
  | .run => st.act (tnopRun st.ident g s)
/-- TWAIT_CONSUME (R89). -/
def execTwaitConsume (g : Nat) (s : Nat) (rs1 : Nat) (rs2 : Nat) (st : State) : Host.Outcome State Fault Refusal := st.act (twait false g s rs1 rs2)
/-- TWAIT_PEEK (R89). -/
def execTwaitPeek (g : Nat) (s : Nat) (rs1 : Nat) (rs2 : Nat) (st : State) : Host.Outcome State Fault Refusal := st.act (twait true g s rs1 rs2)
/-- TWAIT_RELEASE (R90). -/
def execTwaitRelease (g : Nat) (s : Nat) (st : State) : Host.Outcome State Fault Refusal := st.act (twaitRelease g s)
/-- TSIG (R96). -/
def execTsig (g : Nat) (s : Nat) (rs1 : Nat) (rs2 : Nat) (st : State) : Host.Outcome State Fault Refusal := st.act (tsig g s rs1 rs2)
/-- TSIG_REMOTE (R91). -/
def execTsigRemote (g : Nat) (s : Nat) (rs1 : Nat) (rs2 : Nat) (rs3 : Nat) (st : State) : Host.Outcome State Fault Refusal := st.act (tsigRemote g s rs1 rs2 rs3)
/-- TEND (R82). -/
def execTend (g : Nat) (s : Nat) (st : State) : Host.Outcome State Fault Refusal := st.act (tend g s)
/-- TEND_RETIRE (R82). -/
def execTendRetire (g : Nat) (s : Nat) (st : State) : Host.Outcome State Fault Refusal := st.act (tendRetire g s)
/-- COMMAND_DISPATCH (R85). -/
def execCommandDispatch (g : Nat) (s : Nat) (st : State) : Host.Outcome State Fault Refusal := st.act (commandDispatch st.ident g s)
/-- COMMAND_COMPLETE (R87). -/
def execCommandComplete (g : Nat) (s : Nat) (seq : Nat) (st : State) : Host.Outcome State Fault Refusal := st.act (commandComplete g s seq)
/-- REMOTE_TOKEN_SIGNAL (R91). -/
def execRemoteTokenSignal (src : Nat) (dst : Nat) (st : State) : Host.Outcome State Fault Refusal := st.act (remoteTokenSignal st.ident src dst)
/-- WATCHDOG_EXPIRY (R111). -/
def execWatchdogExpiry (g : Nat) (s : Nat) (st : State) : Host.Outcome State Fault Refusal := st.act (watchdogExpiry st.ident g s)
/-- TOKEN_WRITE (R90). -/
def execTokenWrite (g : Nat) (tok : Nat) (v : Nat) (st : State) : Host.Outcome State Fault Refusal := st.act (tokenWrite st.ident g tok v)

end Sys2Proof.Machine
end

