-- ==== Sys2Proof/Machine/Dispatch.lean ====
section
/-!
DEFINITION. Dispatch.lean: one arm per command.
-/
namespace Sys2Proof.Machine

def exec (i : Instr) (s : State) : Host.Outcome State Fault Refusal :=
  match i with
  | .registerWrite hart a width v => Sys2Proof.Machine.execRegisterWrite hart a width v s
  | .readClear hart a width => Sys2Proof.Machine.execReadClear hart a width s
  | .streamStart g x => Sys2Proof.Machine.execStreamStart g x s
  | .streamStartGranted g x => Sys2Proof.Machine.execStreamStartGranted g x s
  | .tileStop g => Sys2Proof.Machine.execTileStop g s
  | .streamInstruction g x => Sys2Proof.Machine.execStreamInstruction g x s
  | .csrCounterRead g x rd csr => Sys2Proof.Machine.execCsrCounterRead g x rd csr s
  | .fenceI g x => Sys2Proof.Machine.execFenceI g x s
  | .mma g x rs1 rs2 rs3 sy => Sys2Proof.Machine.execMma g x rs1 rs2 rs3 sy s
  | .mdrain g x rs1 rs2 rs3 sy => Sys2Proof.Machine.execMdrain g x rs1 rs2 rs3 sy s
  | .cart g x rs1 rs2 sy => Sys2Proof.Machine.execCart g x rs1 rs2 sy s
  | .talloc g x rs1 sy => Sys2Proof.Machine.execTalloc g x rs1 sy s
  | .tallocGrant g x => Sys2Proof.Machine.execTallocGrant g x s
  | .gfence g x sy => Sys2Proof.Machine.execGfence g x sy s
  | .gfenceComplete g x seq => Sys2Proof.Machine.execGfenceComplete g x seq s
  | .tstep g x p => Sys2Proof.Machine.execTstep g x p s
  | .tnop g x p => Sys2Proof.Machine.execTnop g x p s
  | .twaitConsume g x rs1 rs2 => Sys2Proof.Machine.execTwaitConsume g x rs1 rs2 s
  | .twaitPeek g x rs1 rs2 => Sys2Proof.Machine.execTwaitPeek g x rs1 rs2 s
  | .twaitRelease g x => Sys2Proof.Machine.execTwaitRelease g x s
  | .tsig g x rs1 rs2 => Sys2Proof.Machine.execTsig g x rs1 rs2 s
  | .tsigRemote g x rs1 rs2 rs3 => Sys2Proof.Machine.execTsigRemote g x rs1 rs2 rs3 s
  | .tend g x => Sys2Proof.Machine.execTend g x s
  | .tendRetire g x => Sys2Proof.Machine.execTendRetire g x s
  | .commandDispatch g x => Sys2Proof.Machine.execCommandDispatch g x s
  | .commandComplete g x seq => Sys2Proof.Machine.execCommandComplete g x seq s
  | .remoteTokenSignal src dst => Sys2Proof.Machine.execRemoteTokenSignal src dst s
  | .watchdogExpiry g x => Sys2Proof.Machine.execWatchdogExpiry g x s
  | .tokenWrite g tok v => Sys2Proof.Machine.execTokenWrite g tok v s
  | .penLoad g x r0 nr rstep c0 nc cstep => Sys2Proof.Machine.execPenLoad g x r0 nr rstep c0 nc cstep s
  | .troughFill g x e r0 nr rstep c0 nc cstep => Sys2Proof.Machine.execTroughFill g x e r0 nr rstep c0 nc cstep s
  | .kStep g x c => Sys2Proof.Machine.execKStep g x c s
  | .slotDrain g x c => Sys2Proof.Machine.execSlotDrain g x c s
  | .vmap g x p => Sys2Proof.Machine.execVmap g x p s
  | .vred g x p => Sys2Proof.Machine.execVred g x p s
  | .vsoftmax g x p => Sys2Proof.Machine.execVsoftmax g x p s
  | .vlnorm g x p => Sys2Proof.Machine.execVlnorm g x p s
  | .vrmsnorm g x p => Sys2Proof.Machine.execVrmsnorm g x p s
  | .vgather g x p => Sys2Proof.Machine.execVgather g x p s
  | .vscatter g x p => Sys2Proof.Machine.execVscatter g x p s
  | .vscatadd g x p => Sys2Proof.Machine.execVscatadd g x p s
  | .vrandUniform g x p => Sys2Proof.Machine.execVrandUniform g x p s
  | .vrandNormal g x p => Sys2Proof.Machine.execVrandNormal g x p s
  | .vrandBernoulli g x p => Sys2Proof.Machine.execVrandBernoulli g x p s
  | .vmxpackPen g x p => Sys2Proof.Machine.execVmxpackPen g x p s
  | .vmxpackChunk g x p => Sys2Proof.Machine.execVmxpackChunk g x p s
  | .vecRngSeedWrite hart g v => Sys2Proof.Machine.execVecRngSeedWrite hart g v s
  | .cartPieceComplete g ct n => Sys2Proof.Machine.execCartPieceComplete g ct n s
  | .granaryWindowAccess hart a size store => Sys2Proof.Machine.execGranaryWindowAccess hart a size store s
  | .update g x rs1 rs2 rs3 sy => Sys2Proof.Machine.execUpdate g x rs1 rs2 rs3 sy s
  | .tallyRestoreFree g j => Sys2Proof.Machine.execTallyRestoreFree g j s
  | .updateSheafStart g => Sys2Proof.Machine.execUpdateSheafStart g s
  | .updateOpenRecord g j => Sys2Proof.Machine.execUpdateOpenRecord g j s
  | .updateWriteMoments g j => Sys2Proof.Machine.execUpdateWriteMoments g j s
  | .updateWriteWeights g j => Sys2Proof.Machine.execUpdateWriteWeights g j s
  | .updateCommit g j => Sys2Proof.Machine.execUpdateCommit g j s
  | .replGroupEnable hart grp v => Sys2Proof.Machine.execReplGroupEnable hart grp v s
  | .replGroupDisable hart grp v => Sys2Proof.Machine.execReplGroupDisable hart grp v s
  | .shardReadySend grp sh => Sys2Proof.Machine.execShardReadySend grp sh s
  | .digestTableReceive grp rank sh b step v => Sys2Proof.Machine.execDigestTableReceive grp rank sh b step v s
  | .refetchStart grp sh b => Sys2Proof.Machine.execRefetchStart grp sh b s
  | .refetchServe grp rank sh b step => Sys2Proof.Machine.execRefetchServe grp rank sh b step s
  | .refetchDeliver grp sh b answer data => Sys2Proof.Machine.execRefetchDeliver grp sh b answer data s
  | .exchangeCloseGate grp => Sys2Proof.Machine.execExchangeCloseGate grp s
  | .xchgTimeout grp => Sys2Proof.Machine.execXchgTimeout grp s
  | .replRelease grp => Sys2Proof.Machine.execReplRelease grp s
  | .replAbort grp => Sys2Proof.Machine.execReplAbort grp s
  | .cellarRead a len hint found => Sys2Proof.Machine.execCellarRead a len hint found s
  | .cellarWrite a hint thru data => Sys2Proof.Machine.execCellarWrite a hint thru data s
  | .cellarFlush k => Sys2Proof.Machine.execCellarFlush k s
  | .cellarFlushDone k => Sys2Proof.Machine.execCellarFlushDone k s
  | .stackSelfRefreshEntry k => Sys2Proof.Machine.execStackSelfRefreshEntry k s
  | .patrolScrubStep t found => Sys2Proof.Machine.execPatrolScrubStep t found s
  | .sramScrubStep kind u w found => Sys2Proof.Machine.execSramScrubStep kind u w found s
  | .thermSample d stk rs => Sys2Proof.Machine.execThermSample d stk rs s
  | .readShared agent a found => Sys2Proof.Machine.execReadShared agent a found s
  | .readUnique agent a op => Sys2Proof.Machine.execReadUnique agent a op s
  | .upgrade agent a op => Sys2Proof.Machine.execUpgrade agent a op s
  | .writeBack agent a => Sys2Proof.Machine.execWriteBack agent a s
  | .evictClean agent a => Sys2Proof.Machine.execEvictClean agent a s
  | .transfer agent a => Sys2Proof.Machine.execTransfer agent a s
  | .snoopWithoutAllocate nc a len hint found => Sys2Proof.Machine.execSnoopWithoutAllocate nc a len hint found s
  | .writeInvalidate nc a hint data => Sys2Proof.Machine.execWriteInvalidate nc a hint data s
  | .noncachingAtomic nc a size op opnd => Sys2Proof.Machine.execNoncachingAtomic nc a size op opnd s
  | .snoop agent a => Sys2Proof.Machine.execSnoop agent a s
  | .lineRelease slice a => Sys2Proof.Machine.execLineRelease slice a s
  | .flitReceive site seq crcOk credit => Sys2Proof.Machine.execFlitReceive site seq crcOk credit s
  | .retrainAttemptEnd site ok sp sq => Sys2Proof.Machine.execRetrainAttemptEnd site ok sp sq s
  | .bgCalibration site group fail => Sys2Proof.Machine.execBgCalibration site group fail s
  | .calMaxExpiry site group => Sys2Proof.Machine.execCalMaxExpiry site group s
  | .send port link src pk => Sys2Proof.Machine.execSend port link src pk s
  | .write port link src pk => Sys2Proof.Machine.execWrite port link src pk s
  | .readReq port link src pk => Sys2Proof.Machine.execReadReq port link src pk s
  | .readResp port link src pk => Sys2Proof.Machine.execReadResp port link src pk s
  | .fadd port link src pk => Sys2Proof.Machine.execFadd port link src pk s
  | .cas port link src pk => Sys2Proof.Machine.execCas port link src pk s
  | .atomicResp port link src pk => Sys2Proof.Machine.execAtomicResp port link src pk s
  | .rfence port link src pk => Sys2Proof.Machine.execRfence port link src pk s
  | .rfenceAcknowledge qpn => Sys2Proof.Machine.execRfenceAcknowledge qpn s
  | .ack port link src pk => Sys2Proof.Machine.execAck port link src pk s
  | .nak port link src pk => Sys2Proof.Machine.execNak port link src pk s
  | .close port link src pk => Sys2Proof.Machine.execClose port link src pk s
  | .lease port link src pk => Sys2Proof.Machine.execLease port link src pk s
  | .reduce port link src pk => Sys2Proof.Machine.execReduce port link src pk s
  | .gather port link src pk => Sys2Proof.Machine.execGather port link src pk s
  | .linkControlFrame port link serial pport plink => Sys2Proof.Machine.execLinkControlFrame port link serial pport plink s
  | .linkControlSend port link => Sys2Proof.Machine.execLinkControlSend port link s
  | .blacklistExpiry src => Sys2Proof.Machine.execBlacklistExpiry src s
  | .lastPacketWrite qpn => Sys2Proof.Machine.execLastPacketWrite qpn s
  | .linkDown port link => Sys2Proof.Machine.execLinkDown port link s
  | .linkUp port link => Sys2Proof.Machine.execLinkUp port link s
  | .linkHoldExpiry port link => Sys2Proof.Machine.execLinkHoldExpiry port link s
  | .ackTimer qpn => Sys2Proof.Machine.execAckTimer qpn s
  | .retransmitTimeout qpn => Sys2Proof.Machine.execRetransmitTimeout qpn s
  | .rnrRetry qpn => Sys2Proof.Machine.execRnrRetry qpn s
  | .sendWorkRequest qpn => Sys2Proof.Machine.execSendWorkRequest qpn s
  | .writeWorkRequest qpn => Sys2Proof.Machine.execWriteWorkRequest qpn s
  | .readWorkRequest qpn => Sys2Proof.Machine.execReadWorkRequest qpn s
  | .faddWorkRequest qpn => Sys2Proof.Machine.execFaddWorkRequest qpn s
  | .casWorkRequest qpn => Sys2Proof.Machine.execCasWorkRequest qpn s
  | .rfenceWorkRequest qpn => Sys2Proof.Machine.execRfenceWorkRequest qpn s
  | .recvWorkRequest qpn => Sys2Proof.Machine.execRecvWorkRequest qpn s
  | .collWorkRequest qpn => Sys2Proof.Machine.execCollWorkRequest qpn s
  | .collectiveCombine cg j lo hi chunk => Sys2Proof.Machine.execCollectiveCombine cg j lo hi chunk s
  | .completionWrite q => Sys2Proof.Machine.execCompletionWrite q s
  | .leaseEnable v => Sys2Proof.Machine.execLeaseEnable v s
  | .leaseLapse => Sys2Proof.Machine.execLeaseLapse s
  | .bellEntryIssue e => Sys2Proof.Machine.execBellEntryIssue e s
  | .lateFiring e => Sys2Proof.Machine.execLateFiring e s
  | .bellEntryArm hart e v => Sys2Proof.Machine.execBellEntryArm hart e v s
  | .bellOffsetWrite v => Sys2Proof.Machine.execBellOffsetWrite v s
  | .bellStepTo v => Sys2Proof.Machine.execBellStepTo v s
  | .slewDone => Sys2Proof.Machine.execSlewDone s
  | .ppsPulse => Sys2Proof.Machine.execPpsPulse s
  | .holdoverEntry lost => Sys2Proof.Machine.execHoldoverEntry lost s
  | .ptpRx port link m => Sys2Proof.Machine.execPtpRx port link m s
  | .ptpTx => Sys2Proof.Machine.execPtpTx s
  | .chuteEnable hart ch v => Sys2Proof.Machine.execChuteEnable hart ch v s
  | .chuteDisable hart ch v => Sys2Proof.Machine.execChuteDisable hart ch v s
  | .ringTailWrite ch idx => Sys2Proof.Machine.execRingTailWrite ch idx s
  | .batchStart ch => Sys2Proof.Machine.execBatchStart ch s
  | .sampleTake ch => Sys2Proof.Machine.execSampleTake ch s
  | .sampleDone ch slot bad => Sys2Proof.Machine.execSampleDone ch slot bad s
  | .sampleForward ch slot => Sys2Proof.Machine.execSampleForward ch slot s
  | .batchRelease ch => Sys2Proof.Machine.execBatchRelease ch s
  | .droughtExpiry ch => Sys2Proof.Machine.execDroughtExpiry ch s
  | .hopperFreedWrite ch idx => Sys2Proof.Machine.execHopperFreedWrite ch idx s
  | .mailboxGo mb v => Sys2Proof.Machine.execMailboxGo mb v s
  | .commandAccept => Sys2Proof.Machine.execCommandAccept s
  | .mailboxFree mb => Sys2Proof.Machine.execMailboxFree mb s
  | .managementRequest src hdr rcd pay => Sys2Proof.Machine.execManagementRequest src hdr rcd pay s
  | .backgroundCommandDone n => Sys2Proof.Machine.execBackgroundCommandDone n s
  | .idGet => Sys2Proof.Machine.execIdGet s
  | .attest => Sys2Proof.Machine.execAttest s
  | .certGet => Sys2Proof.Machine.execCertGet s
  | .ctxCreate => Sys2Proof.Machine.execCtxCreate s
  | .ctxDestroy => Sys2Proof.Machine.execCtxDestroy s
  | .ctxStatus => Sys2Proof.Machine.execCtxStatus s
  | .ctxHint => Sys2Proof.Machine.execCtxHint s
  | .winSet => Sys2Proof.Machine.execWinSet s
  | .winRevoke => Sys2Proof.Machine.execWinRevoke s
  | .winGet => Sys2Proof.Machine.execWinGet s
  | .qCreate => Sys2Proof.Machine.execQCreate s
  | .qDestroy => Sys2Proof.Machine.execQDestroy s
  | .qQuery => Sys2Proof.Machine.execQQuery s
  | .qRestart => Sys2Proof.Machine.execQRestart s
  | .qpCreate => Sys2Proof.Machine.execQpCreate s
  | .qpClose => Sys2Proof.Machine.execQpClose s
  | .modelReg => Sys2Proof.Machine.execModelReg s
  | .modelUnreg => Sys2Proof.Machine.execModelUnreg s
  | .modelStatus => Sys2Proof.Machine.execModelStatus s
  | .modelClear => Sys2Proof.Machine.execModelClear s
  | .bellArm => Sys2Proof.Machine.execBellArm s
  | .bellDisarm => Sys2Proof.Machine.execBellDisarm s
  | .opPref => Sys2Proof.Machine.execOpPref s
  | .powerCap => Sys2Proof.Machine.execPowerCap s
  | .fallowEnter => Sys2Proof.Machine.execFallowEnter s
  | .fallowExit failed => Sys2Proof.Machine.execFallowExit failed s
  | .obsSelect => Sys2Proof.Machine.execObsSelect s
  | .chronCtrlStop => Sys2Proof.Machine.execChronCtrlStop s
  | .chronCtrlStart => Sys2Proof.Machine.execChronCtrlStart s
  | .chronCtrlConfigure => Sys2Proof.Machine.execChronCtrlConfigure s
  | .censusTake => Sys2Proof.Machine.execCensusTake s
  | .titheCtrl => Sys2Proof.Machine.execTitheCtrl s
  | .gaugeCtrl => Sys2Proof.Machine.execGaugeCtrl s
  | .errRead => Sys2Proof.Machine.execErrRead s
  | .errAck => Sys2Proof.Machine.execErrAck s
  | .ckptExport => Sys2Proof.Machine.execCkptExport s
  | .stackOffline => Sys2Proof.Machine.execStackOffline s
  | .stackOnline ok => Sys2Proof.Machine.execStackOnline ok s
  | .stackTestPatrol corr unc => Sys2Proof.Machine.execStackTestPatrol corr unc s
  | .stackTestMarch corr unc => Sys2Proof.Machine.execStackTestMarch corr unc s
  | .stackRepair spares flash => Sys2Proof.Machine.execStackRepair spares flash s
  | .leaseSet => Sys2Proof.Machine.execLeaseSet s
  | .leaseRenew => Sys2Proof.Machine.execLeaseRenew s
  | .resetModule => Sys2Proof.Machine.execResetModule s
  | .resetHost => Sys2Proof.Machine.execResetHost s
  | .resetFallow => Sys2Proof.Machine.execResetFallow s
  | .resetTile => Sys2Proof.Machine.execResetTile s
  | .patchList => Sys2Proof.Machine.execPatchList s
  | .patchInstall flash => Sys2Proof.Machine.execPatchInstall flash s
  | .patchErase flash => Sys2Proof.Machine.execPatchErase flash s
  | .mbScope => Sys2Proof.Machine.execMbScope s
  | .mgmtScope => Sys2Proof.Machine.execMgmtScope s
  | .doorbellWrite q width off v => Sys2Proof.Machine.execDoorbellWrite q width off v s
  | .stewardDecision => Sys2Proof.Machine.execStewardDecision s
  | .swapOutBody g => Sys2Proof.Machine.execSwapOutBody g s
  | .swapOutFinalHeader g => Sys2Proof.Machine.execSwapOutFinalHeader g s
  | .swapComplete g => Sys2Proof.Machine.execSwapComplete g s
  | .teardown ctx => Sys2Proof.Machine.execTeardown ctx s
  | .opRequestUpdate => Sys2Proof.Machine.execOpRequestUpdate s
  | .powerCeilingRevision ws input eff => Sys2Proof.Machine.execPowerCeilingRevision ws input eff s
  | .pointChangeSettle g => Sys2Proof.Machine.execPointChangeSettle g s
  | .sagStretch d mv => Sys2Proof.Machine.execSagStretch d mv s
  | .sagRelease d => Sys2Proof.Machine.execSagRelease d s
  | .energyMeasure die9 uj acts => Sys2Proof.Machine.execEnergyMeasure die9 uj acts s
  | .watchmanSample inp vs => Sys2Proof.Machine.execWatchmanSample inp vs s
  | .graceExpiry => Sys2Proof.Machine.execGraceExpiry s
  | .autoRestart => Sys2Proof.Machine.execAutoRestart s
  | .watchCrashClear v => Sys2Proof.Machine.execWatchCrashClear v s
  | .errorRecordArrival unit => Sys2Proof.Machine.execErrorRecordArrival unit s
  | .clerkHandlerError hkind opcode pc => Sys2Proof.Machine.execClerkHandlerError hkind opcode pc s
  | .chronicleWrite => Sys2Proof.Machine.execChronicleWrite s
  | .chronMark hart v => Sys2Proof.Machine.execChronMark hart v s
  | .censusComplete => Sys2Proof.Machine.execCensusComplete s
  | .gaugeSample gau sv => Sys2Proof.Machine.execGaugeSample gau sv s
  | .powerOn => Sys2Proof.Machine.execPowerOn s
  | .mrstNAssert => Sys2Proof.Machine.execMrstNAssert s
  | .mrstNRelease => Sys2Proof.Machine.execMrstNRelease s
  | .bootClerkStart dimms => Sys2Proof.Machine.execBootClerkStart dimms s
  | .bootVerifyImages => Sys2Proof.Machine.execBootVerifyImages s
  | .bootDiesUp mute links sides spares => Sys2Proof.Machine.execBootDiesUp mute links sides spares s
  | .bootHbm failed reps => Sys2Proof.Machine.execBootHbm failed reps s
  | .bootOptics => Sys2Proof.Machine.execBootOptics s
  | .bootReleaseHarts => Sys2Proof.Machine.execBootReleaseHarts s
  | .hostResetRelease => Sys2Proof.Machine.execHostResetRelease s
  | .hartStart v => Sys2Proof.Machine.execHartStart v s
  | .flashProgram hart v => Sys2Proof.Machine.execFlashProgram hart v s
  | .flashErase hart v => Sys2Proof.Machine.execFlashErase hart v s
  | .flashOpDone ok => Sys2Proof.Machine.execFlashOpDone ok s
  | .unlockChallenge => Sys2Proof.Machine.execUnlockChallenge s
  | .unlockToken t => Sys2Proof.Machine.execUnlockToken t s
  | .extestEntry => Sys2Proof.Machine.execExtestEntry s
  | .holdupBankFull => Sys2Proof.Machine.execHoldupBankFull s
  | .lampLatchOpen bay => Sys2Proof.Machine.execLampLatchOpen bay s
  | .lampLatchClose bay kind temp hours => Sys2Proof.Machine.execLampLatchClose bay kind temp hours s
  | .lampWarmed bay => Sys2Proof.Machine.execLampWarmed bay s
  | .lampCalibrated bay => Sys2Proof.Machine.execLampCalibrated bay s
  | .lampReady bay => Sys2Proof.Machine.execLampReady bay s
  | .forwardedClockLockLoss site => Sys2Proof.Machine.execForwardedClockLockLoss site s
  | .extestExit => Sys2Proof.Machine.execExtestExit s
  | .fallowResetEnd links sides spares => Sys2Proof.Machine.execFallowResetEnd links sides spares s
  | .pacingIntervalExpiry qpn => Sys2Proof.Machine.execPacingIntervalExpiry qpn s

end Sys2Proof.Machine
end

