-- ==== Sys2Proof/Machine/Tick.lean ====
section
/-!
DEFINITION. Tick.lean: what a nanosecond of the local clock brings by itself (notes/assumptions/1): bell time counts, a slew is
absorbed, streams of held tiles make no progress to be timed, and resets whose delay has passed begin.
-/
namespace Sys2Proof.Machine

/-- A reset that a RESET command asked for begins 1 ms after its reply (15 R365). -/
def Hw.delayed (id : Ident) (h : Hw) (next kind : Nat) : Hw :=
  if kind = 0 then h.moduleReset 3
  else if h.boot.phase = 8 ∧ !h.hostReset then h.beginHostReset id next else h

/-- A nanosecond without a command; while the module is kept in reset only the watchman's time goes on. `next` is the next error record's SEQ. -/
def tick (id : Ident) (next : Nat) (h : Hw) : Hw :=
  let h := if h.inReset then { h with localNs := h.localNs + 1 } else h.elapse 1 (slewStep h.bell.slew)
  let now := h.localNs
  let due := h.boot.resetAt.filter (fun r => decide (r.2 ≤ now))
  let h := h.modBoot (fun b => { b with resetAt := b.resetAt.filter (fun r => decide (now < r.2)) })
  due.foldl (fun h r => h.delayed id next r.1) h

end Sys2Proof.Machine
end

