-- ==== Sys2Proof/Machine/Step.lean ====
section
/-!
DEFINITION. Step.lean: one step takes the command at the front of the queue; with none waiting, a nanosecond passes.
-/
namespace Sys2Proof.Machine

/-- The module with its queue put in place of the old one. -/
def State.withPending (s : State) (q : List Instr) : State := { s with pending := q }

/-- One step (notes/assumptions/1). -/
def step (s : State) : Host.Outcome State Fault Refusal :=
  match s.pending with
  | [] => s.actReset (tick s.ident s.err.next)
  | c :: rest => exec c (s.withPending rest)

/-- The command a table word spells, put at the front of the queue. -/
def State.withFetchWord (s : State) (nbits w : Nat) : State :=
  match decodeTableWord nbits w with
  | some c => s.withPending (c :: s.pending)
  | none => s

end Sys2Proof.Machine
end

