-- ==== Sys2Proof/Safety.lean ====
section
/-!
DEFINITION. Safety.lean: the terms statements are made in: which parts of the module a command may change, and what the error
ring promises.
-/
namespace Sys2Proof.Machine

/-- The parts of the module, one for each field of Hw. -/
inductive Piece where
  | memS
  | regs
  | shadow
  | tiles
  | dieSt
  | ctxs
  | models
  | wins
  | resid
  | work
  | swaps
  | bitmap
  | compl
  | rsig
  | chron
  | tithe
  | errOut
  | bellNs
  | localNs
  | fab
  | repl
  | sites
  | bell
  | mill
  | clerk
  | power
  | boot
  | obs
  | out
  | resp
  | wiped
  | free
  deriving DecidableEq, Repr

/-- A part is the same in two states of the module. -/
def Piece.same (p : Piece) (a b : Hw) : Prop :=
  match p with
  | .memS => a.memS = b.memS
  | .regs => a.regs = b.regs
  | .shadow => a.shadow = b.shadow
  | .tiles => a.tiles = b.tiles
  | .dieSt => a.dieSt = b.dieSt
  | .ctxs => a.ctxs = b.ctxs
  | .models => a.models = b.models
  | .wins => a.wins = b.wins
  | .resid => a.resid = b.resid
  | .work => a.work = b.work
  | .swaps => a.swaps = b.swaps
  | .bitmap => a.bitmap = b.bitmap
  | .compl => a.compl = b.compl
  | .rsig => a.rsig = b.rsig
  | .chron => a.chron = b.chron
  | .tithe => a.tithe = b.tithe
  | .errOut => a.errOut = b.errOut
  | .bellNs => a.bellNs = b.bellNs
  | .localNs => a.localNs = b.localNs
  | .fab => a.fab = b.fab
  | .repl => a.repl = b.repl
  | .sites => a.sites = b.sites
  | .bell => a.bell = b.bell
  | .mill => a.mill = b.mill
  | .clerk => a.clerk = b.clerk
  | .power => a.power = b.power
  | .boot => a.boot = b.boot
  | .obs => a.obs = b.obs
  | .out => a.out = b.out
  | .resp => a.resp = b.resp
  | .wiped => a.wiped = b.wiped
  | .free => a.free = b.free

/-- From `a` to `b` nothing changed but the parts listed. -/
def Hw.onlyChanges (ps : List Piece) (a b : Hw) : Prop := ∀ p, p ∉ ps → p.same a b

/-- A command answers a next state, in which its identity, its error ring and its queue stand and of the rest only the parts
listed changed. -/
def CompletesWithin (c : Instr) (ps : List Piece) (s : State) : Prop :=
  ∃ h, exec c s = .next { s with hw := h } ∧ Hw.onlyChanges ps s.hw.fresh h

/-- A command answers a next state that keeps its identity, its error ring and its queue, with the rest of the module as P says. -/
def Does (c : Instr) (s : State) (P : Hw → Prop) : Prop := ∃ h, exec c s = .next { s with hw := h } ∧ P h

/-- A command answers a next state in which the module is as it was: only what it last answered and sent is forgotten. -/
def Nothing (c : Instr) (s : State) : Prop := exec c s = .next { s with hw := s.hw.fresh }

/-- The commands that may write the error ring: those that bring, read or acknowledge records, the scrub that may damage
a slot, and those that may reset the module. -/
def usesRing : Instr → Bool
  | .errRead => true
  | .errAck => true
  | .errorRecordArrival _ => true
  | .sramScrubStep _ _ _ _ => true
  | .watchmanSample _ _ => true
  | .autoRestart => true
  | .powerOn => true
  | .mrstNAssert => true
  | .extestEntry => true
  | _ => false

/-- The token and the count that a wait or a signal names: rs1 [5:0], rs2 [15:0] where 0 acts as 1 (04 R89, R96). -/
def Stream.tokOf (x : Stream) (rs1 : Nat) : Nat := fld (x.getX rs1).toNat 0 6
def Stream.cntOf (x : Stream) (rs2 : Nat) : Nat := max 1 (fld (x.getX rs2).toNat 0 16)

/-- The rows of a mask that the tile's other streams hold are none (04 R93, R94). -/
def Hw.rowsFree (h : Hw) (g s mask : Nat) : Bool := (h.tile g).others s &&& mask == 0

/-- The vector commands at issue, by funct3 and funct2 (05 Table 05-1). -/
def vectorRows (g s rs1 rs2 rs3 sy : Nat) : List (Nat × Nat × Instr) :=
  let p := Phase.issue rs1 rs2 rs3 sy
  [(0, 0, .vmap g s p), (1, 0, .vred g s p), (2, 0, .vsoftmax g s p), (2, 1, .vlnorm g s p), (2, 2, .vrmsnorm g s p),
    (3, 0, .vgather g s p), (3, 1, .vscatter g s p), (3, 2, .vscatadd g s p), (4, 0, .vrandUniform g s p),
    (4, 1, .vrandNormal g s p), (4, 2, .vrandBernoulli g s p), (5, 0, .vmxpackPen g s p), (5, 1, .vmxpackChunk g s p)]

/-- Their turns on the engine. -/
def vectorTurns (g s : Nat) : List (Nat × Nat × Instr) :=
  [(0, 0, .vmap g s .run), (1, 0, .vred g s .run), (2, 0, .vsoftmax g s .run), (2, 1, .vlnorm g s .run), (2, 2, .vrmsnorm g s .run),
    (3, 0, .vgather g s .run), (3, 1, .vscatter g s .run), (3, 2, .vscatadd g s .run), (4, 0, .vrandUniform g s .run),
    (4, 1, .vrandNormal g s .run), (4, 2, .vrandBernoulli g s .run), (5, 0, .vmxpackPen g s .run), (5, 1, .vmxpackChunk g s .run)]

/-- The transport's packet arrivals, by opcode (12 Table 12-3). -/
def packetRows (port link src : Nat) (p : Pkt) : List (Nat × Instr) :=
  [(0, .send port link src p), (1, .write port link src p), (2, .readReq port link src p), (3, .readResp port link src p),
    (4, .fadd port link src p), (5, .cas port link src p), (6, .atomicResp port link src p), (7, .rfence port link src p),
    (8, .ack port link src p), (9, .nak port link src p), (10, .close port link src p), (11, .lease port link src p),
    (12, .reduce port link src p), (13, .gather port link src p)]

/-- What a stream's fault or the end of a tile's work may change (04 R83, 16 R386, R387). -/
def faultParts : List Piece := [.tiles, .chron, .errOut, .compl, .work, .resid, .ctxs]

/-- What an access to memory may change: memory and counters; where it meets an uncorrectable error, records, contexts and models; and,
of the transactions that were open on its lines, their answers and the streams whose accesses they end in an error (09 R215, 10 R242,
18 R409, R415 to R417). -/
def memoryParts : List Piece := faultParts ++ [.memS, .regs, .models, .out]

/-- SEQ of the ring's records rises strictly from `lo` and stays below `hi`. -/
def seqRising : Nat → Nat → List RingRec → Prop
  | _, _, [] => True
  | lo, hi, r :: rs => lo ≤ r.seq ∧ r.seq < hi ∧ seqRising (r.seq + 1) hi rs

/-- What the error ring promises (18 R410, R412): at most 4,096 records, SEQ rising strictly, from 1 and below the SEQ the
next record takes; the count of lost records within its 32 bits. -/
structure ErrRing.Sound (e : ErrRing) : Prop where
  room   : e.recs.length ≤ 4096
  rising : seqRising 1 e.next e.recs
  first  : 1 ≤ e.next
  lost   : e.overN ≤ 0xFFFFFFFF

/-- A frame is heard: its link is up, it is good, not too long, and its partner not blacklisted (12 Table 12-10 rows 1 to 5). -/
def Hw.hears (h : Hw) (port link src : Nat) (p : Pkt) : Prop :=
  port < 16 ∧ link < 8 ∧ h.linkUp (8 * port + link) = true ∧ p.frame = 0 ∧ p.tooLong (h.portMode port == 1) = false ∧
    h.blacklisted (h.partner port link src) = false

/-- A frame reaches the transport of a queue pair: it is heard, it names a ready queue pair that has this link as its primary and
transmits on it, whose buffers hold no uncorrectable error (18 R408), and its headers are those its opcode calls for (12 Table 12-10
rows 1 to 8). -/
def Hw.reaches (h : Hw) (port link src : Nat) (p : Pkt) (q : Qp) : Prop :=
  h.hears port link src p ∧ h.qp (p.dqpn % 2 ^ 20) = some q ∧ q.st = 1 ∧ q.plink = 8 * port + link ∧ q.alt = false ∧ p.op < 0xE ∧
    p.resv = false ∧ p.hdrOk q = true ∧ q.bad = false

/-- Memory answers at every one of n bytes from a physical address on (09 R202, R206). -/
def Hw.answers (id : Ident) (h : Hw) (a n : Nat) : Bool :=
  match locate id a with
  | .gran _ off => h.reachable id a && decide (off + n ≤ granSize)
  | _ => (cutsOf a n).all (fun c => h.reachable id c.1)

/-- Memory takes a write of n bytes there: it answers, and none of them is in the clerk region (15 R366). -/
def Hw.takes (id : Ident) (h : Hw) (a n : Nat) : Bool :=
  h.answers id a n && (match locate id a with
    | .gran _ _ => true
    | _ => (cutsOf a n).all (fun c => !closedTo id 0 (keyOf c.1)))

/-- No transaction on a line is open (10 R242). -/
def Hw.settled (h : Hw) : Bool := h.memS.open_.isEmpty

/-- No transaction on a line is open, and no entry of the roll holds an uncorrectable error (10 R242, 18 R409). -/
def Hw.quiet (h : Hw) : Bool := h.settled && h.memS.roll.all (fun e => !e.2.bad)

/-- No word of memory, of a cellar slice, of a cache or of the roll holds an uncorrectable error. -/
def Hw.clean (h : Hw) : Bool :=
  h.memS.mem.bad.isEmpty && h.memS.cacheBad.isEmpty && h.memS.roll.all (fun e => !e.2.bad) && h.memS.slices.all (fun e => e.2.lines.all (fun x =>
    match x.2 with
    | some l => !l.bad
    | none => true))

/-- A control packet with this opcode and reason left on a link. -/
def Hw.answered (h : Hw) (port link op reason : Nat) : Prop :=
  ∃ (p : Pkt) (f : List Byte), Outp.pkt port link p f ∈ h.out ∧ p.op = op ∧ p.aeth.map (·.2.2) = some reason

/-- A carter's write of bytes was done between `a` and `b`, where before it only counters and queue pairs had changed and after it
memory did not. -/
def Hw.wrote (id : Ident) (a b : Hw) (addr : Nat) (x : List Byte) : Prop :=
  ∃ h₀ h₁, Hw.onlyChanges [.regs, .fab] a h₀ ∧ h₀.ncWrite id hintIn false addr x = (none, h₁) ∧ b.memS = h₁.memS

/-- A carter's read gave bytes between `a` and `b`, where before it only counters and queue pairs had changed; `h` is the module right
after it. -/
def Hw.fetched (id : Ident) (a : Hw) (c ctx addr n : Nat) (x : List Byte) (h : Hw) : Prop :=
  ∃ h₀, Hw.onlyChanges [.regs, .fab] a h₀ ∧ h₀.carterRead id c ctx addr n = (some x, h)

/-- Packets that answer a request wait on their queue pair, or have left. -/
def Hw.answersWith (h : Hw) (port link n : Nat) (ts : List TxPkt) : Prop :=
  ∀ t ∈ ts, (∃ y, h.qp n = some y ∧ t ∈ y.txq) ∨ ∃ k f, Outp.pkt port link { t.pkt with ts := k } f ∈ h.out

/-- A command faults its stream: cause, reason and the faulting instruction's address (04 R83, R84). -/
def FaultsWith (c : Instr) (g s cause detail pc : Nat) (st : State) : Prop :=
  Does c st fun h => (h.stream g s).st = .faulted ∧ (h.stream g s).cause = cause ∧ (h.stream g s).detail = detail ∧
    (h.stream g s).faultPc = pc ∧ ∀ u, u ≠ g → h.tile u = st.hw.tile u

/-- What the issue of a queued command does (04 R80, R84, R92) when its stream has its turn and none of its registers is pending: with
no reserved bit in the sync word and room in the queue, it takes the next place in the queue with its sync word, ISSUED counts it and
the stream moves on, its registers, the tile's tokens, cores and carts and every other stream standing; a full queue stalls the stream,
which issues nothing; a reserved bit of the sync word faults the stream with cause 0x02 and reason 0x0E. -/
def Issues (c : Instr) (g s : Nat) (regs : List Nat) (sy : Nat) (op : QOp) (st : State) : Prop :=
  let x := st.hw.stream g s
  let w := (x.getX sy).toNat
  st.hw.mayIssue g s (sy :: regs) = true →
    (w < 2 ^ 39 → x.queue.length < 32 → Does c st fun h =>
      (h.stream g s).queue = x.queue ++ [⟨x.issued, x.pc, w, op⟩] ∧ (h.stream g s).issued = x.issued + 1 ∧
        (h.stream g s).pc = (x.pc + 4) % 2 ^ 64 ∧ (h.stream g s).x = x.x ∧ (∀ k, k ≠ s → h.stream g k = st.hw.stream g k) ∧
        (h.tile g).tok = (st.hw.tile g).tok ∧ (h.tile g).cores = (st.hw.tile g).cores ∧ (h.tile g).carts = (st.hw.tile g).carts ∧
        (∀ u, u ≠ g → h.tile u = st.hw.tile u) ∧ Hw.onlyChanges [.tiles] st.hw.fresh h) ∧
    (w < 2 ^ 39 → x.queue.length = 32 → Does c st fun h => h.stream g s = { x with full := true } ∧
      (∀ k, k ≠ s → h.stream g k = st.hw.stream g k) ∧ (∀ u, u ≠ g → h.tile u = st.hw.tile u) ∧
      Hw.onlyChanges [.tiles] st.hw.fresh h) ∧
    (2 ^ 39 ≤ w → (st.hw.tile g).faulted = false → FaultsWith c g s 0x02 0x0E x.pc st)

/-- An instruction that touches a pending register stalls: its stream remembers which, and nothing else changes (04 R110). -/
def Stalls (c : Instr) (g s : Nat) (regs : List Nat) (st : State) : Prop :=
  st.hw.mayIssue g s regs = false → st.hw.mayIssue g s [] = true → Does c st fun h =>
    h.stream g s = { st.hw.stream g s with stall := (st.hw.stream g s).waitsOn regs } ∧
      (∀ k, k ≠ s → h.stream g k = st.hw.stream g k) ∧ (∀ u, u ≠ g → h.tile u = st.hw.tile u) ∧ Hw.onlyChanges [.tiles] st.hw.fresh h

/-- The issue checks of 04 R109 in its order, each with its reason of Table 04-13: whether it fails for an MMA (or an MDRAIN, `md`) with
these operand registers, on a tile whose stream has this issue mask. -/
def issueChecks (t : Tile) (mask rs1 rs2 rs3 : Nat) (md : Bool) : List (Prop × Nat) :=
  let f := Mma.of rs1 rs2 rs3
  let y := f.yExtent f.order (f.yoff * 32) f.defStride
  let depends : Prop := f.order = 0 ∧ f.stride = true
  [ (f.m = 0 ∨ f.n = 0 ∨ f.k = 0, 0x01),
    (fmtRow f.afmt ≠ fmtRow f.bfmt ∨ fmtRow f.afmt = 0, 0x02),
    (f.rnd = 3 ∨ outKind f.ofmt ≠ rowKind f.row, 0x03),
    (f.order = 3 ∨ (f.order = 1 ∧ f.ofmt ∉ [1, 2, 3, 4, 9, 10]) ∨ ((f.order = 2 ∨ f.second = true) ∧ f.ofmt ≠ 1 ∧ f.ofmt ≠ 2) ∨
      (f.second = true ∧ f.order = 0), 0x04),
    (f.ta = true ∧ f.row ≠ 1 ∧ md = false, 0x05),
    (f.t < f.split ∨ f.col0 % f.split ≠ 0 ∨ f.ncols % f.split ≠ 0, 0x06),
    (32 < f.row0 + f.nrows ∨ 32 < f.col0 + f.ncols, 0x07),
    (regionRows rs3 &&& (mask ^^^ 0xFFFFFFFF) ≠ 0, 0x07),
    (f.groups < f.q, 0x08),
    (f.single = false ∧ (md = true ∨ f.drain = false ∨ f.acc = true), 0x09),
    ((md = true ∨ f.acc = true) ∧ f.kindsMatch t = false, 0x03),
    (((f.bias = true ∨ f.clamp = true) ∧ f.ofmt = 5) ∨ (f.stride = true ∧ f.order ≠ 0), 0x0B),
    ((∃ e ∈ f.operands md, granSize < e.2) ∨ (f.usesEpi = true ∧ granSize < f.eoff * 32 + 32) ∨ (¬ depends ∧ granSize < y.2), 0x0A),
    (¬ depends ∧ ∃ e ∈ f.operands md, overlaps y e = true, 0x0A),
    (rs1 / 2 ^ 54 ≠ 0 ∨ rs3 / 2 ^ 59 ≠ 0, 0x01) ]

/-- The clerk executes its current command and replies to it with `a`: before the reply only the clerk and the parts listed changed. -/
def Answers (i : Instr) (c : ClerkCmd) (st : State) (a : Ans) (ps : List Piece) (P : Hw → Prop) : Prop :=
  ∃ h, exec i st = .next { st with hw := h.reply c a } ∧ h.clerk.cur = none ∧ Hw.onlyChanges (.clerk :: ps) st.hw.fresh h ∧ P h

/-- The clerk executes its current command in the background (15 R352): it is done with a status, or goes on. -/
def Runs (i : Instr) (c : ClerkCmd) (st : State) (done : Option Nat) (P : Hw → Prop) : Prop :=
  Does i st fun h => h.clerk.cur = none ∧
    (∃ b ∈ h.clerk.bg, b.id = c.id ∧ b.rcd = c.rcd ∧ ∀ s, done = some s → b.ready = true ∧ b.status = s) ∧ P h

/-- The clerk's commands by opcode, and by an argument where one opcode has several rows (15 Table 15-5); `ok`, `n`, `u` and `a` are the
rows' own operands. -/
def clerkRows (ok : Bool) (n : Nat) (ns us : List Nat) : List (Nat × Option (Nat × Nat) × Instr) :=
  [(0x0001, none, .idGet), (0x0002, none, .attest), (0x0003, none, .certGet), (0x0101, none, .ctxCreate), (0x0102, none, .ctxDestroy),
    (0x0103, none, .ctxStatus), (0x0104, none, .ctxHint), (0x0201, none, .winSet), (0x0202, none, .winRevoke), (0x0203, none, .winGet),
    (0x0301, none, .qCreate), (0x0302, none, .qDestroy), (0x0303, none, .qQuery), (0x0304, none, .qRestart), (0x0305, none, .qpCreate),
    (0x0306, none, .qpClose), (0x0401, none, .modelReg), (0x0402, none, .modelUnreg), (0x0403, none, .modelStatus), (0x0404, none, .modelClear),
    (0x0501, none, .bellArm), (0x0502, none, .bellDisarm), (0x0601, none, .opPref), (0x0602, none, .powerCap), (0x0603, none, .fallowEnter)] ++
  [(0x0604, none, .fallowExit n), (0x0701, none, .obsSelect), (0x0702, some (20, 0), .chronCtrlStop), (0x0702, some (20, 1), .chronCtrlStart),
    (0x0702, some (20, 2), .chronCtrlConfigure), (0x0703, none, .censusTake), (0x0704, none, .titheCtrl), (0x0705, none, .gaugeCtrl),
    (0x0801, none, .errRead), (0x0802, none, .errAck), (0x0901, none, .ckptExport), (0x0A01, none, .stackOffline),
    (0x0A02, none, .stackOnline ok), (0x0A03, some (22, 0), .stackTestPatrol ns us), (0x0A03, some (22, 1), .stackTestMarch ns us),
    (0x0A04, none, .stackRepair n ok), (0x0B01, none, .leaseSet), (0x0B02, none, .leaseRenew), (0x0C01, some (20, 0), .resetModule),
    (0x0C01, some (20, 1), .resetHost), (0x0C01, some (20, 2), .resetFallow), (0x0C01, some (20, 3), .resetTile),
    (0x0D01, none, .patchList), (0x0D02, none, .patchInstall ok), (0x0D03, none, .patchErase ok), (0x0E01, none, .mbScope),
    (0x0E02, none, .mgmtScope)]

end Sys2Proof.Machine
end

