-- ==== Sys2Proof/Certificates/Slice0/Obligations.lean ====
section
/-!
DEFINITION. Obligations.lean: what is claimed of the module. Each docstring names the rule of spec/ it formalises, and where a
clause is the model's own choice, the entry of notes/assumptions/ that says so.
-/
open Sys2Proof Sys2Proof.Machine

/-! ## The queue, completion, the error ring -/

/-- The first command waiting is the one that runs, on the module with the rest of the queue (notes/assumptions/1). -/
def Obligations.StepRunsTheFrontCommand : Prop :=
  ∀ (c : Instr) (rest : List Instr) (s : State), s.pending = c :: rest → step s = exec c (s.withPending rest)

/-- With no command waiting a nanosecond of the local clock passes and the queue stays empty (notes/assumptions/1): bell time counts
one nanosecond with RATE zero and no slew in progress (13 R312), a stream of a tile under the thermal hold ages no nearer to its
watchdog (04 R111, 09 R219) and any other stream is as it was, and unless a RESET that was asked for is due nothing else changes but
the bell book, its counters and the retransmit timers that a closed class or a link down stops (12 R279, R298). While the module is kept
in reset only the watchman's clock goes on (21 R472). -/
def Obligations.IdleStepLetsTimePass : Prop :=
  ∀ s : State, s.pending = [] →
    ∃ t, step s = .next t ∧ t.pending = [] ∧ t.ident = s.ident ∧
      (s.hw.boot.resetAt = [] → t.err = s.err ∧ t.hw.localNs = s.hw.localNs + 1 ∧
        (s.hw.inReset = true → Hw.onlyChanges [.localNs] s.hw.fresh t.hw) ∧
        (s.hw.inReset = false → s.hw.bell.slew = 0 → s.hw.regF (bellReg 0x20) 0 32 = 0 → s.hw.bell.frac < 2 ^ 48 → t.hw.bellNs = s.hw.bellNs + 1) ∧
        (∀ g k, s.hw.held g = false → t.hw.stream g k = s.hw.stream g k) ∧
        (∀ g k, s.hw.inReset = false → s.hw.held g = true → (s.hw.stream g k).st = .running →
          t.hw.stream g k = { s.hw.stream g k with progress := (s.hw.stream g k).progress + 1 }) ∧
        Hw.onlyChanges [.localNs, .bellNs, .bell, .regs, .tiles, .fab] s.hw.fresh t.hw)

/-- Every command answers a next state, keeps the module's identity and the queue, and the error ring but for the commands that
bring, read or acknowledge records, the scrub that may damage a slot and the ones that may reset the module. -/
def Obligations.EveryCommandCompletes : Prop :=
  ∀ (c : Instr) (s : State),
    ∃ t, exec c s = .next t ∧ t.ident = s.ident ∧ t.pending = s.pending ∧ (usesRing c = false → t.err = s.err)

/-- The error ring's promise (18 R410, R412) is kept by every step, in whatever state it is taken. -/
def Obligations.EveryStepKeepsTheErrorRingSound : Prop :=
  ∀ s t : State, s.err.Sound → step s = .next t → t.err.Sound

/-- The error ring's promise (18 R410, R412) holds of the module at reset (20 R445). -/
def Obligations.ErrorRingSoundAtReset : Prop := State.reset.err.Sound

/-- Registers after power-on read the values of their tables' Reset columns (00 R11): TILE.MODE, TILE.MASK_INIT[0] and [1],
TILE.WDOG (04 Tables 04-16, 04-20, 04-21), CELLAR.CFG (09 Table 09-9), REEVE.ROLL_CFG (10 Table 10-6), CARTER.CC_CFG,
CARTER.RELY_CFG, CARTER.FC_GATE (12 Tables 12-17 to 12-19), CLERK.ERR_SEQ (18 Table 18-7), BELL.NOW (13 Table 13-3). -/
def Obligations.RegistersReadTheirResetValues : Prop :=
  ∀ hart < 64, ∀ e ∈ [(0x20100008, 1), (0x201000E0, 0xFFFF), (0x201000E8, 0xFFFF0000), (0x20100100, 0x103E8),
      (0x20040000, 0xC), (0x200000, 1), (0x1000200, 0x100480108001388), (0x1000208, 0x64003C04006401F4), (0x1000220, 0xFF),
      (0x140010, 1), (0x400000, 0)],
    ∃ t, exec (.readClear hart e.1 8) State.reset = .next t ∧ t.hw.resp = .value (BitVec.ofNat 64 e.2)

/-- A record that reaches the collector repeats an unread one of its source, and only counts there (R411); or finds the ring full,
and is counted as lost (R412); or takes the next SEQ and a slot at the end of the ring (R410). A teardown's record follows the record
of the fault that caused it (R411). ERR_READ returns the oldest records
of the ring and marks them read; ERR_ACK removes the read ones up to a SEQ, and refuses one not yet given out (18 R413). The rest of
the ring stands. -/
def Obligations.ErrorRecordsAreKeptReadAndAcknowledged : Prop :=
  (∀ (src : Nat) (s : State) (r : ErrRec) (rest : List ErrRec), takeRec src s.hw.errOut = some (r, rest) →
    (s.hw.awaiting r = true → Nothing (.errorRecordArrival src) s) ∧
    (s.hw.awaiting r = false → ∃ t, exec (.errorRecordArrival src) s = .next t ∧ t.hw.errOut.length = rest.length ∧
      ((∀ x ∈ rest, x.awaits = none) → t.hw.errOut = rest) ∧ t.hw.memS = s.hw.memS ∧ t.hw.tiles = s.hw.tiles ∧
      (match s.err.repeats r with
        | some n => t.err.next = s.err.next ∧ t.err.overN = s.err.overN ∧ t.err.recs = s.err.recs.map (fun x =>
            if x.seq = n then { x with rcd := { x.rcd with rep := min (x.rcd.rep + 1) 0xFFFF } } else x)
        | none =>
          if 4096 ≤ s.err.recs.length then
            t.err.next = s.err.next ∧ t.err.recs = s.err.recs ∧ t.err.overN = min (s.err.overN + 1) 0xFFFFFFFF
          else
            t.err.next = s.err.next + 1 ∧ t.err.recs = s.err.recs ++ [⟨s.err.next, r, false, false⟩] ∧
              t.err.overN = s.err.overN))) ∧
  (∀ (c : ClerkCmd) (st : State), st.hw.clerk.cur = some c →
    (cOp c.rcd = 0x0801 → let n := recN c.rcd 20 2
      ∀ a, (st.hw.fresh.payAddr st.ident c rWrite (64 * n)) = .ok a →
      ∃ t, exec .errRead st = .next t ∧ t.err.next = st.err.next ∧ t.err.overN = st.err.overN ∧
        t.err.recs = (st.err.recs.take n).map (fun x => { x with read := true }) ++ st.err.recs.drop n ∧
        (t.hw.mbox c.box).last = 0 ∧ t.hw.clerk.cur = none) ∧
    (cOp c.rcd = 0x0802 → let n := recN c.rcd 24 8
      ∃ t, exec .errAck st = .next t ∧ t.err.next = st.err.next ∧ t.hw.clerk.cur = none ∧ t.hw.memS = st.hw.memS ∧
        (n < st.err.next → t.err.recs = st.err.recs.filter (fun x => !(x.read && decide (x.seq ≤ n))) ∧ (t.hw.mbox c.box).last = 0) ∧
        (st.err.next ≤ n → t.err.recs = st.err.recs ∧ (t.hw.mbox c.box).last = 3)))

/-! ## Register accesses -/

/-- An access to a register block of a width other than 4 or 8 bytes, or not aligned to its width (00 R10), and an access to an
address of the register ranges that lies in no block (09 R202), reach no register: the hart takes an access fault, and a record of
class 0x02 naming the address and the hart is on its way. Nothing else changes. -/
def Obligations.AccessesThatReachNoRegisterFault : Prop :=
  ∀ (hart a width : Nat) (v : Word) (s : State),
    (a < 0x40000000 ∧ locReg a = .hole ∨ (∃ b i off, locReg a = .reg b i off) ∧ ¬ ((width = 4 ∨ width = 8) ∧ a % width = 0)) →
    ∀ c, c = Instr.readClear hart a width ∨ c = Instr.registerWrite hart a width v →
      ∃ r : ErrRec, r.cls = 0x02 ∧ r.addr = some a ∧ r.source = srcHart hart ∧
        Does c s fun h => h.resp = .fault ∧ h.errOut = s.hw.errOut ++ [r] ∧ Hw.onlyChanges [.resp, .errOut] s.hw.fresh h

/-- A 64-bit read of GRAN.TAG_EVICT, GRAN.ECC or UPD.NONFINITE, whose fields are all RC, answers what it holds and leaves it zero
(00 Table 00-4, 06 Tables 06-5, 06-7, 07 Table 07-11); reserved bits read zero (R12). Nothing but that register changes. A write of
TILE.WDOG, whose fields are Boundary, waits in the shadow: what is in force stands, a read returns the value written, and a second
write replaces it (00 R15, 16 R391). A write of VEC.RNG_SEED, an Idle register, takes effect while every stream of the tile is idle:
the tile's lane generators start anew from it (05 R133). -/
def Obligations.RegisterFieldsFollowTheirAttributes : Prop :=
  (∀ (hart g : Nat) (s : State), g < 80 → s.hw.dieUp (g / 10) = true →
    ∀ e ∈ [(0xC80, 2 ^ 32 - 1), (0xCC0, 2 ^ 48 - 1), (0xD20, 2 ^ 64 - 1)],
      Does (.readClear hart (tileReg g e.1) 8) s fun h =>
        h.resp = .value (BitVec.ofNat 64 (s.hw.reg (tileReg g e.1) &&& e.2)) ∧
        h.reg (tileReg g e.1) &&& e.2 = 0 ∧ (∀ pa, pa ≠ tileReg g e.1 → h.reg pa = s.hw.reg pa) ∧
        Hw.onlyChanges [.resp, .regs] s.hw.fresh h) ∧
  (∀ (hart g : Nat) (v : Word) (s : State), g < 80 → s.hw.dieUp (g / 10) = true → s.hw.present s.ident g = true →
    s.hw.accelHeld = false → Does (.registerWrite hart (tileReg g 0x100) 8 v) s fun h =>
      (∀ pa, h.reg pa = s.hw.reg pa) ∧ h.resp = .done ∧ Hw.onlyChanges [.shadow, .resp, .regs] s.hw.fresh h ∧
      Does (.readClear hart (tileReg g 0x100) 8) { s with hw := h } fun u =>
        u.resp = .value (BitVec.ofNat 64 (v.toNat &&& 0x1FFFF))) ∧
  (∀ (hart g : Nat) (v : Word) (s : State), s.hw.present s.ident g = true → s.hw.accelHeld = false →
    (∀ k < 3, (s.hw.stream g k).st = .idle) →
    ∃ t, exec (.vecRngSeedWrite hart g v) s = .next t ∧ (t.hw.tile g).rngSeed = v ∧ (t.hw.tile g).rngN = 0 ∧
      t.hw.reg (tileReg g 0x700) = v.toNat ∧ (∀ pa, pa ≠ tileReg g 0x700 → t.hw.reg pa = s.hw.reg pa) ∧
      (∀ u, u ≠ g → t.hw.tile u = s.hw.tile u) ∧ Hw.onlyChanges [.tiles, .regs] s.hw.fresh t.hw)

/-! ## Tiles: tokens, streams, queues (04) -/

/-- Each of a tile's tokens is a 16-bit counting semaphore: a signal adds its count; a consuming wait stalls until the token is at least its
count and then subtracts it; a peek wait stalls likewise and subtracts nothing; a count of 0 acts as 1 (R89). A wait met by the same
token in the order of R90 comes before this one. TWAIT and TSIG move their stream on by their four bytes, a stalled wait is tested again
and released once it is met, and no other token changes. A signal that passes 65,535 leaves the token there and faults its stream with
cause 0x07 (R91). A register write to TILE.TOKEN replaces the token (R90); an absent tile, or one held in reset (notes/assumptions/90),
takes no write. A sync word's wait and signal do the same at a queued command's head and end (R92), shown on TNOP, which ends as it
dispatches. -/
def Obligations.TokensAreCountingSemaphores : Prop :=
  (∀ (g tok v : Nat) (s : State), tok < 64 →
    (s.hw.present s.ident g = true → s.hw.accelHeld = false → Does (.tokenWrite g tok v) s fun h =>
      (h.tile g).token tok = v % 65536 ∧ (∀ j, j ≠ tok → (h.tile g).token j = (s.hw.tile g).token j) ∧
        (∀ k, h.stream g k = s.hw.stream g k) ∧ (∀ u, u ≠ g → h.tile u = s.hw.tile u) ∧ Hw.onlyChanges [.tiles] s.hw.fresh h) ∧
    (s.hw.present s.ident g = false ∨ s.hw.accelHeld = true → Nothing (.tokenWrite g tok v) s)) ∧
  (∀ (g s rs1 rs2 : Nat) (st : State), s < 3 → st.hw.mayIssue g s [rs1, rs2] = true →
    let x := st.hw.stream g s
    let tok := x.tokOf rs1
    let cnt := x.cntOf rs2
    let v := (st.hw.tile g).token tok
    let moved (h : Hw) : Prop := (h.stream g s).pc = (x.pc + 4) % 2 ^ 64 ∧ (h.stream g s).x = x.x ∧
      (∀ j, j ≠ tok → (h.tile g).token j = (st.hw.tile g).token j) ∧ (∀ u, u ≠ g → h.tile u = st.hw.tile u)
    (cnt ≤ v → st.hw.earlierWait g s tok false = false →
      (Does (.twaitConsume g s rs1 rs2) st fun h => moved h ∧ (h.tile g).token tok = v - cnt ∧ (h.stream g s).twait = none ∧
        Hw.onlyChanges [.tiles, .chron] st.hw.fresh h) ∧
      (Does (.twaitPeek g s rs1 rs2) st fun h => moved h ∧ (h.tile g).token tok = v ∧ (h.stream g s).twait = none ∧
        Hw.onlyChanges [.tiles, .chron] st.hw.fresh h)) ∧
    (v < cnt ∨ st.hw.earlierWait g s tok false = true →
      (Does (.twaitConsume g s rs1 rs2) st fun h => moved h ∧ (h.tile g).token tok = v ∧
        (h.stream g s).twait = some (tok, cnt, false) ∧ Hw.onlyChanges [.tiles] st.hw.fresh h) ∧
      (Does (.twaitPeek g s rs1 rs2) st fun h => moved h ∧ (h.tile g).token tok = v ∧
        (h.stream g s).twait = some (tok, cnt, true) ∧ Hw.onlyChanges [.tiles] st.hw.fresh h)) ∧
    (v + cnt ≤ 65535 → Does (.tsig g s rs1 rs2) st fun h => moved h ∧ (h.tile g).token tok = v + cnt ∧
      (h.stream g s).st = x.st ∧ Hw.onlyChanges [.tiles, .regs] st.hw.fresh h) ∧
    (65535 < v + cnt → (st.hw.tile g).faulted = false → Does (.tsig g s rs1 rs2) st fun h => moved h ∧
      (h.tile g).token tok = 65535 ∧ (h.stream g s).st = .faulted ∧ (h.stream g s).cause = 0x07 ∧ (h.stream g s).faultPc = x.pc)) ∧
  (∀ (g s : Nat) (st : State),
    ((st.hw.stream g s).twait = none → Nothing (.twaitRelease g s) st) ∧
    (∀ tok cnt peek, (st.hw.stream g s).twait = some (tok, cnt, peek) →
      (cnt ≤ (st.hw.tile g).token tok → st.hw.earlierWait g s tok false = false → Does (.twaitRelease g s) st fun h =>
        (h.tile g).token tok = (st.hw.tile g).token tok - (if peek then 0 else cnt) ∧
          (∀ j, j ≠ tok → (h.tile g).token j = (st.hw.tile g).token j) ∧ (∀ u, u ≠ g → h.tile u = st.hw.tile u) ∧
          h.stream g s = { st.hw.stream g s with twait := none } ∧ Hw.onlyChanges [.tiles, .chron] st.hw.fresh h) ∧
      ((st.hw.tile g).token tok < cnt ∨ st.hw.earlierWait g s tok false = true → Does (.twaitRelease g s) st fun h =>
        h.stream g s = st.hw.stream g s ∧ (∀ j, (h.tile g).token j = (st.hw.tile g).token j) ∧
          Hw.onlyChanges [.tiles] st.hw.fresh h))) ∧
  (∀ (g s : Nat) (c : QCmd) (rest : List QCmd) (st : State), s < 3 → (st.hw.stream g s).queue = c :: rest → c.op = .tnop →
    (syWen c.sync = true → syWCnt c.sync ≤ (st.hw.tile g).token (syWTok c.sync) ∧ st.hw.earlierWait g s (syWTok c.sync) true = false) →
    let v (k : Nat) : Nat := (st.hw.tile g).token k -
      (if syWen c.sync = true ∧ syWKeep c.sync = false ∧ k = syWTok c.sync then syWCnt c.sync else 0)
    (sySen c.sync = true → syRemote c.sync = false → v (sySTok c.sync) + sySCnt c.sync ≤ 65535) →
    Does (.tnop g s .run) st fun h => (h.stream g s).queue = rest ∧ h.liveCmd g s c.seq = none ∧
      (∀ k, (h.tile g).token k = if sySen c.sync = true ∧ syRemote c.sync = false ∧ k = sySTok c.sync then
        v k + sySCnt c.sync else v k) ∧
      h.rsig = st.hw.rsig ++ (if sySen c.sync = true ∧ syRemote c.sync = true then
        [⟨g, s, c.pc, (st.hw.res g).ctx, sySGT c.sync, sySTok c.sync, sySCnt c.sync⟩] else []))

/-- TSIG to another tile puts a signal on the mesh, moves its stream on and leaves every token (R91, R96). When the signal arrives at a tile
of its context that is not swapping, it is added there, up to 65,535 (R91); at a tile that swaps it waits (16 R479); elsewhere it is
refused: no token changes and the signalling stream faults with cause 0x08 (R91). That a refusal or an overflow met after the signalling
tile has left the signal's context changes no stream and is only recorded is the model's reading (notes/assumptions/8). -/
def Obligations.RemoteSignalIsAddedOrFaultsItsSender : Prop :=
  (∀ (g s rs1 rs2 rs3 : Nat) (st : State), s < 3 → st.hw.mayIssue g s [rs1, rs2, rs3] = true →
    let x := st.hw.stream g s
    Does (.tsigRemote g s rs1 rs2 rs3) st fun h =>
      h.rsig = st.hw.rsig ++ [⟨g, s, x.pc, (st.hw.res g).ctx, fld (x.getX rs3).toNat 0 7, x.tokOf rs1, x.cntOf rs2⟩] ∧
      (h.stream g s).pc = (x.pc + 4) % 2 ^ 64 ∧ (h.stream g s).x = x.x ∧ (∀ u k, (h.tile u).token k = (st.hw.tile u).token k) ∧
      Hw.onlyChanges [.tiles, .rsig] st.hw.fresh h) ∧
  (∀ (src dst : Nat) (r : RemoteSig) (rest : List RemoteSig) (st : State), src < 80 → takeSig src dst st.hw.rsig = some (r, rest) →
    (st.hw.present st.ident dst = true → st.hw.swapping dst = true → Nothing (.remoteTokenSignal src dst) st) ∧
    (st.hw.present st.ident dst = true → st.hw.swapping dst = false → st.hw.tileCtx dst = some r.ctx →
      Does (.remoteTokenSignal src dst) st fun h =>
        h.rsig = rest ∧ (h.tile dst).token r.token = min ((st.hw.tile dst).token r.token + r.count) 65535 ∧
          (∀ u k, u ≠ dst ∨ k ≠ r.token → (h.tile u).token k = (st.hw.tile u).token k) ∧
          (65535 < (st.hw.tile dst).token r.token + r.count → st.hw.tileCtx src ≠ some r.ctx →
            (∀ u k, h.stream u k = st.hw.stream u k) ∧ h.errOut.length = st.hw.errOut.length + 1)) ∧
    ((st.hw.present st.ident dst = true → st.hw.swapping dst = false ∧ st.hw.tileCtx dst ≠ some r.ctx) →
      (st.hw.tileCtx src = some r.ctx → (st.hw.tile src).faulted = false → r.stream < 3 →
        Does (.remoteTokenSignal src dst) st fun h => h.rsig = rest ∧ (h.stream src r.stream).st = .faulted ∧
          (h.stream src r.stream).cause = 0x08 ∧ (h.stream src r.stream).faultPc = r.pc ∧
          (∀ u k, (h.tile u).token k = (st.hw.tile u).token k)) ∧
      (st.hw.tileCtx src ≠ some r.ctx → Does (.remoteTokenSignal src dst) st fun h => h.rsig = rest ∧
        h.tiles = st.hw.tiles ∧ h.errOut.length = st.hw.errOut.length + 1)))

/-- START of an idle stream (R81): it runs from ENTRY with nothing queued, issued or retired, its registers kept; with its rows free it
holds MASK_INIT, else it waits for them (R94). A START to a stream that is not idle is ignored, and so is one to an absent tile or, by
the model's choice (notes/assumptions/90), to the accelerator side while it is held in reset (01 R27). A START that waited for rows is
granted its whole mask once they are free, and never part of it (R94). STOP (R83): no stream of the tile has a command queued or waits
for a token or for its end; one that ran is stopping, or idle; the others keep their state. Nothing but this tile changes. -/
def Obligations.StreamsStartAndStop : Prop :=
  (∀ (g s : Nat) (st : State), s < 3 → (st.hw.stream g s).startReq = true →
    let x := st.hw.stream g s
    (st.hw.rowsFree g s x.request = true → Does (.streamStartGranted g s) st fun h => (h.stream g s).granted = x.request ∧
      (h.stream g s).startReq = false ∧ (h.stream g s).st = x.st ∧ (h.stream g s).pc = x.pc ∧
      (∀ k, k ≠ s → h.stream g k = st.hw.stream g k) ∧ (∀ u, u ≠ g → h.tile u = st.hw.tile u) ∧
      Hw.onlyChanges [.tiles, .chron] st.hw.fresh h) ∧
    (st.hw.rowsFree g s x.request = false → Nothing (.streamStartGranted g s) st)) ∧
  (∀ (g s : Nat) (st : State), s < 3 →
    let x := st.hw.stream g s
    let mask := st.hw.regF (tileReg g (0xE0 + 8 * s)) 0 32
    let started (h : Hw) (granted : Nat) (waits : Bool) : Prop := let y := h.stream g s
      y.st = .running ∧ y.pc = st.hw.regF (tileReg g (0x40 + 8 * s)) 1 47 * 2 ∧ y.x = x.x ∧ y.queue = [] ∧ y.live = [] ∧
        y.issued = 0 ∧ y.retired = 0 ∧ y.cause = 0 ∧ y.detail = 0 ∧ y.notsup = false ∧ y.q = 0 ∧ y.instret = 0 ∧
        y.granted = granted ∧ y.startReq = waits ∧
        (∀ k, k ≠ s → h.stream g k = st.hw.stream g k) ∧ (∀ u, u ≠ g → h.tile u = st.hw.tile u)
    (st.hw.present st.ident g = true → st.hw.accelHeld = false → x.st = .idle →
      (st.hw.rowsFree g s mask = true → Does (.streamStart g s) st fun h => started h mask false ∧
        Hw.onlyChanges [.tiles, .regs, .chron] st.hw.fresh h) ∧
      (st.hw.rowsFree g s mask = false → Does (.streamStart g s) st fun h => started h 0 true ∧
        Hw.onlyChanges [.tiles, .regs, .chron] st.hw.fresh h)) ∧
    (st.hw.present st.ident g = false ∨ st.hw.accelHeld = true ∨ x.st ≠ .idle → Nothing (.streamStart g s) st)) ∧
  (∀ (g : Nat) (st : State), st.hw.present st.ident g = true →
    Does (.tileStop g) st fun h => (∀ k < 3, (h.stream g k).queue = [] ∧ (h.stream g k).twait = none ∧ (h.stream g k).tend = false ∧
        (h.stream g k).startReq = false ∧
        ((st.hw.stream g k).st = .running → (h.stream g k).st = .stopping ∨ (h.stream g k).st = .idle) ∧
        ((st.hw.stream g k).st ≠ .running → (h.stream g k).st = (st.hw.stream g k).st)) ∧
      (∀ j, (h.tile g).token j = (st.hw.tile g).token j) ∧
      (∀ u, u ≠ g → h.tile u = st.hw.tile u) ∧ Hw.onlyChanges [.tiles] st.hw.fresh h)

/-- GFENCE, TNOP, TSTEP, TALLOC, and a CART whose operands pass 06 R145's checks, are queued as R84 says. So is a vector command with a
32-byte-aligned descriptor that lies in the granary, and no summary register on a scatter (05 R116), and an update command (07 R164).
One that fails those checks faults its stream with cause 0x02 and reason 0x0D. -/
def Obligations.CommandsAreQueuedInOrder : Prop :=
  (∀ (g s rs1 rs2 rs3 sy : Nat) (st : State), s < 3 →
    let x := st.hw.stream g s
    Issues (.gfence g s sy) g s [] sy .gfence st ∧
    Issues (.tnop g s (.issue rs1 rs2 rs3 sy)) g s [] sy .tnop st ∧
    Issues (.tstep g s (.issue rs1 rs2 rs3 sy)) g s [rs1] sy (.tstep (x.getX rs1)) st ∧
    Issues (.talloc g s rs1 sy) g s [rs1] sy (.talloc (fld (x.getX rs1).toNat 0 32)) st ∧
    ((x.getX rs1).toNat < 2 ^ 23 → (x.getX rs1).toNat % 32 = 0 → (x.getX rs1).toNat ≤ 0x5FFFE0 → (x.getX rs2).toNat < 8 →
      Issues (.cart g s rs1 rs2 sy) g s [rs1, rs2] sy (.cart (x.getX rs1).toNat (x.getX rs2).toNat) st)) ∧
  (∀ (g s rs1 rs2 rs3 sy : Nat) (st : State), s < 3 →
    let x := st.hw.stream g s
    let a := (x.getX rs1).toNat
    let b := (x.getX rs2).toNat
    (∀ e ∈ vectorRows g s rs1 rs2 rs3 sy,
      (a % 32 = 0 → a ≤ granSize - 160 → (rs3 % 32 = 0 ∨ e.1 ≠ 3 ∨ e.2.1 = 0) →
        Issues e.2.2 g s [rs1, rs2, rs3] sy (.vec e.1 e.2.1 a (fld b 0 32) (fld b 32 32) (rs3 % 32)) st) ∧
      (st.hw.mayIssue g s [sy, rs1, rs2, rs3] = true → (x.getX sy).toNat < 2 ^ 39 → (st.hw.tile g).faulted = false →
        a % 32 ≠ 0 ∨ granSize - 160 < a ∨ (rs3 % 32 ≠ 0 ∧ e.1 = 3 ∧ e.2.1 ≠ 0) → FaultsWith e.2.2 g s 0x02 0x0D x.pc st)) ∧
    (a % 32 = 0 → a ≤ granSize - 128 →
      Issues (.update g s rs1 rs2 rs3 sy) g s [rs1, rs2, rs3] sy (.update a (fld b 0 32) (fld b 32 32) (rs3 % 32)) st) ∧
    (st.hw.mayIssue g s [sy, rs1, rs2, rs3] = true → (x.getX sy).toNat < 2 ^ 39 → (st.hw.tile g).faulted = false →
      a % 32 ≠ 0 ∨ granSize - 128 < a → FaultsWith (.update g s rs1 rs2 rs3 sy) g s 0x02 0x0D x.pc st))

/-- MMA and MDRAIN go through the issue checks of R109 in its order, after the sync word's: one that passes them all is queued as R84
says, and the first that fails gives the reason its stream faults with. -/
def Obligations.MatrixCommandsAreCheckedAtIssue : Prop :=
  ∀ (g s rs1 rs2 rs3 sy : Nat) (st : State), s < 3 →
    let x := st.hw.stream g s
    let a := x.getX rs1
    let b := x.getX rs2
    let c := x.getX rs3
    let checks := issueChecks (st.hw.tile g) x.request a.toNat b.toNat c.toNat
    ((∀ e ∈ checks false, ¬ e.1) → Issues (.mma g s rs1 rs2 rs3 sy) g s [rs1, rs2, rs3] sy (.mma a b c) st) ∧
    ((∀ e ∈ checks true, ¬ e.1) → Issues (.mdrain g s rs1 rs2 rs3 sy) g s [rs1, rs2, rs3] sy (.mdrain a b c) st) ∧
    (st.hw.mayIssue g s [sy, rs1, rs2, rs3] = true → (x.getX sy).toNat < 2 ^ 39 → (st.hw.tile g).faulted = false →
      ∀ md pre e post, checks md = pre ++ e :: post → (∀ e' ∈ pre, ¬ e'.1) → e.1 →
        FaultsWith (if md then .mdrain g s rs1 rs2 rs3 sy else .mma g s rs1 rs2 rs3 sy) g s 0x02 e.2 x.pc st)

/-- A CART is rejected at issue with reason 0x0D when rs1 [63:23] is non-zero, or rs1 [22:0] is no multiple of 32 or exceeds
0x5F_FFE0, or rs2 [63:3] is non-zero. With ANY = 1 it dispatches to the lowest-numbered cart that is idle when it is the queue head,
or waits with wait reason 0x04 when none is; with ANY = 0 it waits for the cart named (06 R145). -/
def Obligations.CartIssueChecksAndCartChoice : Prop :=
  (∀ (g s rs1 rs2 sy : Nat) (st : State), s < 3 → st.hw.mayIssue g s [sy, rs1, rs2] = true → (st.hw.tile g).faulted = false →
    let x := st.hw.stream g s
    let a := (x.getX rs1).toNat
    (x.getX sy).toNat < 2 ^ 39 → (a / 2 ^ 23 ≠ 0 ∨ a % 2 ^ 23 % 32 ≠ 0 ∨ 0x5FFFE0 < a % 2 ^ 23 ∨ (x.getX rs2).toNat / 8 ≠ 0) →
    FaultsWith (.cart g s rs1 rs2 sy) g s 0x02 0x0D x.pc st) ∧
  (∀ (t : Tile) (sel : Nat), sel < 8 →
    (4 ≤ sel → ∀ i, t.cartFor sel = some i ↔ i < 4 ∧ (t.cart i).busy = false ∧ ∀ j < i, (t.cart j).busy = true) ∧
    (sel < 4 → t.cartFor sel = if (t.cart sel).busy then none else some sel)) ∧
  (∀ (g s : Nat) (c : QCmd) (rest : List QCmd) (off sel : Nat) (st : State), s < 3 → (st.hw.stream g s).queue = c :: rest →
    c.op = .cart off sel → syWen c.sync = false →
    let x := st.hw.stream g s
    ((st.hw.tile g).cartFor sel = none → Nothing (.commandDispatch g s) st ∧
      (x.st = .running → x.startReq = false → x.twait = none → x.full = false → x.stall = [] → st.hw.waitOf g s = (4, 0))) ∧
    (∀ i d b, (st.hw.tile g).cartFor sel = some i → st.hw.granRead g off 32 = .ok d → cartDescOk d = true →
      st.hw.cartBase st.ident g d = some b → Does (.commandDispatch g s) st fun h => (h.stream g s).queue = rest ∧
        ((h.tile g).cart i).busy = true ∧ ((h.tile g).cart i).stream = s ∧ ((h.tile g).cart i).seq = c.seq ∧
        ((h.tile g).cart i).desc = d ∧ ∀ j, j ≠ i → (h.tile g).cart j = (st.hw.tile g).cart j))

/-- A queue head that waits for no token and signals none dispatches when its unit takes it (R85): TALLOC once its rows are free and its
earlier array commands on rows it gives up are complete, when it holds its new mask (R93); TSTEP sets the stream's step and returns its
custom-1 count to zero (R96, 05 R135); TNOP does neither. Each leaves the queue and ends. A command whose consuming or peek wait is not
satisfied, or whose token an earlier wait of R90's order takes, does not dispatch (R85, R90, R92). GFENCE completes once every earlier
command of its stream has completed, and not before (R96, R87); where one of them has ended faulted, it ends faulted once they have all
ended (notes/assumptions/94). An array command whose K-steps and drains are all done, a CART whose last piece is home, a vector command
that has run and an update whose last sheaf is committed complete: the unit is free, a vector command's summary and an update's count of
non-finite values stand in the register named, which is pending no more, and the sync word's signal is added to its token or goes onto
the mesh (R87, R91, R110). Until then COMMAND_COMPLETE does nothing. -/
def Obligations.QueueHeadsDispatchWhenTheyMay : Prop :=
  (∀ (g s : Nat) (c : QCmd) (rest : List QCmd) (st : State), s < 3 → (st.hw.stream g s).queue = c :: rest →
    syWen c.sync = false → sySen c.sync = false →
    (∀ m, c.op = .talloc m → ∀ i, i = Instr.tallocGrant g s ∨ i = Instr.commandDispatch g s →
      ((st.hw.tile g).tallocOk s m = true →
        Does i st fun h => (h.stream g s).queue = rest ∧ (h.stream g s).granted = m ∧
          h.liveCmd g s c.seq = none) ∧
      ((st.hw.tile g).tallocOk s m = false → Nothing i st)) ∧
    (∀ v, c.op = .tstep v → Does (.tstep g s .run) st fun h => (h.stream g s).queue = rest ∧
      (h.stream g s).step = v ∧ (h.stream g s).q = 0 ∧ h.liveCmd g s c.seq = none) ∧
    (c.op = .tnop → Does (.tnop g s .run) st fun h => (h.stream g s).queue = rest ∧
      (h.stream g s).step = (st.hw.stream g s).step ∧ (h.stream g s).granted = (st.hw.stream g s).granted ∧
      h.liveCmd g s c.seq = none)) ∧
  (∀ (g s : Nat) (c : QCmd) (rest : List QCmd) (st : State), (st.hw.stream g s).queue = c :: rest → syWen c.sync = true →
    (st.hw.tile g).token (syWTok c.sync) < syWCnt c.sync ∨ st.hw.earlierWait g s (syWTok c.sync) true = true →
    ∀ i, i = Instr.commandDispatch g s ∨ i = Instr.tallocGrant g s ∨ i = Instr.tstep g s .run ∨ i = Instr.tnop g s .run →
      Nothing i st) ∧
  (∀ (g s : Nat) (c : QCmd) (st : State), s < 3 → st.hw.liveCmd g s c.seq = some c → c.op = .gfence → sySen c.sync = false →
    ∀ i, i = Instr.gfenceComplete g s c.seq ∨ i = Instr.commandComplete g s c.seq →
      (c.seq ≤ (st.hw.stream g s).retired →
        Does i st fun h => h.liveCmd g s c.seq = none ∧
          ((st.hw.stream g s).failedBefore c.seq = true → (h.stream g s).failedBefore (c.seq + 1) = true ∧ h.chron = st.hw.chron) ∧
          Hw.onlyChanges [.tiles, .regs, .chron] st.hw.fresh h) ∧
      ((st.hw.stream g s).retired < c.seq → Nothing i st)) ∧
  (∀ (g s : Nat) (c : QCmd) (st : State), s < 3 → st.hw.liveCmd g s c.seq = some c →
    let t := st.hw.tile g
    let x := st.hw.stream g s
    (sySen c.sync = true → syRemote c.sync = false → t.token (sySTok c.sync) + sySCnt c.sync ≤ 65535) →
    let ends (sum : Option Word) (P : Tile → Prop) : Prop := Does (.commandComplete g s c.seq) st fun h =>
      h.liveCmd g s c.seq = none ∧ (h.stream g s).pend = x.pend.erase c.op.rd ∧ P (h.tile g) ∧
        (h.stream g s).x = (match sum with
          | some v => (x.setX c.op.rd v).x
          | none => x.x) ∧
        (∀ k, (h.tile g).token k = t.token k +
          if sySen c.sync = true ∧ syRemote c.sync = false ∧ k = sySTok c.sync then sySCnt c.sync else 0) ∧
        h.rsig = st.hw.rsig ++ (if sySen c.sync = true ∧ syRemote c.sync = true then
          [⟨g, s, c.pc, (st.hw.res g).ctx, sySGT c.sync, sySTok c.sync, sySCnt c.sync⟩] else []) ∧
        (∀ u, u ≠ g → h.tile u = st.hw.tile u) ∧ Hw.onlyChanges [.tiles, .regs, .chron, .rsig] st.hw.fresh h
    ((∃ r1 r2 r3, c.op = .mma r1 r2 r3 ∨ c.op = .mdrain r1 r2 r3) →
      ∀ a, t.arr.find? (fun a => a.stream == s && a.seq == c.seq) = some a →
        (a.done = true → ends none fun t' => t'.arr = t.arr.filter (fun a => !(a.stream == s && a.seq == c.seq))) ∧
        (a.done = false → Nothing (.commandComplete g s c.seq) st)) ∧
    (∀ off sel i, c.op = .cart off sel → i < 4 → (t.cart i).busy = true → (t.cart i).stream = s → (t.cart i).seq = c.seq →
      (∀ j < 4, (t.cart j).busy = true → (t.cart j).stream = s → (t.cart j).seq = c.seq → j = i) →
      ((t.cart i).done = true → ends none fun t' => t'.cart i = { t.cart i with busy := false } ∧ ∀ j, j ≠ i → t'.cart j = t.cart j) ∧
      ((t.cart i).done = false → Nothing (.commandComplete g s c.seq) st)) ∧
    (∀ f3 f2 off al be rd r, c.op = .vec f3 f2 off al be rd → t.vec = some r → r.stream = s → r.seq = c.seq →
      (r.done = true → ends (some r.sum) fun t' => t'.vec = none) ∧
      (r.done = false → Nothing (.commandComplete g s c.seq) st)) ∧
    (∀ off al be rd u, c.op = .update off al be rd → t.upd = some u → u.stream = s → u.seq = c.seq →
      (u.finished = true → ends (some (BitVec.ofNat 64 u.nonfin)) fun t' => t'.upd = none) ∧
      (u.finished = false → Nothing (.commandComplete g s c.seq) st)))

/-- TEND moves its stream on and makes it wait; the stream becomes idle when every command it issued has retired, and not before (R82).
The watchdog (R111): a running stream of a tile under no thermal hold that has made no progress for LIMIT µs faults with cause 0x09
(CENSUS = 0); before that, with LIMIT = 0, or under the hold, nothing happens. -/
def Obligations.StreamsEndOrExpire : Prop :=
  (∀ (g s : Nat) (st : State), s < 3 →
    let x := st.hw.stream g s
    (st.hw.mayIssue g s [] = true → Does (.tend g s) st fun h => (h.stream g s).tend = true ∧ (h.stream g s).st = x.st ∧
      (h.stream g s).pc = (x.pc + 4) % 2 ^ 64 ∧ (∀ k, k ≠ s → h.stream g k = st.hw.stream g k) ∧
      (∀ u, u ≠ g → h.tile u = st.hw.tile u) ∧ Hw.onlyChanges [.tiles] st.hw.fresh h) ∧
    (x.tend = false ∨ x.retired ≠ x.issued → Nothing (.tendRetire g s) st) ∧
    (x.tend = true → x.retired = x.issued → Does (.tendRetire g s) st fun h => h.stream g s = { x with st := .idle, tend := false } ∧
      (∀ k, k ≠ s → h.stream g k = st.hw.stream g k) ∧ (∀ u, u ≠ g → h.tile u = st.hw.tile u) ∧
      Hw.onlyChanges [.tiles, .chron, .compl, .work, .resid] st.hw.fresh h)) ∧
  (∀ (g s : Nat) (st : State), s < 3 → st.hw.present st.ident g = true → (st.hw.stream g s).st = .running → st.hw.obs.census = none →
    let lim := st.hw.regF (tileReg g 0x100) 0 16
    (lim = 0 ∨ st.hw.held g = true ∨ st.hw.localNs < (st.hw.stream g s).progress + lim * 1000 →
      Nothing (.watchdogExpiry g s) st) ∧
    (lim ≠ 0 → st.hw.held g = false → (st.hw.stream g s).progress + lim * 1000 ≤ st.hw.localNs →
      st.hw.regF (tileReg g 0x100) 16 1 = 0 → (st.hw.tile g).faulted = false →
      Does (.watchdogExpiry g s) st fun h => (h.stream g s).st = .faulted ∧
        (h.stream g s).cause = 0x09 ∧ (h.stream g s).faultPc = (st.hw.stream g s).pc ∧
        (∀ k < 3, k ≠ s → (h.stream g k).st ≠ .running) ∧ (∀ u, u ≠ g → h.tile u = st.hw.tile u)))

/-- An instruction that a stream in its turn fetches runs as RV64IMC says (R80): a computation writes its result, a jump or a taken
branch sets the pc, the others move past their bytes; x0 takes nothing; a word that decodes to no instruction faults the stream with
cause 0x01. CSRRS and CSRRSI of time and instret read bell time and the retired count; the cycle count is a free value (R478,
notes/assumptions/6), and FENCE.I only retires. A load writes what its access reads, and a misaligned access or one its window does not
allow faults with cause 0x06 or 0x05 (R80, 16 R375); that the misalignment is met before the window check is the model's reading
(notes/assumptions/33). An instruction that names a pending register stalls (R110), and a stream
without its turn issues nothing (R80). -/
def Obligations.StreamInstructionsRun : Prop :=
  (∀ (g s : Nat) (st : State) (b : List Byte) (h₀ : Hw), s < 3 → st.hw.mayIssue g s [] = true →
    st.hw.fresh.fetchInstr st.ident g (st.hw.stream g s).pc = (.ok b, h₀) → h₀.tiles = st.hw.tiles →
    let x := st.hw.stream g s
    let i := if b.length = 2 then decode16 (leNat b) else decode32 (leNat b)
    let next : Nat := (x.pc + b.length) % 2 ^ 64
    let link : Word := BitVec.ofNat 64 (x.pc + b.length)
    let jump (a : Word) : Nat := a.toNat / 2 * 2
    let here : Word := BitVec.ofNat 64 x.pc
    let runs (regs : List Nat) (pc rd : Nat) (v : Word) : Prop := st.hw.mayIssue g s regs = true → rd < 32 →
      Does (.streamInstruction g s) st fun h => (h.stream g s).pc = pc ∧
        (∀ r < 32, (h.stream g s).getX r = if r = rd ∧ r ≠ 0 then v else x.getX r) ∧
        (∀ k, k ≠ s → h.stream g k = st.hw.stream g k) ∧ (∀ u, u ≠ g → h.tile u = st.hw.tile u)
    (∀ rd v, i = some (.lui rd v) → runs [rd] next rd v) ∧
    (∀ rd v, i = some (.auipc rd v) → runs [rd] next rd (here + v)) ∧
    (∀ rd off, i = some (.jal rd off) → runs [rd] (jump (here + off)) rd link) ∧
    (∀ rd rs1 off, i = some (.jalr rd rs1 off) → runs [rd, rs1] (jump (x.getX rs1 + off)) rd link) ∧
    (∀ f3 rs1 rs2 off, i = some (.branch f3 rs1 rs2 off) →
      runs [rs1, rs2] (if branchTaken f3 (x.getX rs1) (x.getX rs2) then jump (here + off) else next) 0 0) ∧
    (∀ op w32 rd rs1 v, i = some (.imm op w32 rd rs1 v) → runs [rd, rs1] next rd (op.run w32 (x.getX rs1) v)) ∧
    (∀ op w32 rd rs1 rs2, i = some (.reg op w32 rd rs1 rs2) →
      runs [rd, rs1, rs2] next rd (op.run w32 (x.getX rs1) (x.getX rs2))) ∧
    (i = some .fence ∨ i = some .fenceI → runs [] next 0 0) ∧
    (∀ f3 rd rs1 off, i = some (.load f3 rd rs1 off) →
      let a := (x.getX rs1 + off).toNat
      (∀ pa d h₁, a % loadSize f3 = 0 → h₀.ctxAddr g rRead a (loadSize f3) = some pa →
        h₀.coreLoad st.ident g rRead pa (loadSize f3) = (.ok d, h₁) → h₁.tiles = st.hw.tiles →
        runs [rd, rs1] next rd (loadValue f3 d)) ∧
      (st.hw.mayIssue g s [rd, rs1] = true → (st.hw.tile g).faulted = false →
        (a % loadSize f3 ≠ 0 → FaultsWith (.streamInstruction g s) g s 0x06 0 x.pc st) ∧
        (a % loadSize f3 = 0 → h₀.ctxAddr g rRead a (loadSize f3) = none → FaultsWith (.streamInstruction g s) g s 0x05 0 x.pc st))) ∧
    (∀ f3 rs1 rs2 off, i = some (.store f3 rs1 rs2 off) →
      let a := (x.getX rs1 + off).toNat
      (∀ pa d h₁, a % loadSize f3 = 0 → h₀.ctxAddr g rWrite a (loadSize f3) = some pa →
        h₀.coreStore st.ident g pa (toLE (loadSize f3) (x.getX rs2).toNat) = (.ok d, h₁) → h₁.tiles = st.hw.tiles →
        st.hw.mayIssue g s [rs1, rs2] = true →
        Does (.streamInstruction g s) st fun h => h.memS = h₁.memS ∧ (h.stream g s).pc = next ∧ (h.stream g s).x = x.x) ∧
      (st.hw.mayIssue g s [rs1, rs2] = true → (st.hw.tile g).faulted = false →
        (a % loadSize f3 ≠ 0 → FaultsWith (.streamInstruction g s) g s 0x06 0 x.pc st) ∧
        (a % loadSize f3 = 0 → h₀.ctxAddr g rWrite a (loadSize f3) = none → FaultsWith (.streamInstruction g s) g s 0x05 0 x.pc st))) ∧
    (i = none → (st.hw.tile g).faulted = false → FaultsWith (.streamInstruction g s) g s 0x01 0 x.pc st)) ∧
  (∀ (g s rd : Nat) (st : State), s < 3 → rd < 32 → rd ≠ 0 → st.hw.mayIssue g s [rd] = true →
    let x := st.hw.stream g s
    (Does (.csrCounterRead g s rd 0xC01) st fun h => (h.stream g s).getX rd = BitVec.ofNat 64 st.hw.bellNs ∧ Hw.onlyChanges [.tiles] st.hw.fresh h) ∧
    (Does (.csrCounterRead g s rd 0xC02) st fun h => (h.stream g s).getX rd = BitVec.ofNat 64 x.instret ∧ Hw.onlyChanges [.tiles] st.hw.fresh h) ∧
    (Does (.csrCounterRead g s 0 0xC00) st fun h => (∀ r < 32, (h.stream g s).getX r = x.getX r) ∧ Hw.onlyChanges [.tiles, .free] st.hw.fresh h) ∧
    (Does (.fenceI g s) st fun h => (h.stream g s).pc = (x.pc + 4) % 2 ^ 64 ∧
      (h.stream g s).instret = (x.instret + 1) % 2 ^ 64 ∧ (∀ r < 32, (h.stream g s).getX r = x.getX r) ∧
      Hw.onlyChanges [.tiles] st.hw.fresh h)) ∧
  (∀ (g s rs1 rs2 rs3 sy : Nat) (st : State), s < 3 →
    ∀ e ∈ [([sy, rs1, rs2, rs3], Instr.mma g s rs1 rs2 rs3 sy), ([sy, rs1, rs2, rs3], .mdrain g s rs1 rs2 rs3 sy),
        ([sy, rs1, rs2], .cart g s rs1 rs2 sy), ([sy, rs1], .talloc g s rs1 sy), ([sy], .gfence g s sy),
        ([sy, rs1], .tstep g s (.issue rs1 rs2 rs3 sy)), ([sy], .tnop g s (.issue rs1 rs2 rs3 sy)),
        ([rs1, rs2], .twaitConsume g s rs1 rs2), ([rs1, rs2], .twaitPeek g s rs1 rs2), ([rs1, rs2], .tsig g s rs1 rs2),
        ([rs1, rs2, rs3], .tsigRemote g s rs1 rs2 rs3), ([], .tend g s), ([sy, rs1, rs2, rs3], .update g s rs1 rs2 rs3 sy),
        ([rs1], .csrCounterRead g s rs1 0xC01), ([], .fenceI g s)] ++
        (vectorRows g s rs1 rs2 rs3 sy).map (fun e => ([sy, rs1, rs2, rs3], e.2.2)),
      Stalls e.2 g s e.1 st ∧ (st.hw.mayIssue g s [] = false → Nothing e.2 st))

/-! ## The engines of a tile (02, 05, 06, 07) -/

/-- A pen load delivers the next pen block that the cores of its destination set want to their loading planes and leaves the planes
that feed the cells (02 R35, R36, R38); while one of those planes holds a completed block not yet swapped in it does not happen (R36).
A trough fill delivers the next chunk they want to a trough entry and sets its valid bit, and the other entries stay (R37). A K-step
whose chunk is valid accumulates in its slot (R30 to R41): it reuses the active plane that holds its block, or swaps in the loading
plane that does (R35), and waits for its block, its chunk, a drain owed before it and the thermal hold (R35, R37, R44, R53). A leader
that owes a drain whose K-steps have all issued, with no uncorrectable word among the entries it reads, drains it:
its drain count and the command's count of drains on it rise by one (02 R43, R48), and where the command ends with no tithe to write, the
granary holds the tile's outputs, combined, biased, rounded and clamped, at the command's output address in its order, and a second time in
the other order where it asks for that (02 R45 to R49). While such a K-step is still to come it does not
(R44). A core that an uncorrectable error has stopped takes no part (R55). Which chunk and block a core wants next, and the reuse of a
plane, are the model's sequencer (notes/assumptions/9); that a load, a fill or a drain may begin under the thermal hold is its choice
(notes/assumptions/73), and so is that a drain reads the whole bias vector (notes/assumptions/93). -/
def Obligations.ArrayOperationsMoveOperands : Prop :=
  (∀ (g s r0 nr rstep c0 nc cstep e : Nat) (st : State),
    let t := st.hw.tile g
    let cs := destCores r0 nr rstep c0 nc cstep
    ((∃ m ∈ cs, (t.core m).loaded = true ∨ (t.core m).halted = true) → Nothing (.penLoad g s r0 nr rstep c0 nc cstep) st) ∧
    (∀ a k d, destOk r0 nr rstep c0 nc cstep = true → t.nextPen s (r0 * 32 + c0) = some (a, k) →
      (∀ m ∈ cs, (t.core m).loaded = false ∧ (t.core m).halted = false ∧ ∃ k', t.nextPen s m = some (a, k') ∧ k'.i = k.i ∧ k'.q = k.q) →
      let n := penBytes a.f.afmt
      st.hw.granRead g (a.f.penAt k.i k.q) (n + if isMx a.f.afmt then 32 else 0) = .ok d →
      Does (.penLoad g s r0 nr rstep c0 nc cstep) st fun h =>
        (∀ m ∈ cs, ((h.tile g).core m).loaded = true ∧ ((h.tile g).core m).act = (t.core m).act ∧
          ((h.tile g).core m).load = ⟨if a.f.ta then transpose16 (d.take n) else d.take n, d.drop n, some (a.penId k)⟩) ∧
        (∀ m, m ∉ cs → (h.tile g).core m = t.core m) ∧ (∀ u, u ≠ g → h.tile u = st.hw.tile u) ∧
        h.memS.mem.cells = st.hw.memS.mem.cells ∧ Hw.onlyChanges [.tiles, .regs, .memS] st.hw.fresh h) ∧
    ((∃ m ∈ cs, t.nextFill s m = none ∨ (t.core m).halted = true) → Nothing (.troughFill g s e r0 nr rstep c0 nc cstep) st) ∧
    (∀ a k d, destOk r0 nr rstep c0 nc cstep = true → e < 16 → t.nextFill s (r0 * 32 + c0) = some (a, k) →
      (∀ m ∈ cs, (t.core m).halted = false ∧ ∃ k', t.nextFill s m = some (a, k') ∧ k'.j = k.j ∧ k'.q = k.q) →
      let n := chunkBytes a.f.bfmt
      st.hw.granRead g (a.f.chunkAt k.j k.q) (n + if isMx a.f.bfmt then 32 else 0) = .ok d →
      Does (.troughFill g s e r0 nr rstep c0 nc cstep) st fun h =>
        (∀ m ∈ cs, let y := (h.tile g).core m
          SMap.get false y.valid e = true ∧ SMap.get .empty y.trough e = ⟨d.take n, d.drop n, some (a.chunkId k)⟩ ∧
            (∀ i, i ≠ e → SMap.get .empty y.trough i = SMap.get .empty (t.core m).trough i ∧
              SMap.get false y.valid i = SMap.get false (t.core m).valid i)) ∧
        (∀ m, m ∉ cs → (h.tile g).core m = t.core m) ∧ (∀ u, u ≠ g → h.tile u = st.hw.tile u) ∧
        h.memS.mem.cells = st.hw.memS.mem.cells ∧ Hw.onlyChanges [.tiles, .regs, .memS] st.hw.fresh h)) ∧
  (∀ (g s c : Nat) (a : ArrayCmd) (k : KStep) (st : State),
    let t := st.hw.tile g
    let x := t.core c
    nextStep t.arr s c = some (a, k) →
    let reuse := x.act.id = some (a.penId k)
    (x.entryOf (a.chunkId k) = none ∨ (¬ reuse ∧ (x.loaded = false ∨ x.load.id ≠ some (a.penId k))) ∨ st.hw.held g = true ∨
      x.halted = true ∨ slotOwed t.arr a c k.wave = true → Nothing (.kStep g s c) st) ∧
    (∀ e, x.entryOf (a.chunkId k) = some e → reuse ∨ (x.loaded = true ∧ x.load.id = some (a.penId k)) → st.hw.held g = false →
      x.halted = false → slotOwed t.arr a c k.wave = false → x.bad = [] →
      Does (.kStep g s c) st fun h =>
        let y := (h.tile g).core c
        let slot := a.f.slot k.wave
        (reuse → y.act = x.act ∧ y.load = x.load ∧ y.loaded = x.loaded) ∧
          (¬ reuse → y.act = x.load ∧ y.load = { x.act with id := none } ∧ y.loaded = false) ∧
          (y.slot slot = (slotStep a.f k (k.first && !a.f.acc)
            (if x.act.id = some (a.penId k) then x.act else x.load) (SMap.get .empty x.trough e) (x.slot slot)).1 ∧
            ∀ sl, sl ≠ slot → y.slot sl = x.slot sl) ∧
          y.trough = x.trough ∧ y.valid = x.valid ∧ y.drains = x.drains ∧ (∀ m, m ≠ c → (h.tile g).core m = t.core m) ∧
          (∀ u, u ≠ g → h.tile u = st.hw.tile u) ∧ Hw.onlyChanges [.tiles, .regs] st.hw.fresh h)) ∧
  (∀ (g s c : Nat) (a : ArrayCmd) (gr m i j : Nat) (st : State),
    let t := st.hw.tile g
    let wave := SMap.get 0 a.drains c
    nextDrain t.arr s c = some a → a.f.groupOf c = some (gr, m) → (a.f.tilesOf gr)[wave]? = some (i, j) →
    (drainReady t.arr a gr wave = false ∨ (∃ m ∈ a.f.members gr, (t.core m).halted = true) → Nothing (.slotDrain g s c) st) ∧
    (∀ bias, drainReady t.arr a gr wave = true →
      (∀ m ∈ a.f.members gr, (t.core m).halted = false ∧ (t.core m).bad.any (a.f.slotWord i j (a.f.slot wave)) = false) →
      (if a.f.bias then st.hw.granRead g (epiBias a.epi) (4 * a.f.n) else .ok []) = .ok bias →
      let h₀ := st.hw.fresh
      Does (.slotDrain g s c) st fun h => ((h.tile g).core c).drains = (t.core c).drains + 1 ∧
        (a.tithe = [] → h.memS = (drainWrite g a i j (h₀.drainRes g c a gr i j bias)
          (if a.f.bias then h₀.granFix g (epiBias a.epi) (4 * a.f.n) else h₀)).memS) ∧
        (∃ b ∈ (h.tile g).arr, b.stream = a.stream ∧ b.seq = a.seq ∧ SMap.get 0 b.drains c = wave + 1) ∧
        (∀ u, u ≠ g → h.tile u = st.hw.tile u) ∧ Hw.onlyChanges [.tiles, .memS, .regs, .free, .tithe] st.hw.fresh h))

/-- A drain reads a slot and leaves its contents unchanged (02 R43): after SLOT_DRAIN every slot of every core of every tile has the
entries and the kind it had, and the bytes of every plane and trough entry stand. -/
def Obligations.DrainLeavesSlotContents : Prop :=
  ∀ (g s c : Nat) (st : State), Does (.slotDrain g s c) st fun h =>
    ∀ u m sl, (((h.tile u).core m).slot sl).ent = (((st.hw.tile u).core m).slot sl).ent ∧
      (((h.tile u).core m).slot sl).kind = (((st.hw.tile u).core m).slot sl).kind ∧
      ((h.tile u).core m).act.data = ((st.hw.tile u).core m).act.data ∧
      ((h.tile u).core m).load.data = ((st.hw.tile u).core m).load.data ∧
      (SMap.get .empty ((h.tile u).core m).trough sl).data = (SMap.get .empty ((st.hw.tile u).core m).trough sl).data

/-- A vector command on its engine runs to its end (05 R122 to R136): with no uncorrectable word in memory it is done, its results in place
and its summary formed; else it is done, or its stream has met one and the engine is free (R139). The results: VMAP, VRED, the macros,
VGATHER and VRAND write at each point of the output the exact result there, converted to the output format (R122 to R124, R127, R129 to
R131, R136), the norms their statistics before (R130); VSCATTER and VSCATADD write or add to the table entries their indices name
(R131); VMXPACK writes its blocks (R132). The summary is SUMKIND's over the elements written in order (R128). It changes memory,
counters, the free values it draws and its own tile, and no other tile; a turn given to a command that is not on the engine changes
nothing. A write of VEC.RNG_SEED reseeds the lane generators while every stream of the tile is idle; while one is not, a seed that
differs is refused with a config-while-busy record and the seed in force stands (05 R133, 00 R15). -/
def Obligations.VectorCommandsRunFromTheirSeed : Prop :=
  (∀ (g s : Nat) (st : State), ∀ e ∈ vectorTurns g s,
    (st.hw.vecCur g e.1 e.2.1 = none → Nothing e.2.2 st) ∧
    (∀ r, st.hw.vecCur g e.1 e.2.1 = some r → st.hw.memS.mem.bad = [] → Does e.2.2 st fun h =>
      (∃ x, (h.tile g).vec = some { r with done := true, sum := x }) ∧ (∀ k, h.stream g k = st.hw.stream g k) ∧
        (h.tile g).tok = (st.hw.tile g).tok ∧ (h.tile g).cores = (st.hw.tile g).cores ∧ (∀ u, u ≠ g → h.tile u = st.hw.tile u) ∧
        Hw.onlyChanges [.memS, .regs, .free, .tiles] st.hw.fresh h) ∧
    (∀ r, st.hw.vecCur g e.1 e.2.1 = some r → Does e.2.2 st fun h =>
      ((h.tile g).vec = none ∨ ∃ x, (h.tile g).vec = some { r with done := true, sum := x }) ∧
        (∀ u, u ≠ g → h.tile u = st.hw.tile u) ∧
        Hw.onlyChanges ([.memS, .regs, .free, .models] ++ faultParts) st.hw.fresh h)) ∧
  (∀ (g s : Nat) (r : VecRun) (st : State), st.hw.memS.mem.bad = [] →
    let h₀ := st.hw.fresh
    let d := r.desc
    let out := VStr.of d 3
    let done (c : Instr) (ws : List (Nat × Nat × Nat)) (sum : Word) : Prop := Does c st fun h =>
      h.memS = ((h₀.vecFix g r).vecStore g ws).memS ∧ (h.tile g).vec = some { r with done := true, sum := sum }
    let each (c : Instr) (pre : List (Nat × Nat × Nat)) (i : Nat × Nat × Nat × Nat) (n : Nat) (int : Bool) (v : Nat → VRes × Bool) : Prop :=
      let enc (e : Nat) : Nat := (h₀.vecElem g r int e (v e).1).1
      done c (pre ++ (List.range n).map (fun e => (out.bit i e, vecW out.fmt, enc e)))
        (vecSummary (vhSum d) out.fmt (vecVal out.fmt) ((List.range n).map enc))
    (∀ v, st.hw.vecCur g 0 0 = some r → let n := prod4 (vecExt 0 0 d)
      (∀ e < n, vmapAt h₀ g r e = .ok (v e)) → each (.vmap g s .run) [] (vecExt 0 0 d) n (vmapInt d) v) ∧
    (∀ v, st.hw.vecCur g 1 0 = some r → let n := lineCount (vecExt 1 0 d) (vhDim d)
      (∀ k < n, vredAt h₀ g r k = .ok (v k)) → each (.vred g s .run) [] (vredExt d) n (vredInt d) v) ∧
    (∀ f2 c v left, (f2, c) ∈ [(0, Instr.vsoftmax g s .run), (1, .vlnorm g s .run), (2, .vrmsnorm g s .run)] →
      st.hw.vecCur g 2 f2 = some r → let i := vecExt 2 f2 d
      (∀ k < lineCount i (vhDim d), macroLine h₀ g f2 r k = .ok (left k)) →
      (∀ k, lineCount i (vhDim d) ≤ k → left k = (0, 0)) →
      (∀ e < prod4 i, macroAt h₀ g f2 r left e = .ok (v e)) → each c (macroStats f2 r left) i (prod4 i) false v) ∧
    (∀ v, st.hw.vecCur g 3 0 = some r → let n := prod4 (vecExt 3 0 d)
      (∀ e < n, vgatherAt h₀ g r e = .ok (v e)) → each (.vgather g s .run) [] (vecExt 3 0 d) n (vgatherInt d) v) ∧
    (∀ f2 c v, (f2, c) ∈ [(0, Instr.vrandUniform g s .run), (1, .vrandNormal g s .run), (2, .vrandBernoulli g s .run)] →
      st.hw.vecCur g 4 f2 = some r → let n := prod4 (vecExt 4 f2 d)
      (∀ e < n, vrandAt h₀ g f2 r e = .ok (v e)) → each c [] (vecExt 4 f2 d) n false v) ∧
    (∀ (w : Nat → List (Nat × Nat × Nat)) (sat oor : Nat → Bool), st.hw.vecCur g 3 1 = some r → let n := prod4 (vecExt 3 1 d)
      (∀ e < n, vscatterAt h₀ g r e = .ok (w e, none, sat e, oor e)) →
        done (.vscatter g s .run) ((List.range n).flatMap w) 0) ∧
    (∀ h₁ oor, st.hw.vecCur g 3 2 = some r → let n := prod4 (vecExt 3 2 d)
      scatAdd g (vecExt 3 2 d) (VStr.of d 0) (VStr.of d 1) out (List.range n) h₀ false = (h₁, oor, none) →
        Does (.vscatadd g s .run) st fun h => h.memS = (h₁.vecFix g r).memS ∧ (h.tile g).vec = some { r with done := true, sum := 0 }) ∧
    (∀ f2 c w, (f2, c) ∈ [(0, Instr.vmxpackPen g s .run), (1, .vmxpackChunk g s .run)] → st.hw.vecCur g 5 f2 = some r →
      (∀ b < vmxBlocks f2 d, vmxBlock h₀ g f2 r b = .ok (w b, none, false, false)) →
        done c ((List.range (vmxBlocks f2 d)).flatMap w) (vmxSum d (vmxEls h₀ g f2 r)))) ∧
  (∀ (hart g : Nat) (v : Word) (st : State), st.hw.present st.ident g = true → st.hw.accelHeld = false →
    ((∀ k < 3, (st.hw.stream g k).st = .idle) →
      Does (.vecRngSeedWrite hart g v) st fun h => (h.tile g).rngSeed = v ∧ (h.tile g).rngN = 0 ∧
        h.reg (tileReg g 0x700) = v.toNat ∧ Hw.onlyChanges [.tiles, .regs] st.hw.fresh h) ∧
    ((∃ k < 3, (st.hw.stream g k).st ≠ .idle) → v.toNat ≠ st.hw.reg (tileReg g 0x700) →
      ∃ r : ErrRec, r.cls = 0x01 ∧ r.addr = some (tileReg g 0x700) ∧
        Does (.vecRngSeedWrite hart g v) st fun h => h.errOut = st.hw.errOut ++ [r] ∧ Hw.onlyChanges [.errOut] st.hw.fresh h))

/-- An outstanding piece of a cart is performed: the bytes of a GET or PULL, once read, stand in the granary, those of a PUT or PUSH are
written where they go, and the cart, whose context stays active where it uses a window, has one piece less remaining (06 R148; shown
with no other transaction open on a line). A piece that its cart does not have outstanding completes
nothing; nor does one whose far tile is swapping, which waits (16 R479). -/
def Obligations.OutstandingPiecesComplete : Prop :=
  ∀ (g i n : Nat) (st : State),
    let x := (st.hw.tile g).cart i
    let hint := if cdRemote x.desc then 0 else cdHint x.desc
    (x.busy = false ∨ x.out.contains n = false ∨ (cdRemote x.desc = true ∧ st.hw.swapping (cdTile x.desc) = true) →
      Nothing (.cartPieceComplete g i n) st) ∧
    (∀ off far len, x.busy = true → x.out.contains n = true → x.stop = 0 →
      (cdRemote x.desc = true → st.hw.swapping (cdTile x.desc) = false ∧ st.hw.present st.ident (cdTile x.desc) = true ∧
        st.hw.tileCtx (cdTile x.desc) = some x.ctx) →
      cartPiece x.desc x.base n = some (off, far, len) → st.hw.settled = true →
      let uses (h₁ : Hw) : Prop := cdRemote x.desc = true ∨ h₁.ctxActive x.ctx = true
      let moved (h : Hw) : Prop := ((h.tile g).cart i).remain = x.remain - 1 ∧
        (∀ k, k ≠ i → (h.tile g).cart k = (st.hw.tile g).cart k) ∧ (∀ k, h.stream g k = st.hw.stream g k) ∧
        (∀ u, u ≠ g → h.tile u = st.hw.tile u) ∧ Hw.onlyChanges (.tiles :: memoryParts) st.hw.fresh h
      (∀ b h₁, x.op = 0 ∨ x.op = 3 → st.hw.fresh.ncRead st.ident hint far len = (.ok b, h₁) → uses h₁ →
        Does (.cartPieceComplete g i n) st fun h => moved h ∧ h.memS.mem.bytes (granBase g + off) b.length = b) ∧
      (∀ b h₁, x.op ≠ 0 → x.op ≠ 3 → st.hw.granRead g off len = .ok b →
        (st.hw.fresh.granFix g off len).ncWrite st.ident hint false far b = (none, h₁) → uses h₁ →
        Does (.cartPieceComplete g i n) st fun h => moved h ∧ h.memS = h₁.memS))

/-- The granary window (06 R156): an aligned store of 1 to 64 bytes to the populated 6 MiB of a tile that is there puts its bytes there and
no byte elsewhere, unless the tile is held in reset, when no byte changes (notes/assumptions/90); a load answers the bytes; an access to
the other 2 MiB, or to an absent tile's window, answers an access fault and writes a record naming the address, and no byte changes. -/
def Obligations.GranaryWindowStoresAndLoads : Prop :=
  ∀ (hart g off size : Nat) (b : List Byte) (st : State), g < 80 → off < 0x800000 → size ∈ [1, 2, 4, 8, 16, 32, 64] →
    off % size = 0 → b.length = size →
    let a := granBase g + off
    (off < granSize → st.hw.present st.ident g = true →
      (st.hw.accelHeld = true → Does (.granaryWindowAccess hart a size (some b)) st fun h => h.resp = .done ∧
        Hw.onlyChanges [.resp] st.hw.fresh h) ∧
      (st.hw.accelHeld = false → Does (.granaryWindowAccess hart a size (some b)) st fun h => h.resp = .done ∧
        h.memS.mem.bytes a size = b ∧ (∀ x, x < a ∨ a + size ≤ x → h.memS.mem.byte x = st.hw.memS.mem.byte x) ∧
        Hw.onlyChanges [.memS, .regs, .resp] st.hw.fresh h) ∧
      (st.hw.memS.mem.firstBad 8 a size = none →
        Does (.granaryWindowAccess hart a size none) st fun h =>
          h.resp = .bytes (st.hw.memS.mem.bytes a size) ∧ h.memS.mem.cells = st.hw.memS.mem.cells ∧
            Hw.onlyChanges [.memS, .regs, .resp] st.hw.fresh h)) ∧
    (granSize ≤ off ∨ st.hw.present st.ident g = false →
      ∀ o, ∃ r : ErrRec, r.cls = 0x02 ∧ r.addr = some a ∧ Does (.granaryWindowAccess hart a size o) st fun h => h.resp = .fault ∧
        h.errOut = st.hw.errOut ++ [r] ∧ Hw.onlyChanges [.errOut, .resp] st.hw.fresh h)

/-- The update writes a sheaf in five phases, each once the one before is done (07 R170): a phase's turn without a sheaf in the phase before
it changes nothing; with one whose writes go, the sheaf moves on one phase, and after the commit its record is DONE and its slot empty.
The next sheaf's turn journals it: its planes go to its slot's body (R170). A sheaf whose stamp equals the step is skipped (R169); a
restored record is written FREE in its turn, counted and recorded, and recovery goes on with the next open one (R173). -/
def Obligations.UpdatePhasesFollowInOrder : Prop :=
  ∀ (g j : Nat) (st : State),
    (∀ e ∈ [(1, Instr.updateOpenRecord g j), (2, .updateWriteMoments g j), (3, .updateWriteWeights g j), (4, .updateCommit g j)],
      st.hw.openSheaf g j e.1 = none → Nothing e.2 st) ∧
    (∀ u w h₁, st.hw.openSheaf g j 1 = some (u, w) →
      Hw.writeLine st.ident st.hw.fresh
        { u with line := clSet u.line j w.sheaf recOpen (udPlanes u.desc) (udCompact u.desc && udUsesM u.desc) u.step.toNat } =
          (.ok (), h₁) →
      Does (.updateOpenRecord g j) st fun h => (h.openSheaf g j 2).map (·.2.sheaf) = some w.sheaf ∧ h.memS = h₁.memS) ∧
    (∀ u w h₁, st.hw.openSheaf g j 2 = some (u, w) →
      Hw.updWrites st.ident u
        ((if udUsesM u.desc then [(udM u.desc + 1024 * mBytes (udCompact u.desc) * w.sheaf, (updSheaf u.desc u.step w).m)] else []) ++
          (if udUsesV u.desc then [(udV u.desc + 4096 * w.sheaf, (updSheaf u.desc u.step w).v)] else [])) st.hw.fresh = (.ok (), h₁) →
      Does (.updateWriteMoments g j) st fun h => (h.openSheaf g j 3).map (·.2.sheaf) = some w.sheaf ∧ h.memS = h₁.memS) ∧
    (∀ u w h₁, st.hw.openSheaf g j 3 = some (u, w) →
      Hw.updWrites st.ident u [(udHigh u.desc + 2048 * w.sheaf, (updSheaf u.desc u.step w).hi),
        (udLow u.desc + 2048 * w.sheaf, (updSheaf u.desc u.step w).lo)] st.hw.fresh = (.ok (), h₁) →
      Does (.updateWriteWeights g j) st fun h => (h.openSheaf g j 4).map (·.2.sheaf) = some w.sheaf ∧ h.memS = h₁.memS) ∧
    (∀ u w h₁ h₂, st.hw.openSheaf g j 4 = some (u, w) → u.stop = 0 →
      st.hw.fresh.updWrite st.ident u (udStamp u.desc + 8 * w.sheaf) (toLE 8 u.step.toNat) = (.ok (), h₁) →
      h₁.writeLine st.ident { u with line := clSetState u.line j recDone, opens := SMap.del u.opens j } = (.ok (), h₂) →
      Does (.updateCommit g j) st fun h => (h.tile g).upd.map (·.line) = some (clSetState u.line j recDone) ∧
        (∀ p, h.openSheaf g j p = none) ∧ h.memS = h₂.memS) ∧
    (∀ u, (st.hw.tile g).upd = some u →
      (u.restore.head? ≠ some j → Nothing (.tallyRestoreFree g j) st) ∧
      (∀ rest h₁, u.restore = j :: rest →
        let v : UpdRun := { u with line := clSetState u.line j recFree, restore := [] }
        st.hw.fresh.writeLine st.ident v = (.ok (), h₁) →
        let h₂ := (h₁.bump (tileReg g 0xD10) 0 32 1).err 0x0A 0 (srcOf (g / 10) 4 (g % 10)) (some u.ctx) none
          [(40, 4, udShard u.desc), (44, 4, clSheaf u.line j), (48, 8, clStep u.line j)]
        (rest = [] → Does (.tallyRestoreFree g j) st fun h => (h.tile g).upd = some v ∧ h.memS = h₁.memS ∧
          h.regF (tileReg g 0xD10) 0 32 = min (h₁.regF (tileReg g 0xD10) 0 32 + 1) 0xFFFFFFFF ∧
          ∃ r : ErrRec, r.cls = 0x0A ∧ r.ctx = some u.ctx ∧ h.errOut = h₁.errOut ++ [r]) ∧
        (∀ w h₃, Hw.recover st.ident g rest v h₂ = .ok (w, h₃) →
          Does (.tallyRestoreFree g j) st fun h => (h.tile g).upd = some w ∧ h.memS = h₃.memS ∧ h.errOut = h₃.errOut)) ∧
      (u.stop ≠ 0 ∨ u.restore ≠ [] ∨ u.first + u.count ≤ u.next ∨ clState u.line (u.next % 4) = recOpen →
        Nothing (.updateSheafStart g) st) ∧
      (∀ b h₁, u.stop = 0 → u.restore = [] → u.next < u.first + u.count → clState u.line (u.next % 4) ≠ recOpen →
        SMap.get none u.opens (u.next % 4) = none →
        st.hw.fresh.updRead st.ident g u (udStamp u.desc + 8 * u.next) 8 = (.ok b, h₁) → leNat b = u.step.toNat →
        Does (.updateSheafStart g) st fun h => (h.tile g).upd = some { u with next := u.next + 1 } ∧ h.memS = h₁.memS) ∧
      (∀ b h₁ bs h₂ h₃, u.stop = 0 → u.restore = [] → u.next < u.first + u.count → clState u.line (u.next % 4) ≠ recOpen →
        SMap.get none u.opens (u.next % 4) = none →
        st.hw.fresh.updRead st.ident g u (udStamp u.desc + 8 * u.next) 8 = (.ok b, h₁) → leNat b < u.step.toNat →
        let parts := bodyParts u.desc (udPlanes u.desc) (udCompact u.desc) u.next
        Hw.updReads st.ident g u (parts.map (fun p => (p.2.1, p.2.2)) ++ [(udG u.desc + 4096 * u.next, 4096)]) h₁ = (.ok bs, h₂) →
        Hw.updWrites st.ident u ((parts.map (fun p => bodyAt u.desc (u.next % 4) + p.1)).zip bs) h₂ = (.ok (), h₃) →
        Does (.updateSheafStart g) st fun h => (h.openSheaf g (u.next % 4) 1).map (·.2.sheaf) = some u.next ∧
          (h.tile g).upd.map (·.next) = some (u.next + 1) ∧ h.memS = h₃.memS))

/-! ## Replica groups (08) -/

/-- Enabling a disabled group reads its record and its shard list, and with every field as it must be the group is idle with them
(08 R199), the accelerator side not held in reset; enabling an enabled idle group stores what was written and reads
nothing; disabling an idle group disables it; on an open
or held group either write is refused, with a config-while-busy record when it would change the register (08 R199, R200, 00 R15). -/
def Obligations.GroupsAreEnabledAndDisabledWhileIdle : Prop :=
  ∀ (hart i : Nat) (v : Word) (st : State), i < 64 → st.hw.accelHeld = false →
    let w := v.toNat &&& 0x8FFFFFFFFFFFFFFF
    let tmp : Group := { Group.init with ctx := fld w 48 12, win := fld w 0 6 }
    let wd := st.hw.win (fld w 48 12) (fld w 0 6)
    (∀ r l h₁ h₂, (st.hw.grp i).st = 0 → bitAt v.toNat 63 = true →
      (st.hw.fresh.setReg (replReg 0 i) w).grpRead st.ident tmp (fld w 6 42 * 64) 64 = (some r, h₁) → groupBad wd r = none →
      h₁.grpRead st.ident tmp (recN r 40 6) (64 * fld (recN r 48 4) 0 20) = (some l, h₂) →
      let shards := (List.range (fld (recN r 48 4) 0 20)).map (fun k => subB l (64 * k) 64)
      shards.findSome? (shardBad (fld (recN r 0 1) 0 2) (recN r 2 2) (recN r 4 2) wd) = none →
      Does (.replGroupEnable hart i v) st fun h => (h.grp i).st = 1 ∧ (h.grp i).rcd = r ∧ (h.grp i).shards = shards ∧
        (∀ k, k ≠ i → h.grp k = st.hw.grp k) ∧ Hw.onlyChanges ([.repl, .chron] ++ memoryParts) st.hw.fresh h) ∧
    ((st.hw.grp i).st = 1 → bitAt v.toNat 63 = true →
      Does (.replGroupEnable hart i v) st fun h => (h.grp i).st = 1 ∧ h.reg (replReg 0 i) = w ∧
        Hw.onlyChanges [.regs] st.hw.fresh h) ∧
    ((st.hw.grp i).st = 1 → bitAt v.toNat 63 = false →
      Does (.replGroupDisable hart i v) st fun h => (h.grp i).st = 0 ∧ h.reg (replReg 0 i) = w ∧
        (∀ k, k ≠ i → h.grp k = st.hw.grp k) ∧ Hw.onlyChanges [.regs, .repl, .chron] st.hw.fresh h) ∧
    (2 ≤ (st.hw.grp i).st → w ≠ st.hw.reg (replReg 0 i) →
      ∀ c, c = (if bitAt v.toNat 63 then Instr.replGroupEnable hart i v else .replGroupDisable hart i v) →
      ∃ r : ErrRec, r.cls = 0x01 ∧ Does c st fun h => h.errOut = st.hw.errOut ++ [r] ∧ Hw.onlyChanges [.errOut] st.hw.fresh h)

/-- An exchange not closed XCHG_TIMEOUT µs after it opened holds its group with reason digest-timeout (08 R195). It closes at the gate once
every block is verified and no refetch is in flight (R191); RELEASE closes a held one, ABORT an open or held one (R196), and the group
is idle. Otherwise nothing happens. The authority's digest of a block that a member compares (08 R190): equal to the local one, the
block is verified; different, it is counted once, and a refetch is due. A digest of another step, from another rank, or for a group
without an exchange changes nothing. A ready shard of an owner, whose send digests are complete, goes to every other member, the owner's
own exchange open or closed (R188, R189); a refetch asks the authority (R192), which answers STALE where the block's stamps differ from
the step asked for, INTEGRITY for a block it refuses, and the block where its stamps and digest stand (R192, R194). A returned block is
digested and compared again (R192); any other answer holds the group (R193). That STALE answers also a step whose digest the authority
no longer holds is the model's reading (notes/assumptions/83), and that a digest for a group without an exchange changes nothing is its
choice (notes/assumptions/84). The closing of an exchange is shown with no gather write waiting for it. -/
def Obligations.ExchangesCompareAndEnd : Prop :=
  (∀ (i : Nat) (st : State),
    let g := st.hw.grp i
    (g.st = 2 → g.openAt + g.timeout * 1000 ≤ st.hw.localNs →
      Does (.xchgTimeout i) st fun h => (h.grp i).st = 3 ∧ (h.grp i).reason = 0x03 ∧
        (∀ k, k ≠ i → h.grp k = st.hw.grp k) ∧ Hw.onlyChanges [.repl, .chron] st.hw.fresh h) ∧
    (g.st ≠ 2 ∨ st.hw.localNs < g.openAt + g.timeout * 1000 → Nothing (.xchgTimeout i) st) ∧
    (g.st ≠ 3 → Nothing (.replRelease i) st) ∧ (g.st < 2 → Nothing (.replAbort i) st) ∧
    (g.st ≠ 2 ∨ g.pendingN ≠ 0 ∨ g.flying ≠ [] → Nothing (.exchangeCloseGate i) st) ∧
    (st.hw.fab.qps = [] → st.hw.fab.colls = [] →
      (g.st = 2 → g.pendingN = 0 → g.flying = [] → Does (.exchangeCloseGate i) st fun h => (h.grp i).st = 1 ∧
        ∀ k, k ≠ i → h.grp k = st.hw.grp k) ∧
      (g.st = 3 → Does (.replRelease i) st fun h => (h.grp i).st = 1 ∧ ∀ k, k ≠ i → h.grp k = st.hw.grp k) ∧
      (g.st = 2 ∨ g.st = 3 → Does (.replAbort i) st fun h => (h.grp i).st = 1 ∧
        (∀ k, k ≠ i → h.grp k = st.hw.grp k) ∧ Hw.onlyChanges [.repl, .chron] st.hw.fresh h))) ∧
  (∀ (i rank sh b step v : Nat) (data : List Byte) (st : State),
    let g := st.hw.grp i
    let k := bkey sh b
    let auth := if g.replicated then g.elder else shOwner (g.shard sh)
    (g.st < 2 ∨ step ≠ g.step ∨ rank ≠ auth → Nothing (.digestTableReceive i rank sh b step v) st) ∧
    (g.st = 2 → sh < g.shards.length → b < shNb (g.shard sh) → auth ≠ g.rank → SMap.get none g.auth k = none →
      SMap.get false g.verified k = false → SMap.get false g.flying k = false → SMap.get false g.due k = false →
      (∀ l, SMap.get none g.loc k = some l → v = l →
        Does (.digestTableReceive i auth sh b g.step v) st fun h => SMap.get false (h.grp i).verified k = true ∧ (h.grp i).st = 2) ∧
      (∀ l, SMap.get none g.loc k = some l → v ≠ l → SMap.get 0 g.tries k < g.refMax →
        Does (.digestTableReceive i auth sh b g.step v) st fun h => SMap.get false (h.grp i).due k = true ∧
          SMap.get false (h.grp i).verified k = false ∧ SMap.get false (h.grp i).mism k = true)) ∧
    (g.st = 0 ∨ g.ran = false ∨ (g.st = 1 ∧ auth ≠ g.rank) ∨ g.shards.length ≤ sh ∨ SMap.get false g.sent sh = true →
      Nothing (.shardReadySend i sh) st) ∧
    (∀ ds : List Nat, g.st ≠ 0 → g.ran = true → g.replicated = false → g.recheck = false → sh < g.shards.length →
      SMap.get false g.sent sh = false → auth = g.rank → ds.length = shNb (g.shard sh) →
      (∀ c < shNb (g.shard sh), g.sendDigest sh c = ds[c]?) →
      Does (.shardReadySend i sh) st fun h => SMap.get false (h.grp i).sent sh = true ∧
        h.out = ((List.range g.size).filter (· != g.rank)).map (fun r => Outp.digests i r sh g.step ds) ∧
        (h.grp i).st = g.st ∧ (∀ m, m ≠ i → h.grp m = st.hw.grp m) ∧ Hw.onlyChanges [.repl, .out] st.hw.fresh h) ∧
    (SMap.get false g.due k = true → g.st = 2 → g.replicated = false →
      Does (.refetchStart i sh b) st fun h => SMap.get false (h.grp i).flying k = true ∧ SMap.get false (h.grp i).due k = false ∧
        h.out = [Outp.refetchReq i (shOwner (g.shard sh)) sh b g.step] ∧ Hw.onlyChanges [.repl, .out] st.hw.fresh h) ∧
    (SMap.get false g.due k = false → Nothing (.refetchStart i sh b) st) ∧
    (∀ x h₁, g.st ≠ 0 → g.ran = true → sh < g.shards.length → b < shNb (g.shard sh) → auth = g.rank →
      st.hw.fresh.grpRead st.ident g (shOff (g.shard sh) 6 + 8 * 32 * b) (8 * shSheaves (g.shard sh) b) = (some x, h₁) →
      let stamped := (wordsOf (shSheaves (g.shard sh) b) x).all (· == step)
      let answers (h₀ : Hw) (a : Nat) (d : List Byte) : Prop := Does (.refetchServe i rank sh b step) st fun h =>
        h.out = h₀.out ++ [Outp.refetchAns i rank sh b a d] ∧ h.repl = st.hw.repl
      (stamped = false → answers h₁ 1 []) ∧
      (stamped = true → step = g.step → SMap.get false g.refuse k = true → answers h₁ 2 []) ∧
      (stamped = true → (step = g.step → SMap.get false g.refuse k = false) →
        (g.authOf sh b step = none → answers h₁ 1 []) ∧
        (let g' := { g with step := step }
        ∀ y h₂ d h₃, h₁.readBlock st.ident g' sh b = (some y, h₂) → g.authOf sh b step = some (blockDigest (g.shard sh) b y) →
          Hw.grpReads st.ident g' (g'.refetchExts sh b) h₂ = (some d, h₃) → answers h₃ 0 d))) ∧
    (SMap.get false g.flying k = false → ∀ a, Nothing (.refetchDeliver i sh b a data) st) ∧
    (SMap.get false g.flying k = true →
      let n := shSheaves (g.shard sh) b * 2048
      Does (.refetchDeliver i sh b 0 data) st fun h => SMap.get false (h.grp i).flying k = false ∧
        SMap.get 0 (h.grp i).tries k = SMap.get 0 g.tries k + 1 ∧ (∀ m, m ≠ i → h.grp m = st.hw.grp m) ∧
        SMap.get none (h.grp i).loc k = some (blockDigest (g.shard sh) b (if g.replicated then [subB data 0 n, subB data n n] else [subB data 0 n]))) ∧
    (SMap.get false g.flying k = true → g.st = 2 → ∀ a, a ≠ 0 →
      Does (.refetchDeliver i sh b a data) st fun h => (h.grp i).st = 3 ∧ (h.grp i).reason = 0x02 ∧
        SMap.get false (h.grp i).flying k = false))

/-! ## Cellar, scrubs, thermal (09) -/

/-- A read that reaches a slice answers what the slice's copy of the line holds (09 R210), or, with the line absent and no
allocation asked for, what DRAM holds; neither changes a byte of DRAM. A last-use read drops the line, written back where it is dirty
(R210). A write to a line the slice holds leaves it there, dirty, and DRAM as
it was (R211); one that is written through, to a line it does not hold, goes to DRAM and allocates nothing. -/
def Obligations.CellarAnswersFromLineOrDram : Prop :=
  ∀ (a len d o hint : Nat) (data : List Byte) (st : State),
    locate st.ident (keyOf a) = .hbm d o → st.hw.reachable st.ident a = true → hint < 8 →
    let k := stackOf d o
    let ln := lineInStack o
    let m := st.hw.memS.mem
    let n := inLine o data.length
    (∀ l, SMap.get none (st.hw.slice k).lines ln = some l → l.bad = false →
      (hint % 4 ≠ 2 → Does (.cellarRead a len hint 0) st fun h => h.resp = .bytes (subB l.data (o % 64) (inLine o len)) ∧
        h.memS.mem = m ∧ (SMap.get none (h.slice k).lines ln).map (·.data) = some l.data) ∧
      (hint % 4 ≠ 2 → Does (.cellarWrite a hint false data) st fun h => h.resp = .done ∧ h.memS.mem = m ∧
        SMap.get none (h.slice k).lines ln = some (CellarLine.mk l.keep true l.stamp (overlay l.data (o % 64) (data.take n))
          false (l.soft && (data.take n).length != 64))) ∧
      (hint % 4 = 2 → Does (.cellarRead a len hint 0) st fun h => h.resp = .bytes (subB l.data (o % 64) (inLine o len)) ∧
        SMap.get none (h.slice k).lines ln = none ∧ (l.dirty = true → h.memS.mem.bytes (lineKey k ln) l.data.length = l.data) ∧
        (l.dirty = false → h.memS.mem = m))) ∧
    (SMap.get none (st.hw.slice k).lines ln = none →
      (hintAlloc hint = false → m.firstBad 32 (lineKey k ln + o % 64) (inLine o len) = none →
        Does (.cellarRead a len hint 0) st fun h => h.resp = .bytes (m.bytes (lineKey k ln + o % 64) (inLine o len)) ∧
          h.memS.mem.cells = m.cells ∧ (∀ j, h.slice j = st.hw.slice j) ∧ Hw.onlyChanges [.memS, .regs, .resp] st.hw.fresh h) ∧
      (Does (.cellarWrite a hint true data) st fun h => h.resp = .done ∧
        h.memS.mem.bytes (lineKey k ln + o % 64) (data.take n).length = data.take n ∧ h.slice k = st.hw.slice k))

/-- FLUSH starts the write-back of exactly the lines that are dirty then, and FLUSH_BUSY clears when it is done; a stack enters
self-refresh, or goes offline, only when its slice has been written back, and not unless it was to (09 R214). The scrubs (09 R230 to
R232, 06 R144, 09 R223): the patrol scrub moves on by one burst of the pass and starts anew after its last; a correctable error that
it or the SRAM scrub finds is counted, and an uncorrectable one of a clean cellar line drops the line; none changes a byte of
memory. -/
def Obligations.MaintenanceKeepsMemory : Prop :=
  (∀ (k : Nat) (st : State), k < 16 → st.hw.dieUp (k / 2) = true →
    (Does (.cellarFlush k) st fun h => (h.slice k).flushing = (st.hw.slice k).dirty ∧
      (h.slice k).lines = (st.hw.slice k).lines ∧ (∀ j, j ≠ k → h.slice j = st.hw.slice j) ∧
      h.memS.mem = st.hw.memS.mem ∧ Hw.onlyChanges [.memS] st.hw.fresh h) ∧
    (Does (.cellarFlushDone k) st fun h => (h.slice k).flushing = [] ∧ ∀ ln ∈ (st.hw.slice k).flushing, ∀ l,
      SMap.get none (h.slice k).lines ln = some l → l.dirty = false) ∧
    ((st.hw.stack k).entering = 0 → Nothing (.stackSelfRefreshEntry k) st) ∧
    ((st.hw.stack k).entering ≠ 0 → (st.hw.slice k).dirty = [] →
      Does (.stackSelfRefreshEntry k) st fun h =>
        (h.stack k).st = (if (st.hw.stack k).entering = 2 then .offline else .selfRefresh) ∧ (h.stack k).entering = 0 ∧
        (∀ j, j ≠ k → h.stack j = st.hw.stack j) ∧ h.memS.mem = st.hw.memS.mem)) ∧
  ((∀ (t : Nat) (st : State), t < 16 → st.hw.dieUp (t / 2) = true → (st.hw.stack t).st = .online →
    let cfg := blkBase .scrub (t / 2)
    let p := SMap.get 0 st.hw.boot.scrub t
    p ≠ 0 → st.hw.regF cfg 16 1 = 1 → st.hw.memS.mem.bad.contains (scrubAddr t p) = false →
    Does (.patrolScrubStep t 1) st fun h => SMap.get 0 h.boot.scrub t = (p + 1) % scrubLen st.ident t ∧
      h.regF (blkBase .hbm t + 8) 0 32 = min (st.hw.regF (blkBase .hbm t + 8) 0 32 + 1) (2 ^ 32 - 1) ∧
      h.memS.mem.cells = st.hw.memS.mem.cells ∧ Hw.onlyChanges [.boot, .regs, .memS] st.hw.fresh h) ∧
  (∀ (g w : Nat) (st : State), st.hw.present st.ident g = true → w < granSize →
    st.hw.memS.mem.bad.contains (granBase g + w / 8 * 8) = false → st.hw.memS.mem.softIn 8 (granBase g + w / 8 * 8) 8 = [] →
    Does (.sramScrubStep 0 g w 1) st fun h =>
      h.regF (tileReg g 0xCC0) 0 32 = min (st.hw.regF (tileReg g 0xCC0) 0 32 + 1) (2 ^ 32 - 1) ∧
      h.memS.mem.cells = st.hw.memS.mem.cells ∧ Hw.onlyChanges [.regs, .memS] st.hw.fresh h) ∧
  (∀ (k w : Nat) (l : CellarLine) (st : State), k < 16 → st.hw.dieUp (k / 2) = true → SMap.get none (st.hw.slice k).lines w = some l →
    l.dirty = false →
    Does (.sramScrubStep 2 k w 2) st fun h => SMap.get none (h.slice k).lines w = none ∧
      h.memS.mem = st.hw.memS.mem))

/-! ## Coherence (10) -/

/-- A transaction that names a busy line waits at its slice, after those that wait already, and changes neither the roll, nor
memory, nor the transactions in progress (10 R242). A line frees only when every answer for its transaction has returned (10 R242):
then the transaction is no longer open. An agent answers only a snoop that was sent to it, and its answer is no longer awaited
(R247). -/
def Obligations.BusyLinesWaitAndFree : Prop :=
  (∀ (agent a : Nat) (op : CacheOp) (st : State), st.hw.agentOk st.ident agent = true → st.hw.reachable st.ident a = true →
    cacheable st.ident (keyOf a) = true → closedTo st.ident agent (keyOf a) = false → st.hw.busyLine (lineAt (keyOf a)) = true →
    op.fits (keyOf a) = true →
    let s := (st.hw.rollLine (keyOf a)).state agent
    ∀ c ∈ [Instr.writeBack agent a, .evictClean agent a] ++
        (if agent ≠ 0x60 ∧ (s = none ∨ s = some .shr) then [Instr.readShared agent a 0] else []) ++
        (if agent ≠ 0x60 ∧ op.issuedBy agent = true ∧ s ≠ some .mod ∧ s ≠ some .exc then [Instr.readUnique agent a op, .upgrade agent a op] else []),
      ∃ t : Txn, t.agent = agent ∧ t.key = keyOf a ∧ Does c st fun h => h.memS.wait = st.hw.memS.wait ++ [t] ∧
        h.memS.open_ = st.hw.memS.open_ ∧ h.memS.roll = st.hw.memS.roll ∧ h.memS.mem = st.hw.memS.mem ∧
        Hw.onlyChanges [.memS] st.hw.fresh h) ∧
  (∀ (slice agent a : Nat) (st : State),
    let line := lineAt (keyOf a)
    ((∀ t ∈ st.hw.memS.open_, t.lines.contains line = true → t.snoops ≠ []) ∨ slice ≠ sliceOf line →
      Nothing (.lineRelease slice a) st) ∧
    (∀ t, st.hw.memS.open_ = [t] → st.hw.memS.wait = [] → t.lines.contains line = true → t.snoops = [] → slice = sliceOf line →
      Does (.lineRelease slice a) st fun h => h.memS.open_ = [] ∧ h.memS.wait = []) ∧
    ((∀ t ∈ st.hw.memS.open_, t.snoops.contains (agent, line) = false) → Nothing (.snoop agent a) st) ∧
    (∀ t, st.hw.memS.open_ = [t] → t.snoops.contains (agent, line) = true →
      Does (.snoop agent a) st fun h => ∃ u, h.memS.open_ = [u] ∧ u.snoops = t.snoops.filter (fun s => !(s.1 == agent && s.2 == line))))

/-- On a DDR5 line that nobody holds, that is not busy, and whose roll set has room (10 R238 to R240, R246, R250): ReadShared gives its
agent the line in E with the data at its home; ReadUnique, and an Upgrade that finds the line gone, give it in M with the store, AMO, LR
or SC performed; an agent that alone holds it in S, its copy sound, is given M by Upgrade. The home keeps its bytes. A tile control
core performs no AMO, LR or SC (R251). EvictClean drops a line its agent
holds in E or C from the roll and leaves the other holders; on a line held otherwise it changes no roll entry. WriteBack of an M
line writes its data to its home and drops it; Transfer moves a cluster's line to the L3 (10 R238). No roll entry holds an error. -/
def Obligations.RequestsAndEvictionsMoveTheLine : Prop :=
  (∀ (agent a : Nat) (op : CacheOp) (st : State),
    let key := keyOf a
    let line := lineAt key
    st.hw.agentOk st.ident agent = true → agent ≠ 0x60 →
    (∃ j, locate st.ident key = .ddr j ∧ locate st.ident line = .ddr (j / 64 * 64)) →
    st.hw.reachable st.ident a = true → closedTo st.ident agent key = false → st.hw.busyLine line = false → st.hw.memS.mem.bad = [] →
    (∀ e ∈ st.hw.memS.roll, e.2.bad = false) → (st.hw.rollWays line).length < 16 → op.fits key = true →
    let old := st.hw.memS.mem.bytes line 64
    let copy := st.hw.copyOf st.ident agent line
    let done (d : List Byte) := op.on (key % 64) d []
    (op.issuedBy agent = false → Nothing (.readUnique agent a op) st ∧ Nothing (.upgrade agent a op) st) ∧
    ((st.hw.rollLine key).hold = [] →
      (Does (.readShared agent a 0) st fun h => (h.rollLine key).hold = [(agent, .exc)] ∧
        h.resp = .bytes (subB old (key % 64) (64 - key % 64)) ∧ h.memS.mem.cells = st.hw.memS.mem.cells) ∧
      (∀ c, c = Instr.readUnique agent a op ∨ c = Instr.upgrade agent a op → op.issuedBy agent = true →
        Does c st fun h => (h.rollLine key).hold = [(agent, .mod)] ∧ (h.rollLine key).data = some (done old).1 ∧
          h.resp = (if op.kind = 2 then .bytes old else (done old).2.2) ∧ h.memS.mem.cells = st.hw.memS.mem.cells)) ∧
    ((st.hw.rollLine key).hold = [(agent, .shr)] → op.issuedBy agent = true → st.hw.memS.cacheBad = [] →
      Does (.upgrade agent a op) st fun h => (h.rollLine key).hold = [(agent, .mod)] ∧
        (h.rollLine key).data = some (done copy).1 ∧ h.resp = (done copy).2.2 ∧ h.memS.mem = st.hw.memS.mem)) ∧
  (∀ (agent a : Nat) (st : State), st.hw.agentOk st.ident agent = true → st.hw.reachable st.ident a = true →
    cacheable st.ident (keyOf a) = true → st.hw.busyLine (lineAt (keyOf a)) = false → (∀ e ∈ st.hw.memS.roll, e.2.bad = false) →
    let key := keyOf a
    let r := st.hw.rollLine key
    (r.state agent = some .exc ∨ r.state agent = some .cri → Does (.evictClean agent a) st fun h =>
      (h.rollLine key).state agent = none ∧ (∀ b, b ≠ agent → (h.rollLine key).state b = r.state b) ∧ h.memS.mem = st.hw.memS.mem) ∧
    (r.state agent ≠ some .exc → r.state agent ≠ some .cri → Does (.evictClean agent a) st fun h =>
      h.memS.roll = st.hw.memS.roll ∧ h.memS.mem = st.hw.memS.mem) ∧
    (∀ d, (∃ j, locate st.ident (lineAt key) = .ddr j) → r.hold = [(agent, .mod)] → r.data = some d → d.length = 64 → st.hw.memS.cacheBad = [] →
      Does (.writeBack agent a) st fun h => h.memS.mem.bytes (lineAt key) 64 = d ∧ (h.rollLine key).hold = [] ∧ h.resp = .done) ∧
    (∀ x, 0x50 ≤ agent → agent < 0x60 → r.state agent = some x →
      Does (.transfer agent a) st fun h => (h.rollLine key).state agent = none ∧ (h.rollLine key).state 0x60 = some x ∧
        h.memS.mem = st.hw.memS.mem))

/-- Accesses of non-caching agents to bytes of one DDR5 line that no agent holds and no transaction names, with no error there (10
R243 to R246): a read answers the bytes and changes none; a write-invalidate puts its bytes there and none elsewhere; an atomic answers
the old bytes and leaves the sum, or the swap where the compare matched. -/
def Obligations.NoncachingAccesses : Prop :=
  ∀ (nc a j n : Nat) (data : List Byte) (st : State), ncOk nc = true → 1 ≤ n → a % 64 + n ≤ 64 →
    keyOf a = a → locate st.ident a = .ddr j → st.hw.reachable st.ident a = true → closedTo st.ident 0 a = false →
    (st.hw.rollLine a).hold = [] → st.hw.busyLine (lineAt a) = false → st.hw.memS.mem.bad = [] →
    (∀ e ∈ st.hw.memS.roll, e.2.bad = false) → data.length = n →
    let m := st.hw.memS.mem
    (∀ hint, Does (.snoopWithoutAllocate nc a n hint 0) st fun h => h.resp = .bytes (m.bytes a n) ∧ h.memS.mem.cells = m.cells ∧
      h.memS.roll = st.hw.memS.roll) ∧
    (∀ hint, Does (.writeInvalidate nc a hint data) st fun h => h.resp = .done ∧ h.memS.mem.bytes a n = data ∧
      ∀ x, x < a ∨ a + n ≤ x → h.memS.mem.byte x = m.byte x) ∧
    (∀ op opnd, n = 4 ∨ n = 8 → a % n = 0 → Does (.noncachingAtomic nc a n op opnd) st fun h => h.resp = .bytes (m.bytes a n) ∧
      (∀ x, x < a ∨ a + n ≤ x → h.memS.mem.byte x = m.byte x) ∧
      (op = 0 → h.memS.mem.bytes a n = toLE n (leNat (m.bytes a n) + recN opnd 0 n)) ∧
      (op = 1 → leNat (m.bytes a n) ≠ recN opnd 0 n → h.memS.mem.bytes a n = m.bytes a n) ∧
      (op = 1 → opnd.length = 2 * n → leNat (m.bytes a n) = recN opnd 0 n → h.memS.mem.bytes a n = subB opnd n n))

/-- A request that meets an uncorrectable error in the roll entry of its line (18 R409): every holder is in I, an M holder's data stands
at the line's home, the entry is freed, and one record of class 0x09 names the line; no context is affected. The request then finds
nobody holding the line, and has it in E. That all this happens at the order that reads the entry is the model's choice
(notes/assumptions/15). -/
def Obligations.RollErrorFreesItsEntry : Prop :=
  ∀ (agent a : Nat) (st : State),
    let key := keyOf a
    let line := lineAt key
    let r := st.hw.rollLine key
    st.hw.agentOk st.ident agent = true → agent ≠ 0x60 → (∃ j, locate st.ident key = .ddr j ∧ locate st.ident line = .ddr (j / 64 * 64)) →
    st.hw.reachable st.ident a = true → st.hw.busyLine line = false → st.hw.memS.mem.bad = [] → (∀ e ∈ st.hw.memS.roll, e.2.bad = false) →
    st.hw.settled = true → ((st.hw.rollWays line).filter (· != line / 64)).length < 16 → st.hw.memS.cacheBad = [] →
    r ≠ RollLine.init → r.state agent = none → (∀ d, r.data = some d → d.length = 64) →
    let d := r.data.getD (st.hw.memS.mem.bytes line 64)
    ∃ x : ErrRec, x.cls = 0x09 ∧ x.addr = some line ∧ x.ctx = none ∧ Does (.readShared agent a 2) st fun h =>
      h.errOut = st.hw.errOut ++ [x] ∧ (h.rollLine key).hold = [(agent, .exc)] ∧ (h.rollLine key).bad = false ∧
        h.memS.mem.bytes line 64 = d ∧ h.resp = .bytes (subB d (key % 64) (64 - key % 64)) ∧
        Hw.onlyChanges [.memS, .regs, .errOut, .resp, .out] st.hw.fresh h

/-! ## Die links (11) -/

/-- A link whose forwarded clock loses lock starts a retrain at both its ends, each counting the attempt, and a link that is not up
does not (11 R267). A flit that the far end sends, a new one or a replay from its buffer, with a good CRC and the number expected is
accepted with its credit totals; one with a bad CRC, counted, or with another number is dropped, and answered with a NAK for the flit
expected, from which the far end replays (R266). A retrain attempt that succeeds brings both ends up with the spares it left and counts
no more failures, and each replays from its first unacknowledged flit; the eighth failure in a row takes a side link out of service at
both ends, with a record of class 0x10 from each, and puts the die of a hub link out of service (11 R267, R268). In an empty slot one
wire group is calibrated: its time starts anew, and a failing wire takes a spare while one of the sixteen is left, else the link
retrains; a group not calibrated for CAL_MAX µs is calibrated in an inserted slot (11 R269). -/
def Obligations.DieLinksNakRetrainAndCalibrate : Prop :=
  (∀ (k seq : Nat) (credit : List Nat) (st : State), siteUsed k = true →
    let x := st.hw.site k
    let peer := sitePeer k
    (x.st = 2 → Does (.forwardedClockLockLoss k) st fun h => (h.site k).st = 3 ∧ (h.site peer).st = 3 ∧
      (∀ j, j ≠ k → j ≠ peer → h.site j = st.hw.site j) ∧
      h.regF (siteErr k) 48 16 = min (st.hw.regF (siteErr k) 48 16 + 1) 0xFFFF ∧ Hw.onlyChanges [.sites, .regs] st.hw.fresh h) ∧
    (∀ y, x.st = 2 → (st.hw.site peer).sends (seq % 512) = some y →
      let naked (h : Hw) : Prop := (h.site k).exp = x.exp ∧ h.out = [Outp.nak k x.exp, Outp.replay peer x.exp] ∧
        (∀ j, j ≠ k → j ≠ peer → h.site j = st.hw.site j) ∧ Hw.onlyChanges [.sites, .regs, .out] st.hw.fresh h
      (seq % 512 = x.exp → Does (.flitReceive k seq true credit) st fun h => (h.site k).exp = (x.exp + 1) % 512 ∧
        (h.site k).naks = 0 ∧ (h.site k).credit = credit.take 4 ∧ h.site peer = y ∧ h.out = [] ∧
        (∀ j, j ≠ k → j ≠ peer → h.site j = st.hw.site j) ∧ Hw.onlyChanges [.sites, .regs] st.hw.fresh h) ∧
      (seq % 512 ≠ x.exp → Does (.flitReceive k seq true credit) st naked) ∧
      (Does (.flitReceive k seq false credit) st fun h => naked h ∧
        h.regF (siteErr k) 0 24 = min (st.hw.regF (siteErr k) 0 24 + 1) 0xFFFFFF)) ∧
    (x.st ≠ 2 → Nothing (.forwardedClockLockLoss k) st) ∧
    (x.st ≠ 2 ∨ (st.hw.site peer).sends (seq % 512) = none → ∀ b, Nothing (.flitReceive k seq b credit) st)) ∧
  (∀ (k sp sq : Nat) (st : State), siteUsed k = true →
    let x := st.hw.site k
    let peer := sitePeer k
    (x.st ≠ 3 → x.st ≠ 1 → ∀ b, Nothing (.retrainAttemptEnd k b sp sq) st) ∧
    (x.st = 3 ∨ x.st = 1 →
      (Does (.retrainAttemptEnd k true sp sq) st fun h => (h.site k).st = 2 ∧ (h.site peer).st = 2 ∧
        (h.site k).attempts = 0 ∧ (h.site k).spares = min sp 16 ∧ (h.site peer).spares = min sq 16 ∧
        h.out = [Outp.replay k (x.replay.head?.getD x.txSeq),
          Outp.replay peer ((st.hw.site peer).replay.head?.getD (st.hw.site peer).txSeq)] ∧
        Hw.onlyChanges [.sites, .out] st.hw.fresh h) ∧
      (x.attempts + 1 < 8 → Does (.retrainAttemptEnd k false sp sq) st fun h => (h.site k).st = x.st ∧
        (h.site k).attempts = x.attempts + 1 ∧ Hw.onlyChanges [.sites, .regs] st.hw.fresh h) ∧
      (8 ≤ x.attempts + 1 → k < 32 → peer < 32 →
        ∃ r r' : ErrRec, r.cls = 0x10 ∧ r'.cls = 0x10 ∧ Does (.retrainAttemptEnd k false sp sq) st fun h => (h.site k).st = 4 ∧
          (h.site peer).st = 4 ∧ h.errOut = st.hw.errOut ++ [r, r'] ∧ Hw.onlyChanges [.sites, .errOut] st.hw.fresh h) ∧
      (∀ d, 8 ≤ x.attempts + 1 → k = 32 + d ∨ peer = 32 + d →
        Does (.retrainAttemptEnd k false sp sq) st fun h => (h.site k).st = 4 ∧ (h.site peer).st = 4 ∧ h.dieUp d = false))) ∧
  (∀ (k group : Nat) (st : State), siteUsed k = true → st.hw.calibrates k group = true →
    (Does (.bgCalibration k group false) st fun h => SMap.get 0 (h.site k).calAt group = st.hw.localNs ∧
      (h.site k).spares = (st.hw.site k).spares ∧ Hw.onlyChanges [.sites] st.hw.fresh h) ∧
    ((st.hw.site k).spares < 16 →
      Does (.bgCalibration k group true) st fun h => (h.site k).spares = (st.hw.site k).spares + 1 ∧
        Hw.onlyChanges [.sites] st.hw.fresh h) ∧
    (16 ≤ (st.hw.site k).spares →
      Does (.bgCalibration k group true) st fun h => (h.site k).st = 3) ∧
    (SMap.get 0 (st.hw.site k).calAt group + max 1 (st.hw.regF (siteCal k) 0 16) * 1000 ≤ st.hw.localNs →
      Does (.calMaxExpiry k group) st fun h => SMap.get 0 (h.site k).calAt group = st.hw.localNs ∧
        Hw.onlyChanges [.sites] st.hw.fresh h) ∧
    (st.hw.localNs < SMap.get 0 (st.hw.site k).calAt group + max 1 (st.hw.regF (siteCal k) 0 16) * 1000 →
      Nothing (.calMaxExpiry k group) st))

/-! ## The carters (12) -/

/-- A frame that arrives on a link that is up with a bad CRC, FCS or checksum, or in an uncorrectable codeword, is dropped, and only
counted (12 R303, Table 12-10 row 1); a frame of a blacklisted partner is dropped as a violation (R305); on a link that is not up
nothing arrives. This holds of every transport opcode. A partner is accepted again once BLACKLIST_EXPIRY finds its time come. A
sequenced packet ahead of the expected PSN, within the credit and not received before, is kept, and the expected PSN stands; across
a gap an ACK leaves at once (12 R290, R295). No byte of memory changes, but for a WRITE packet that is not its message's last, which
may be placed at once. A packet beyond the credit is not kept and is answered by a NAK for it; the third within 1 ms closes the queue
pair (R295, Table 12-10 row 15). A packet with an extension header its opcode does not call for closes the queue pair (row 8). -/
def Obligations.FramesAreCheckedBeforeDelivery : Prop :=
  ((∀ (port link src : Nat) (p : Pkt) (st : State), port < 16 → link < 8 → ∀ e ∈ packetRows port link src p, p.op = e.1 →
    (st.hw.linkUp (8 * port + link) = false → Nothing e.2 st) ∧
    (st.hw.linkUp (8 * port + link) = true → p.frame = 1 ∨ p.frame = 5 →
      Does e.2 st fun h => Hw.onlyChanges [.regs] st.hw.fresh h ∧
        (p.frame = 1 → h.regF (carterReg port (0x80 + 8 * link)) 0 20 =
          min (st.hw.regF (carterReg port (0x80 + 8 * link)) 0 20 + 1) 0xFFFFF)) ∧
    (st.hw.linkUp (8 * port + link) = true → p.frame = 0 → p.tooLong (st.hw.portMode port == 1) = false →
      st.hw.blacklisted (st.hw.partner port link src) = true →
      Does e.2 st fun h => Hw.onlyChanges [.regs] st.hw.fresh h ∧
        h.regF (carterReg port 0x228) 0 40 = min (st.hw.regF (carterReg port 0x228) 0 40 + 1) (2 ^ 40 - 1)) ∧
    (∀ q, st.hw.hears port link src p → st.hw.qp (p.dqpn % 2 ^ 20) = some q → q.st = 1 → q.plink = 8 * port + link → q.alt = false →
      p.hdrOk q = false → Does e.2 st fun h => (h.qp (p.dqpn % 2 ^ 20)).map (·.st) = some 2)) ∧
  (∀ (part : Nat) (st : State), Does (.blacklistExpiry part) st fun h =>
    h.fab.black = st.hw.fab.black.filter (fun e => !(e.1 == part && decide (e.2 ≤ st.hw.bellNs))) ∧ h.fab.qps = st.hw.fab.qps ∧
      Hw.onlyChanges [.fab] st.hw.fresh h)) ∧
  (∀ (port link src : Nat) (p : Pkt) (q : Qp) (st : State), st.hw.reaches port link src p q → p.sequenced = true →
    let n := p.dqpn % 2 ^ 20
    let k := pd p.psn q.exp
    ∀ e ∈ packetRows port link src p, p.op = e.1 →
      (1 ≤ k → k < q.limit → k < 4096 → (∀ r ∈ q.rx, r.pkt.psn ≠ p.psn) →
        Does e.2 st fun h => (h.qp n).map (·.exp) = some q.exp ∧
          (∃ b, (h.qp n).map (·.rx.getLast?) = some (some ⟨p, b⟩)) ∧
          ((∀ r ∈ q.rx, r.pkt.psn ≠ padd q.exp (k - 1)) → h.answered port link 8 0) ∧
          (p.op ≠ 1 ∨ p.last = true → h.memS = st.hw.memS)) ∧
      (q.limit ≤ k → k < 4096 → (∀ r ∈ q.rx, r.pkt.psn ≠ p.psn) → (recentMs st.hw.localNs q.overN).length < 2 →
        Does e.2 st fun h => h.answered port link 9 5 ∧ (h.qp n).map (fun y => (y.rx, y.st)) = some (q.rx, 1) ∧
          h.memS = st.hw.memS) ∧
      (q.limit ≤ k → k < 4096 → (∀ r ∈ q.rx, r.pkt.psn ≠ p.psn) → 2 ≤ (recentMs st.hw.localNs q.overN).length →
        Does e.2 st fun h => h.answered port link 9 5 ∧ (h.qp n).map (·.st) = some 2))

/-- What a packet at the expected PSN does, with nothing else received (12 R289 to R294, R306, R300), where memory answers at the bytes it
names and no word read holds an error. A WRITE writes its bytes at their place in the window its message's first packet names; a SEND at
the oldest posted receive request, completing it with its last packet, or is answered rnr; a READ_REQ is answered by READ_RESP packets
of the bytes read; FADD and CAS are one atomic of a non-caching agent (10 R246): the result stands at the address, shown of a DDR5 line
that nobody holds, and the old value answers. Each advances the expected PSN. A WRITE whose window does not permit it closes the queue
pair. A LEASE packet renews the lease once; REDUCE leaves its operands, GATHER writes its elements, and either waits while this rank has
not started the collective, which is the model's reading (notes/assumptions/21); a RFENCE is kept until its writes are home. -/
def Obligations.RequestsAreServedInOrder : Prop :=
  ∀ (port link src : Nat) (p : Pkt) (q : Qp) (st : State), st.hw.reaches port link src p q → p.psn = q.exp → q.exp < 2 ^ 24 → q.rx = [] →
    1 ≤ q.limit → (p.last = false ∨ st.hw.csnOk q p = true) →
    let n := p.dqpn % 2 ^ 20
    let moved (h : Hw) (k : Nat) : Prop := (h.qp n).map (·.exp) = some (padd q.exp k)
    (p.op = 1 → ∀ s f r, (if p.first then some (p.psn, p) else q.msg) = some (s, f) → f.reth = some r →
      (∀ base, st.hw.remote q r rRemWrite = some base → 2048 * pd p.psn s + p.payload.length ≤ r.2.2.2 →
        st.hw.takes st.ident (base + 2048 * pd p.psn s) p.payload.length = true →
        Does (.write port link src p) st fun h =>
          Hw.wrote st.ident st.hw.fresh h (base + 2048 * pd p.psn s) p.payload ∧ moved h 1) ∧
      (st.hw.remote q r rRemWrite = none → Does (.write port link src p) st fun h =>
        (h.qp n).map (·.st) = some 2 ∧ h.answered port link 9 2)) ∧
    (p.op = 0 →
      (∀ w got rest, (if p.first then none else q.rwr).elim (q.posted.head?.map (·, 0, q.posted.drop 1))
          (fun w => some (w, q.rgot, q.posted)) = some (w, got, rest) → recN w 0 1 = 8 → got + p.payload.length ≤ recN w 4 4 →
        ∀ a, p.payload = [] ∨ st.hw.local_ q (fld (recN w 8 1) 0 6) rWrite (fld (recN w 16 8) 0 48 + got) p.payload.length = some a →
        p.payload = [] ∨ st.hw.takes st.ident a p.payload.length = true →
        Does (.send port link src p) st fun h =>
          (if p.payload = [] then h.memS = st.hw.memS else Hw.wrote st.ident st.hw.fresh h a p.payload) ∧
            moved h 1 ∧ (h.qp n).map (·.posted) = some rest ∧
            (p.last = true → (⟨q.rq, qpCompl w 0 n (got + p.payload.length) 0 st.hw.bellNs⟩ : Compl) ∈ h.compl)) ∧
      ((p.first = true ∨ q.rwr = none) → q.posted = [] →
        Does (.send port link src p) st fun h => moved h 0 ∧ h.answered port link 9 6 ∧ h.memS = st.hw.memS)) ∧
    (p.op = 2 → ∀ r a, p.reth = some r → st.hw.remote q r rRemRead = some a → st.hw.answers st.ident a r.2.2.2 = true →
      st.hw.clean = true →
      Does (.readReq port link src p) st fun h =>
        ∃ x h₁, Hw.fetched st.ident st.hw.fresh port q.ctx a r.2.2.2 x h₁ ∧ moved h p.span ∧ h.memS = h₁.memS ∧
          h.answersWith port link n (respPkts q 3 p.psn x)) ∧
    (∀ r o a, p.reth = some r → p.ateth = some o → r.2.2.1 % 8 = 0 → st.hw.remote q (r.1, r.2.1, r.2.2.1, 8) rRemAtomic = some a →
      cacheable st.ident (keyOf a) = true → st.hw.takes st.ident a 8 = true → st.hw.clean = true →
      ∀ i, (p.op = 4 ∧ i = Instr.fadd port link src p) ∨ (p.op = 5 ∧ i = .cas port link src p) →
      Does i st fun h =>
        ∃ x h₀ h₁, Hw.onlyChanges [.regs, .fab] st.hw.fresh h₀ ∧
          h₀.carterAtomic st.ident port q.ctx a (if p.op = 4 then 0 else 1) (toLE 8 o.1 ++ toLE 8 o.2) = (some x, h₁) ∧ moved h 1 ∧
          h.memS = h₁.memS ∧ h.answersWith port link n (respPkts q 6 p.psn x) ∧
          (∀ j, locate st.ident a = .ddr j → keyOf a = a → (st.hw.rollLine a).hold = [] → st.hw.settled = true →
            x = st.hw.memS.mem.bytes a 8 ∧ h.memS.mem.bytes a 8 = toLE 8 (if p.op = 4 then (leNat x + o.1) % 2 ^ 64
              else if leNat x = o.1 % 2 ^ 64 then o.2 else leNat x))) ∧
    (p.op = 7 → Does (.rfence port link src p) st fun h => moved h 0 ∧ (h.qp n).map (·.rx) = some [⟨p, false⟩] ∧
      h.memS = st.hw.memS) ∧
    (p.op = 0xB → let e := recN p.payload 0 8
      (q.leaseOk = true → st.hw.fab.epoch < e → st.hw.leaseOn = true → (∀ x ∈ st.hw.shadow, x.1 < leaseReg ∨ leaseReg + 8 ≤ x.1) →
        Does (.lease port link src p) st fun h => moved h 1 ∧ h.fab.epoch = e ∧
          h.fab.leaseAt = st.hw.localNs + max 1 (st.hw.regF leaseReg 0 32) * 1000000 ∧ h.memS = st.hw.memS) ∧
      (q.leaseOk = false ∨ e ≤ st.hw.fab.epoch →
        Does (.lease port link src p) st fun h => moved h 0 ∧ h.fab.epoch = st.hw.fab.epoch ∧
          h.fab.leaseAt = st.hw.fab.leaseAt)) ∧
    (∀ x g c k, p.clth = some x → st.hw.collOf n x.1 = .take g c k → (∀ e ∈ st.hw.fab.colls, ∀ y, e.2 = some y → y.left ≠ 0) →
      (p.op = 0xC → reduceOk c k x p.payload.length = true → Does (.reduce port link src p) st fun h => moved h 1 ∧
        h.coll g = some (c.put (nodeKey x.2.1 x.2.2.1 x.2.2.2.1) x.2.2.2.2.2 (pairsOf (x.2.2.2.2.1 == 1) p.payload))) ∧
      (∀ o a, p.op = 0xD → gatherOk c k x p.payload.length = some o → p.payload.length / collOut c.wr < c.left →
        st.hw.through q.ctx (fld (recN c.wr 9 1) 0 6) rWrite (fld (recN c.wr 24 8) 0 48 + o) p.payload.length = some a →
        (∀ e ∈ st.hw.repl, st.hw.gatherHeld e.1 a p.payload.length = false) → st.hw.takes st.ident a p.payload.length = true →
        Does (.gather port link src p) st fun h => moved h 1 ∧ Hw.wrote st.ident st.hw.fresh h a p.payload ∧
          (h.coll g).map (·.left) = some (c.left - p.payload.length / collOut c.wr))) ∧
    (∀ x, p.clth = some x → st.hw.collOf n x.1 = .wait → ∀ i, (p.op = 0xC ∧ i = Instr.reduce port link src p) ∨
      (p.op = 0xD ∧ i = .gather port link src p) → Does i st fun h => moved h 0 ∧ h.memS = st.hw.memS)

/-- Packets that were received and not yet placed (12 R290 to R292). A RFENCE whose turn it is, its earlier packets home, is acknowledged
and the expected PSN moves on; a WRITE's last packet whose turn it is and whose CSN is next writes its bytes, unless they are there
already. Where the packet at the expected PSN has not come, or there is no queue pair, nothing happens. The transport's timers (12 R293,
R295, R296, R297). Before its time none does anything, nor for a queue pair that is not there. At 2 µs an ACK leaves; at RTO_US, with
the link up and the class open, everything unacknowledged is sent again with the smallest window, until RETRY_MAX in a row close the
queue pair; an uncorrectable error that its buffers hold closes it when it is met (18 R408); after RNR_US the message is tried again;
the pace sends one packet. -/
def Obligations.TimersAndReleasesKeepTheTransport : Prop :=
  (∀ (n : Nat) (st : State),
    (st.hw.qp n = none → Nothing (.rfenceAcknowledge n) st ∧ Nothing (.lastPacketWrite n) st) ∧
    (∀ q, st.hw.qp n = some q → (∀ r ∈ q.rx, r.pkt.psn ≠ q.exp) → Nothing (.rfenceAcknowledge n) st) ∧
    (∀ q p b, st.hw.qp n = some q → q.st = 1 → q.rx = [⟨p, b⟩] → p.psn = q.exp → st.hw.fab.colls = [] →
      (p.op = 7 → st.hw.linkUp q.link = true → Does (.rfenceAcknowledge n) st fun h =>
        (h.qp n).map (fun y => (y.exp, y.rx)) = some (padd q.exp 1, []) ∧ h.answered (q.link / 8) (q.link % 8) 8 0 ∧
          Hw.onlyChanges [.fab, .out, .regs] st.hw.fresh h) ∧
      (p.op = 1 → p.last = true → st.hw.csnOk q p = true → (∀ e ∈ st.hw.fab.qps, ∀ y, e.2 = some y → y.txq = []) →
        ∀ s f r base, (if p.first then some (p.psn, p) else q.msg) = some (s, f) → f.reth = some r →
        st.hw.remote q r rRemWrite = some base → 2048 * pd p.psn s + p.payload.length ≤ r.2.2.2 →
        (b = false → (st.hw.fresh.ncWrite st.ident hintIn false (base + 2048 * pd p.psn s) p.payload).1 = none →
          Does (.lastPacketWrite n) st fun h => (h.qp n).map (fun y => (y.exp, y.rx)) = some (padd q.exp 1, []) ∧
            h.memS = (st.hw.fresh.ncWrite st.ident hintIn false (base + 2048 * pd p.psn s) p.payload).2.memS) ∧
        (b = true → Does (.lastPacketWrite n) st fun h => (h.qp n).map (fun y => (y.exp, y.rx)) = some (padd q.exp 1, []) ∧
          Hw.onlyChanges [.fab] st.hw.fresh h)))) ∧
  (∀ (n : Nat) (st : State),
    (st.hw.qp n = none → ∀ c ∈ [Instr.ackTimer n, .retransmitTimeout n, .rnrRetry n, .pacingIntervalExpiry n], Nothing c st) ∧
    (∀ q, st.hw.qp n = some q → q.st = 1 →
      let c := q.carter
      let rto := max 1 (st.hw.regF (carterReg c 0x208) 0 16) * 1000
      ((∀ t, q.accAt = some t → st.hw.localNs < t + 2000) → Nothing (.ackTimer n) st) ∧
      (∀ t, q.accAt = some t → t + 2000 ≤ st.hw.localNs → st.hw.linkUp q.link = true →
        Does (.ackTimer n) st fun h => h.answered (q.link / 8) (q.link % 8) 8 0 ∧
          (h.qp n).map (fun y => (y.accN, y.accAt)) = some (0, none) ∧ Hw.onlyChanges [.fab, .out, .regs] st.hw.fresh h) ∧
      (q.bad = false → st.hw.localNs < q.adv + rto ∨ st.hw.linkUp q.link = false ∨ st.hw.classOpen q q.fc = false →
        Nothing (.retransmitTimeout n) st) ∧
      (q.bad = true → Does (.retransmitTimeout n) st fun h => (h.qp n).map (·.st) = some 2) ∧
      (q.bad = false → q.out ≠ [] → st.hw.linkUp q.link = true → st.hw.classOpen q q.fc = true → q.rnrAt = none → q.adv + rto ≤ st.hw.localNs →
        (q.retryMax ≤ q.timeouts + 1 → Does (.retransmitTimeout n) st fun h => (h.qp n).map (·.st) = some 2) ∧
        (q.timeouts + 1 < q.retryMax → (∀ t ∈ q.out, t.resp = false) → Does (.retransmitTimeout n) st fun h => ∃ y, h.qp n = some y ∧
          y.timeouts = q.timeouts + 1 ∧ y.adv = st.hw.localNs ∧ y.cwnd = st.hw.cwndMin c ∧
            ∀ t ∈ q.out, ∃ t' ∈ y.txq ++ y.out, t'.pkt = t.pkt)) ∧
      ((∀ t, q.rnrAt = some t → st.hw.localNs < t + st.hw.regF (carterReg c 0x208) 16 16 * 1000) → Nothing (.rnrRetry n) st) ∧
      (∀ t, q.rnrAt = some t → t + st.hw.regF (carterReg c 0x208) 16 16 * 1000 ≤ st.hw.localNs →
        Does (.rnrRetry n) st fun h => (h.qp n).map (·.rnrAt) = some none ∧ h.memS = st.hw.memS) ∧
      (2048 ≤ q.cwnd ∨ st.hw.localNs < q.paced + q.rtt * 2048 / q.cwnd → Nothing (.pacingIntervalExpiry n) st) ∧
      (∀ p, 0 < q.cwnd → q.cwnd < 2048 → q.paced + q.rtt * 2048 / q.cwnd ≤ st.hw.localNs → st.hw.txHead q true = some p →
        Does (.pacingIntervalExpiry n) st fun h =>
          h.out = [Outp.pkt (q.link / 8) (q.link % 8) (st.hw.stamped p.pkt) (st.hw.frame n q (p.cls q) (st.hw.stamped p.pkt))] ∧
          (h.qp n).map (fun y => (y.txq, y.paced)) = some (q.txq.erase p, st.hw.localNs))))

/-- What an answer does at the side that asked (12 R289, R293, R295 to R297, R303), where memory takes its bytes: a response packet
delivers its bytes once and the request completes with the last of them; one that no request awaits closes the queue pair. An ACK moves
the first unacknowledged PSN, takes the credit, and completes the requests it covers; an rnr NAK is waited out, RNR_MAX in a row close;
a NAK of a lost or refused packet sends again from there, one of a refused request or a failed collective closes; CLOSE closes the queue
pair and sends nothing. -/
def Obligations.AnswersCompleteRequests : Prop :=
  ∀ (port link src : Nat) (p : Pkt) (q : Qp) (st : State), st.hw.reaches port link src p q →
    let n := p.dqpn % 2 ^ 20
    let k := pd p.psn q.una
    (∀ i, (p.op = 3 ∧ i = Instr.readResp port link src p) ∨ (p.op = 6 ∧ i = .atomicResp port link src p) →
      let fits (w : WorkReq) : Bool := !w.coll && decide (pd p.psn w.psn < w.span) &&
        (if p.op = 3 then recN w.wr 0 1 == 2 else recN w.wr 0 1 == 4 || recN w.wr 0 1 == 5)
      (q.wrs.find? fits = none → Does i st fun h => (h.qp n).map (·.st) = some 2) ∧
      (∀ w, q.wrs.find? fits = some w →
        let j := pd p.psn w.psn
        let len := if p.op = 3 then recN w.wr 4 4 else 8
        let x := p.payload.take (len - 2048 * j)
        (j ∈ w.got → Does i st fun h => (h.qp n).map (·.wrs) = some q.wrs ∧ h.memS = st.hw.memS) ∧
        (∀ a, j ∉ w.got → st.hw.local_ q (fld (recN w.wr 8 1) 0 6) rWrite (fld (recN w.wr 16 8) 0 48 + 2048 * j) x.length = some a →
          st.hw.takes st.ident a x.length = true →
          (w.got.length + 1 = w.span → Does i st fun h => Hw.wrote st.ident st.hw.fresh h a x ∧
            (h.qp n).map (·.wrs) = some (q.wrs.filter (fun y => y.psn != w.psn || y.coll)) ∧
            (bitAt (recN w.wr 1 1) 0 = true → (⟨n, qpCompl w.wr 0 n len 0 st.hw.bellNs⟩ : Compl) ∈ h.compl)) ∧
          (w.got.length + 1 ≠ w.span → Does i st fun h => Hw.wrote st.ident st.hw.fresh h a x ∧
            (h.qp n).map (·.wrs) = some (q.wrs.map (fun y => if y.psn = w.psn ∧ !y.coll then { w with got := j :: w.got } else y)))))) ∧
    (∀ sack credit reason, p.aeth = some (sack, credit, reason) → q.sentPsn p.psn = true → k < 2 ^ 23 →
      (p.op = 8 → 0 < k → Does (.ack port link src p) st fun h => (h.qp n).map (fun y => (y.una, y.credit)) = some (p.psn, credit % 65536) ∧
        ∀ w ∈ q.wrs, w.coll = false → [0, 1, 7].contains (recN w.wr 0 1) = true → { q with una := p.psn }.acked w.psn w.span = true →
          bitAt (recN w.wr 1 1) 0 = true → (⟨n, qpCompl w.wr 0 n (recN w.wr 4 4) 0 st.hw.bellNs⟩ : Compl) ∈ h.compl) ∧
      (p.op = 9 → (reason = 4 ∨ reason = 5) → 0 < k → Does (.nak port link src p) st fun h =>
        (h.qp n).map (fun y => (y.una, y.credit, y.st)) = some (p.psn, credit % 65536, 1)) ∧
      (p.op = 9 → reason = 6 → k = 0 → q.rnrs + 1 < q.rnrMax → Does (.nak port link src p) st fun h =>
        (h.qp n).map (fun y => (y.rnrs, y.rnrAt, y.out)) = some (q.rnrs + 1, some st.hw.localNs, [])) ∧
      (p.op = 9 → reason = 6 → k = 0 → q.rnrMax ≤ q.rnrs + 1 → Does (.nak port link src p) st fun h =>
        (h.qp n).map (·.st) = some 2) ∧
      (p.op = 9 → reason ∈ [1, 2, 3, 7] → Does (.nak port link src p) st fun h => (h.qp n).map (·.st) = some 2)) ∧
    (p.op = 10 → Does (.close port link src p) st fun h => (h.qp n).map (fun y => (y.st, y.wrs)) = some (2, []) ∧ h.out = [])

/-- Link control shows its contents in LINK_STATUS, but for a blacklisted partner's frame, which is dropped and counted, and is sent with
the module's serial (12 R278, R303, R305). A link that goes down holds from that time, its queue pairs waiting; at HOLD_US it is down, a
queue pair whose alternate is up moves there, and every other one closes (R279). A link of a lit port that trains is up, and one of a
port that is off or dark stays down (01 R23). Writing ENABLE = 1 arms the lease: its deadline is TERM_MS from now on the local clock
(R306), a term of 0 counting as 1 (Table 12-21); until the deadline it does not lapse. At the deadline it does: it is disarmed and shown
lapsed, no queue pair is ready any more, the module is in its fallow reset, and with HOST set the host is in reset (R307); while a
decision of the watchman more severe than a fallow reset is in progress, only the lease itself ends (17 R403). -/
def Obligations.FabricLinksAndTheLeaseRunTheirTime : Prop :=
  (∀ (port link : Nat) (st : State), port < 16 → link < 8 →
    let k := 8 * port + link
    (st.hw.linkUp k = true →
      Does (.linkDown port link) st (fun h => (h.flink k).st = 3 ∧ (h.flink k).since = st.hw.localNs ∧
        h.fab.qps = st.hw.fab.qps ∧ (∀ j, j ≠ k → h.flink j = st.hw.flink j) ∧ Hw.onlyChanges [.fab] st.hw.fresh h) ∧
      (∀ serial pp pl, st.hw.portMode port = 0 →
        (st.hw.blacklisted k = false → Does (.linkControlFrame port link serial pp pl) st fun h =>
          (h.flink k).peerId = serial % 2 ^ 32 ∧ (h.flink k).peerPort = pp % 16 ∧ (h.flink k).peerLink = pl % 8 ∧
          (h.flink k).st = (st.hw.flink k).st ∧ Hw.onlyChanges [.fab] st.hw.fresh h) ∧
        (st.hw.blacklisted k = true → Does (.linkControlFrame port link serial pp pl) st fun h =>
          h.regF (carterReg port 0x228) 0 40 = min (st.hw.regF (carterReg port 0x228) 0 40 + 1) (2 ^ 40 - 1) ∧
          Hw.onlyChanges [.regs] st.hw.fresh h)) ∧
      (st.hw.portMode port = 0 → Does (.linkControlSend port link) st fun h =>
        h.out = [Outp.linkControl port link (Config.serial.toNat % 2 ^ 32)] ∧ Hw.onlyChanges [.out] st.hw.fresh h)) ∧
    (st.hw.linkUp k = false → Nothing (.linkDown port link) st ∧ Nothing (.linkControlSend port link) st ∧
      (st.hw.portMode port < 2 → link < st.hw.portLinks port → st.hw.optics port = true →
        Does (.linkUp port link) st fun h => (h.flink k).st = 2 ∧
          (∀ j, j ≠ k → h.flink j = st.hw.flink j) ∧ Hw.onlyChanges [.fab, .out, .regs] st.hw.fresh h)) ∧
    (st.hw.linkUp k = true ∨ 2 ≤ st.hw.portMode port ∨ st.hw.portLinks port ≤ link ∨ st.hw.optics port = false →
      Nothing (.linkUp port link) st) ∧
    (let due := (st.hw.flink k).since + st.hw.regF (carterReg port 0x208) 56 8 * 1000
     ((st.hw.flink k).st ≠ 3 ∨ st.hw.localNs < due → Nothing (.linkHoldExpiry port link) st) ∧
     ((st.hw.flink k).st = 3 → due ≤ st.hw.localNs → Does (.linkHoldExpiry port link) st fun h => (h.flink k).st = 0 ∧
        ∀ n q, st.hw.qp n = some q → q.st = 1 → q.link = k →
          (q.alt = true ∨ q.altEn = false ∨ st.hw.linkUp q.alink = false → (h.qp n).map (·.st) = some 2) ∧
          ∃ y, h.qp n = some y ∧ (y.st = 2 ∨ y.alt = true)))) ∧
  ((∀ (v : Word) (st : State), bitAt v.toNat 63 = true → (∀ x ∈ st.hw.shadow, x.1 < leaseReg ∨ leaseReg + 8 ≤ x.1) →
    Does (.leaseEnable v) st fun h => h.fab.leaseSt = 1 ∧ h.leaseOn = true ∧
      h.fab.leaseAt = st.hw.localNs + max 1 (v.toNat % 2 ^ 32) * 1000000 ∧ h.fab.epoch = st.hw.fab.epoch ∧
      Hw.onlyChanges [.regs, .shadow, .fab] st.hw.fresh h) ∧
  ∀ st : State,
    (st.hw.leaseOn = false ∨ st.hw.localNs < st.hw.fab.leaseAt → Nothing .leaseLapse st) ∧
    (st.hw.leaseOn = true → st.hw.fab.leaseAt ≤ st.hw.localNs → 3 < st.hw.power.sev →
      Does .leaseLapse st fun h => h.leaseOn = false ∧ h.fab = { st.hw.fab with leaseSt := 2 } ∧ Hw.onlyChanges [.regs, .fab] st.hw.fresh h) ∧
    (st.hw.leaseOn = true → st.hw.fab.leaseAt ≤ st.hw.localNs → st.hw.power.sev ≤ 3 →
      Does .leaseLapse st fun h => h.leaseOn = false ∧ h.fab.leaseSt = 2 ∧ h.boot.fallow ≠ 0 ∧
        (∀ n y, h.qp n = some y → y.st ≠ 1) ∧ (st.hw.regF leaseReg 62 1 = 1 → h.hostReset = true)))

/-- The carter fetches the work request at the head of a ready queue pair's queue (12 R287, R289): a request that Table 12-7 permits starts,
with the next PSNs, its first packet sent or waiting; one whose fields are wrong, or whose opcode no send queue takes, completes with
0x41 and closes the queue pair. A fenced one waits for the reads and atomics before it. A receive request is posted. While the
accelerator side is held in reset none is fetched (01 R27); a queue pair whose buffers hold an uncorrectable error closes where the
carter would use them (18 R408). `h₀` is the module with the request taken off its queue, from which the carter reads the bytes to send. -/
def Obligations.WorkRequestsStart : Prop :=
  ∀ (n : Nat) (q : Qp) (w : List Byte) (st : State), st.hw.qp n = some q → q.st = 1 →
    (st.hw.accelHeld = true → ∀ i ∈ [Instr.sendWorkRequest n, .writeWorkRequest n, .readWorkRequest n, .faddWorkRequest n,
      .casWorkRequest n, .rfenceWorkRequest n, .recvWorkRequest n], Nothing i st) ∧
    (st.hw.accelHeld = false → q.bad = true → ∀ i ∈ [Instr.sendWorkRequest n, .writeWorkRequest n, .readWorkRequest n, .faddWorkRequest n,
      .casWorkRequest n, .rfenceWorkRequest n, .recvWorkRequest n], Does i st fun h => (h.qp n).map (·.st) = some 2) ∧
    (st.hw.accelHeld = false → q.bad = false → (st.hw.fresh.wrHead st.ident n 1).1 = some w →
      let h₀ := (st.hw.fresh.wrHead st.ident n 1).2.wrTake st.ident n
      let failed (h : Hw) : Prop := (h.qp n).map (·.st) = some 2 ∧ (⟨n, qpCompl w 0x41 n 0 1 st.hw.bellNs⟩ : Compl) ∈ h.compl
      let started (k : Nat) (h : Hw) : Prop := ∃ y j, h.qp n = some y ∧
        y.wrs = q.wrs ++ [⟨j, w, q.nextPsn, k, [], false⟩] ∧ y.nextPsn = padd q.nextPsn k ∧
        ∃ t ∈ y.txq ++ y.out, t.pkt.op = wrOp w ∧ t.pkt.psn = padd q.nextPsn 0
      ((bitAt (recN w 1 1) 1 && q.wrs.any (fun x => [2, 4, 5].contains (wrOp x.wr))) = false →
        (wrOp w ∉ sendOps → Does (.sendWorkRequest n) st failed) ∧
        (∀ e ∈ [(0, Instr.sendWorkRequest n), (1, .writeWorkRequest n), (2, .readWorkRequest n), (4, .faddWorkRequest n),
            (5, .casWorkRequest n), (7, .rfenceWorkRequest n), (0xC, .collWorkRequest n)], wrOp w = e.1 → wrOk false w = false →
          (wrOp w = 0xC → st.hw.coll (fld (recN w 32 1) 0 6) = none) → Does e.2 st failed) ∧
        (wrOk false w = true →
          (wrOp w = 0 → wrLen w = 0 → Does (.sendWorkRequest n) st (started 1)) ∧
          (∀ e ∈ [(0, Instr.sendWorkRequest n), (1, .writeWorkRequest n)], ∀ a x h₁, wrOp w = e.1 → wrLen w ≠ 0 →
            h₀.local_ q (wrLwin w) rRead (wrLoff w) (wrLen w) = some a →
            h₀.carterRead st.ident q.carter q.ctx a (wrLen w) = (some x, h₁) → Does e.2 st (started (max 1 (cdivF x.length)))) ∧
          (wrOp w = 2 → (h₀.local_ q (wrLwin w) rWrite (wrLoff w) (wrLen w)).isSome = true →
            Does (.readWorkRequest n) st (started (cdivF (wrLen w)))) ∧
          (∀ e ∈ [(4, Instr.faddWorkRequest n), (5, .casWorkRequest n)], wrOp w = e.1 →
            (h₀.local_ q (wrLwin w) rWrite (wrLoff w) 8).isSome = true → Does e.2 st (started 1)) ∧
          (wrOp w = 7 → Does (.rfenceWorkRequest n) st (started 1)))) ∧
      (bitAt (recN w 1 1) 1 = true → q.wrs.any (fun x => [2, 4, 5].contains (wrOp x.wr)) = true →
        ∀ i ∈ [Instr.sendWorkRequest n, .writeWorkRequest n, .readWorkRequest n, .faddWorkRequest n, .casWorkRequest n,
          .rfenceWorkRequest n], Does i st fun h => h.qp n = some q)) ∧
    (st.hw.accelHeld = false → q.bad = false → (st.hw.fresh.wrHead st.ident q.rq 2).1 = some w →
      let h₀ := (st.hw.fresh.wrHead st.ident q.rq 2).2.wrTake st.ident q.rq
      (wrOk true w = true → (wrLen w = 0 ∨ (h₀.local_ q (wrLwin w) rWrite (wrLoff w) (wrLen w)).isSome = true) →
        Does (.recvWorkRequest n) st fun h => (h.qp n).map (·.posted) = some (q.posted ++ [w])) ∧
      (wrOk true w = false → Does (.recvWorkRequest n) st fun h => (h.qp n).map (·.st) = some 2))

/-- A collective starts when its group is enabled in the context, its windows permit it and the rank map names a ready queue pair at every
other rank: it takes the group's next CSEQ and its rank map is the group's (12 R299, R301); `h₀` is the module with the request taken
off its queue, from which the carter reads the map and the operands. One of a group that is not enabled completes with 0x41. One whose
group already runs a collective waits (notes/assumptions/21). A node of the reduction is combined once both operands of the chunk are
here, and the sum goes where its parent is combined, here or in a REDUCE packet, or is written as the result at the root (R300). Before
that nothing happens. -/
def Obligations.CollectivesRun : Prop :=
  (∀ (n : Nat) (q : Qp) (w : List Byte) (st : State), st.hw.qp n = some q → q.st = 1 → q.bad = false → st.hw.accelHeld = false →
    (st.hw.fresh.wrHead st.ident n 1).1 = some w → wrOp w = 0xC → wrOk false w = true → bitAt (recN w 1 1) 1 = false →
    let h₀ := (st.hw.fresh.wrHead st.ident n 1).2.wrTake st.ident n
    let g := fld (recN w 32 1) 0 6
    let grp := st.hw.grp g
    let nn := grp.size
    let seg := segOf (collE w) nn grp.rank
    let outN := if collKind w = 0 then seg.2 else collE w
    (st.hw.coll g ≠ none → Nothing (.collWorkRequest n) st) ∧
    (st.hw.coll g = none →
      (grp.st = 0 ∨ grp.ctx ≠ q.ctx → Does (.collWorkRequest n) st fun h => (h.qp n).map (·.st) = some 2 ∧
        (⟨n, qpCompl w 0x41 n 0 1 st.hw.bellNs⟩ : Compl) ∈ h.compl) ∧
      (∀ ma ia oa mb h₁, grp.st ≠ 0 → grp.ctx = q.ctx → h₀.local_ q (wrLwin w) rRead (recN w 40 8) (4 * nn) = some ma →
        h₀.local_ q (wrLwin w) rRead (wrLoff w) (collE w * collIn w) = some ia →
        h₀.local_ q (wrRwin w) rWrite (wrRoff w) (outN * collOut w) = some oa →
        h₀.carterRead st.ident q.carter q.ctx ma (4 * nn) = (some mb, h₁) →
        let m := (List.range nn).map (fun k => recN mb (4 * k) 4)
        let rd : Nat × Nat := if collKind w = 2 then (ia + seg.1 * collIn w, seg.2 * collIn w) else (ia, collE w * collIn w)
        st.hw.mapOk q.ctx grp.rank m = true → rd.2 = 0 ∨ (h₁.carterRead st.ident q.carter q.ctx rd.1 rd.2).1.isSome = true →
        Does (.collWorkRequest n) st fun h => SMap.get 0 h.fab.cseq g = SMap.get 0 st.hw.fab.cseq g + 1 ∧ SMap.get [] h.fab.maps g = m))) ∧
  (∀ (g j a b chunk : Nat) (c : Coll) (st : State), st.hw.coll g = some c → collKind c.wr < 2 → j < c.n → b ≤ c.n → a + 2 ≤ b →
    (a + j) % c.n = c.r → (∀ e ∈ st.hw.fab.colls, ∀ x, e.2 = some x → x.left ≠ 0) →
    let lo := 512 * chunk
    let hi := min (lo + 512) (segOf (collE c.wr) c.n j).2
    let m := splitOf a b
    let l (i : Nat) : Option Word := SMap.get none (SMap.get [] c.ops (nodeKey j a m)) (lo + i)
    let r (i : Nat) : Option Word := SMap.get none (SMap.get [] c.ops (nodeKey j m b)) (lo + i)
    let sum (i : Nat) : Word := pairWord ((wordPair ((l i).getD 0)).comb (wordPair ((r i).getD 0)))
    lo < hi →
    ((∃ i < hi - lo, l i = none ∨ r i = none) → Nothing (.collectiveCombine g j a b chunk) st) ∧
    ((∀ i < hi - lo, (l i).isSome = true ∧ (r i).isSome = true) →
      (∀ pr, ¬ (a = 0 ∧ b = c.n) → parentOf 17 0 c.n a b = some pr →
        ((pr.1 + j) % c.n = c.r → Does (.collectiveCombine g j a b chunk) st fun h =>
          ∃ y, h.coll g = some y ∧ y.todo = c.todo - 1 ∧
            ∀ i < hi - lo, SMap.get none (SMap.get [] y.ops (nodeKey j a b)) (lo + i) = some (sum i)) ∧
        (∀ v y, (pr.1 + j) % c.n ≠ c.r → c.map[(pr.1 + j) % c.n]? = some v → st.hw.qp v = some y →
          Does (.collectiveCombine g j a b chunk) st fun h => ∃ y', h.qp v = some y' ∧ ∃ t ∈ y'.txq ++ y'.out, t.pkt.op = 0xC)) ∧
      (a = 0 → b = c.n → Does (.collectiveCombine g j a b chunk) st fun h =>
        ∃ h₀, Hw.onlyChanges [.fab] st.hw.fresh h₀ ∧
          let ctx := (st.hw.qp c.qpn).elim 0 Qp.ctx
          let off := (if collKind c.wr = 0 then lo else (segOf (collE c.wr) c.n j).1 + lo) * collOut c.wr
          let x := ((List.range (hi - lo)).map sum).flatMap (resultBytes (collOform c.wr))
          h.memS = (h₀.collWrite st.ident ctx c.wr off x).memS ∧
            (h₀.collHome st.ident ctx c.wr off x = true → hi - lo < c.left → (h.coll g).map (·.left) = some (c.left - (hi - lo))))))

/-! ## Work and swaps (15, 16) -/

/-- A store to a queue's doorbell moves TAIL, or HEAD of a completion queue, to the value stored; one that would pass the ring's
size breaks the queue with REASON 0x02; one that repeats the index or goes back does nothing, nor one of another width or offset (15
R367). A completion that waits is written at TAIL of its completion queue once there is room, which moves on; while the queue is
full it waits; when the completion queue is broken or free it is lost, and the producer breaks with REASON 0x04 (15 R366); one of a
producer freed meanwhile is dropped. What is open on a descriptor's line completes first (10 R242), so the new values are those of a
quiet roll. -/
def Obligations.QueuesMoveTheirIndices : Prop :=
  (∀ (q width off v : Nat) (st : State),
    let d := st.hw.q st.ident q
    let k := sub32 (v % 2 ^ 32) d.x
    let bytes (h : Hw) : List Byte := h.memS.mem.bytes (qAddr st.ident q) 64
    let good := q < 2 ^ 20 ∧ off = 0 ∧ (width = 8 ∨ width = 4) ∧ st.hw.inReset = false
    (¬ good → Nothing (.doorbellWrite q width off v) st) ∧
    (good → CompletesWithin (.doorbellWrite q width off v) (.bitmap :: memoryParts) st) ∧
    (st.hw.quiet = true → d.st ≠ 1 ∨ k = 0 ∨ 2 ^ 31 ≤ k → Nothing (.doorbellWrite q width off v) st) ∧
    (st.hw.quiet = true → good → d.st = 1 → k ≠ 0 → k < 2 ^ 31 →
      (d.kind ≠ 3 → 2 ^ d.log2n < sub32 (v % 2 ^ 32) d.head → Does (.doorbellWrite q width off v) st fun h =>
        bytes h = { d with st := 2, reason := 0x02 }.bytes ∧ Hw.onlyChanges [.memS] st.hw.fresh h) ∧
      (d.kind ≠ 3 → sub32 (v % 2 ^ 32) d.head ≤ 2 ^ d.log2n → Does (.doorbellWrite q width off v) st fun h =>
        bytes h = { d with tail := v % 2 ^ 32, arrivals := d.arrivals + k }.bytes ∧ SMap.get false h.bitmap q = true ∧
          Hw.onlyChanges [.memS, .bitmap] st.hw.fresh h) ∧
      (d.kind = 3 → sub32 d.tail (v % 2 ^ 32) < 2 ^ 31 → Does (.doorbellWrite q width off v) st fun h =>
        bytes h = { d with head := v % 2 ^ 32 }.bytes ∧ Hw.onlyChanges [.memS] st.hw.fresh h))) ∧
  (∀ (q : Nat) (c : Compl) (st : State), st.hw.compl.find? (·.prod == q) = some c →
    let d := st.hw.q st.ident q
    let cq := st.hw.q st.ident d.cq
    (d.st = 0 → Does (.completionWrite q) st fun h => h.compl = dropCompl q st.hw.compl ∧ Hw.onlyChanges [.compl] st.hw.fresh h) ∧
    (d.st ≠ 0 → cq.st = 1 → cq.kind = 3 → st.hw.ringOk cq = true →
      (2 ^ cq.log2n ≤ cq.depth → Nothing (.completionWrite q) st) ∧
      (cq.depth < 2 ^ cq.log2n → st.hw.settled = true → st.hw.clean = true → (st.hw.fresh.ncWrite st.ident 0 false (st.hw.slotAddr cq cq.tail) c.bytes).1 = none →
        Does (.completionWrite q) st fun h => h.compl = dropCompl q st.hw.compl ∧ (h.q st.ident d.cq).tail = add32 cq.tail 1)) ∧
    (cq.st ≠ 1 ∨ cq.kind ≠ 3 → d.st = 1 → st.hw.quiet = true → (∀ n y, st.hw.qp n = some y → n ≠ q ∧ y.rq ≠ q) →
      Does (.completionWrite q) st fun h => h.compl = dropCompl q st.hw.compl ∧ (h.q st.ident q).st = 2 ∧ (h.q st.ident q).reason = 0x04))

/-! ## The bell (13) -/

/-- An offset correction within SLEW_MAX is slewed, and bell time stands until it is absorbed; a larger one, and BELL_STEP_TO, step the
count at once, discard the slew and unlock (13 R312, R313). A slew is absorbed at 6 units of 2^-16 ns a nanosecond, which with the time
that SLEW_DONE lets pass is the model's reading (notes/assumptions/29). A 1PPS edge under SRC = PPS shows its error, saturated, and
moves NEXT_PPS a second on (R311). A locked bell whose source is quiet is in holdover (R313). A PTP message that arrives while the rings
are on and its link is up takes the next receive entry, with its bytes from byte 40; one that finds the ring full is counted, and one of
a blacklisted partner is dropped (13 R314, R315, 12 R303). The next transmit entry is sent on its link, or marked rejected; either way
the ring moves on. While the module is in reset none of this happens (21 R472). -/
def Obligations.BellTimeIsCorrectedAndCarried : Prop :=
  (∀ st : State, st.hw.inReset = true → ∀ i : Instr,
    ((∃ v, i = .bellOffsetWrite v) ∨ (∃ v, i = .bellStepTo v) ∨ i = .slewDone ∨ i = .ppsPulse ∨ (∃ lost, i = .holdoverEntry lost) ∨
      (∃ port link m, i = .ptpRx port link m) ∨ i = .ptpTx) → Nothing i st) ∧
  (∀ st : State, st.hw.inReset = false →
    let cfg := st.hw.reg (bellReg 0x18)
    let b := st.hw.bell
    (∀ v : Word, let sum := b.slew + sgn 64 v.toNat
      (sum.natAbs ≤ fld cfg 0 32 * 65536 → Does (.bellOffsetWrite v) st fun h => h.bell.slew = sum ∧ h.bellNs = st.hw.bellNs ∧
        h.bell.quietAt = (if fld cfg 62 2 = 1 then st.hw.localNs else b.quietAt) ∧ h.bell.seen = (b.seen || fld cfg 62 2 == 1) ∧
        Hw.onlyChanges [.bell] st.hw.fresh h) ∧
      (fld cfg 0 32 * 65536 < sum.natAbs → Does (.bellOffsetWrite v) st fun h => h.bell.slew = 0 ∧ h.bell.lock = 0 ∧
        h.bellNs = (st.hw.bell16 + sum).toNat / 65536 % 2 ^ 64 ∧ h.localNs = st.hw.localNs)) ∧
    (∀ v : Word, Does (.bellStepTo v) st fun h => h.bellNs = v.toNat ∧ h.bell.frac = 0 ∧ h.bell.slew = 0 ∧ h.bell.lock = 0 ∧
      h.bell.lastStep = roundNs (v.toNat * 65536 - st.hw.bell16) ∧ h.localNs = st.hw.localNs ∧
      Hw.onlyChanges [.bell, .bellNs, .regs] st.hw.fresh h) ∧
    (b.slew = 0 → Nothing .slewDone st) ∧
    (b.slew ≠ 0 → Does .slewDone st fun h => h.bell.slew = 0 ∧ h.localNs = st.hw.localNs + (b.slew.natAbs + 5) / 6) ∧
    (fld cfg 62 2 ≠ 2 → Nothing .ppsPulse st) ∧
    (fld cfg 62 2 = 2 → Does .ppsPulse st fun h =>
      h.bell.lastErr = max (-2147483648) (min 2147483647 (roundNs (st.hw.reg (bellReg 0x38) * 65536 - st.hw.bell16))) ∧
      h.reg (bellReg 0x38) = (st.hw.reg (bellReg 0x38) + 1000000000) % 2 ^ 64 ∧ h.bell.seen = true ∧ h.bell.quietAt = st.hw.localNs) ∧
    (∀ lost, let quiet := (fld cfg 62 2 = 1 ∧ b.seen = true ∧ b.quietAt + fld cfg 42 16 * 1000000 ≤ st.hw.localNs) ∨
        (fld cfg 62 2 = 2 ∧ (lost = true ∨ (b.seen = true ∧ b.quietAt + 2000000000 ≤ st.hw.localNs)))
      (b.lock = 1 → quiet → Does (.holdoverEntry lost) st fun h => h.bell = { b with lock := 2 } ∧
        Hw.onlyChanges [.bell] st.hw.fresh h) ∧
      (b.lock ≠ 1 ∨ ¬ quiet → Nothing (.holdoverEntry lost) st))) ∧
  (∀ st : State, st.hw.inReset = false →
    (∀ (port link : Nat) (m : PtpMsg), port < 16 → link < 8 →
      let full := 128 ≤ (st.hw.bell.rxHead + 65536 - st.hw.regF (bellReg 0x50) 32 16) % 65536
      (st.hw.regF (bellReg 0x48) 63 1 = 0 ∨ st.hw.linkUp (8 * port + link) = false → Nothing (.ptpRx port link m) st) ∧
      (st.hw.regF (bellReg 0x48) 63 1 = 1 → st.hw.linkUp (8 * port + link) = true →
        st.hw.blacklisted (st.hw.partner port link (beNat m.ip6)) = true →
        Does (.ptpRx port link m) st fun h => Hw.onlyChanges [.regs] st.hw.fresh h ∧
          h.regF (carterReg port 0x228) 0 40 = min (st.hw.regF (carterReg port 0x228) 0 40 + 1) (2 ^ 40 - 1)) ∧
      (st.hw.regF (bellReg 0x48) 63 1 = 1 → st.hw.linkUp (8 * port + link) = true →
        st.hw.blacklisted (st.hw.partner port link (beNat m.ip6)) = false →
        (full → Does (.ptpRx port link m) st fun h => h.regF (bellReg 0x40) 48 8 = min (st.hw.regF (bellReg 0x40) 48 8 + 1) 255 ∧
          Hw.onlyChanges [.regs] st.hw.fresh h) ∧
        (¬ full → Does (.ptpRx port link m) st fun h => h.bell = { st.hw.bell with rxHead := (st.hw.bell.rxHead + 1) % 65536 } ∧
          ∃ e : List Byte, e.length = 256 ∧ e.drop 40 = subB m.msg 0 216 ∧
            h.memS = (st.hw.fresh.ncWrite st.ident 0 false (st.hw.ptpBase + 256 * (st.hw.bell.rxHead % 128)) e).2.memS))) ∧
    (st.hw.regF (bellReg 0x48) 63 1 = 0 ∨ st.hw.regF (bellReg 0x50) 16 16 = st.hw.bell.txTail → Nothing .ptpTx st) ∧
    (∀ e h₁, st.hw.regF (bellReg 0x48) 63 1 = 1 → st.hw.regF (bellReg 0x50) 16 16 ≠ st.hw.bell.txTail →
      st.hw.fresh.ncRead st.ident 0 (st.hw.ptpBase + 0x8000 + 256 * (st.hw.bell.txTail % 128)) 256 = (.ok e, h₁) →
      let p := fld (recN e 10 1) 0 4
      let l := fld (recN e 10 1) 4 3
      (recN e 12 2 = 0 ∨ 216 < recN e 12 2 ∨ recN e 14 2 ≠ 0 → Does .ptpTx st fun h =>
        (∀ p l m d, Outp.ptp p l m d ∉ h.out) ∧ h.bell.txTail = (st.hw.bell.txTail + 1) % 65536) ∧
      (recN e 10 1 < 128 → recN e 11 1 < 8 → recN e 14 2 = 0 → recN e 38 2 = 0 → 1 ≤ recN e 12 2 → recN e 12 2 ≤ 216 →
        st.hw.linkUp (8 * p + l) = true → Does .ptpTx st fun h => h.bell.txTail = (st.hw.bell.txTail + 1) % 65536 ∧
          ∃ m : PtpMsg, Outp.ptp p l m (subB e 32 6) ∈ h.out ∧ m.msg = subB e 40 (recN e 12 2))))

/-- Writing E_CTRL with ARMED = 1 to an idle entry arms it when it passes the checks of 13 R319, and an entry whose D has passed
falls due late (R323); else BAD is set and a record of class 0x13 is written (R319). A running entry's other fields stand (R325).
The first instance that is due, or late, issues when its entry's turn comes, once, and performs its entry's action (13 R317, R320,
R323): a gate action closes its classes at the carters named, an operating-point action sets its context's preference for a unit and is
busy until the grant (notes/assumptions/87), an interrupt action makes its identity pending at a running hart, a census action that
finds a census running is coalesced and does nothing else (R320, R321), as is a late instance that finds its target busy (R323); a
TITHE addressed to a swapping tile waits at the tile (16 R479). With nothing due nothing happens. -/
def Obligations.BellEntriesArmAndIssue : Prop :=
  (∀ (hart i : Nat) (v : Word) (st : State), i < 4096 → bitAt v.toNat 63 = true →
    let w := v.toNat &&& 0x40FFF0FFFFFFFFFF
    let h₁ := st.hw.fresh.setReg (eCtrl i) w
    let armed (h : Hw) : Prop := SMap.get false h.bell.bad i = false ∧ h.reg (eArg i) = st.hw.reg (eArg i) ∧
      Hw.onlyChanges [.regs, .bell] st.hw.fresh h
    (st.hw.eIdle i = true →
      (∀ o, h₁.armBad i = some o → Does (.bellEntryArm hart i v) st fun h => h.eArmed i = false ∧
        SMap.get false h.bell.bad i = true ∧ ∃ r : ErrRec, r.cls = 0x13 ∧ h.errOut = st.hw.errOut ++ [r]) ∧
      (h₁.armBad i = none → st.hw.bellNs < st.hw.reg (eDue i) → Does (.bellEntryArm hart i v) st fun h => armed h ∧
        h.eArmed i = true ∧ h.bell.due = st.hw.bell.due) ∧
      (h₁.armBad i = none → st.hw.reg (eDue i) ≤ st.hw.bellNs →
        (h₁.eBusy i = false → Does (.bellEntryArm hart i v) st fun h => armed h ∧ ∃ d ∈ h.bell.due, d.entry = i ∧ d.late = true) ∧
        (h₁.eBusy i = true → Does (.bellEntryArm hart i v) st fun h => SMap.get false h.bell.bad i = false ∧ h.bell.due = st.hw.bell.due ∧
          h.regF (eStat i) 32 16 = min (st.hw.regF (eStat i) 32 16 + 1) 0xFFFF ∧ Hw.onlyChanges [.regs, .bell, .chron] st.hw.fresh h))) ∧
    (st.hw.eArmed i = true →
      (w = st.hw.reg (eCtrl i) % 2 ^ 63 → Nothing (.bellEntryArm hart i v) st) ∧
      (w ≠ st.hw.reg (eCtrl i) % 2 ^ 63 → ∃ r : ErrRec, r.cls = 0x01 ∧ Does (.bellEntryArm hart i v) st fun h =>
        h.errOut = st.hw.errOut ++ [r] ∧ Hw.onlyChanges [.errOut] st.hw.fresh h))) ∧
  (∀ (i : Nat) (late : Bool) (st : State), (∀ j ∈ st.hw.armed, st.hw.missed j = 0) → st.hw.bell.waitT.contains i = false →
    (∀ e ∈ st.hw.bell.waitAll, e.1 ≠ i) → ∀ c, c = (if late then Instr.lateFiring i else .bellEntryIssue i) →
      let arg := st.hw.reg (eArg i)
      let first := st.hw.bell.due.find? (fun d => d.late == late)
      (first.map (·.entry) ≠ some i → Nothing c st) ∧
      (∀ d, first = some d → d.entry = i →
        (st.hw.eAction i = 4 → st.hw.accelHeld = false → Does c st fun h => h.bell.due = st.hw.bell.due.erase d ∧
          ∀ k < 16, h.reg (carterReg k 0x220) =
            if bitAt arg k then st.hw.reg (carterReg k 0x220) &&& (0xFF - fld arg 17 7 * 2) else st.hw.reg (carterReg k 0x220)) ∧
        (st.hw.eAction i = 5 → st.hw.bell.opp.contains i = false → st.hw.eGlobal i = false → (st.hw.ctx (st.hw.eCtx i)).st ≠ 0 →
          Does c st fun h => h.bell.due = st.hw.bell.due.erase d ∧ h.bell.opp = st.hw.bell.opp ++ [i] ∧
            SMap.get 1 (h.ctx (st.hw.eCtx i)).prefs (fld arg 0 3) = fld arg 4 3) ∧
        (st.hw.eAction i = 0xB → fld arg 22 2 = 0 → fld arg 0 11 ≠ 0 → st.hw.hartOn (fld arg 16 6) = true →
          Does c st fun h => h.bell.due = st.hw.bell.due.erase d ∧
            SMap.get false h.boot.imsic (2048 * (9 * fld arg 16 6) + fld arg 0 11) = true) ∧
        (st.hw.eAction i = 8 → st.hw.obs.census ≠ none → Does c st fun h => h.bell.due = st.hw.bell.due.erase d ∧
          h.regF (eStat i) 32 16 = min (st.hw.regF (eStat i) 32 16 + 1) 0xFFFF ∧
          Hw.onlyChanges [.bell, .regs, .chron] st.hw.fresh h) ∧
        (st.hw.eAction i = 9 → st.hw.eBusy i = false → st.hw.titheHeld st.ident i = true → Does c st fun h =>
          h.bell.due = st.hw.bell.due.erase d ∧ h.bell.waitT = st.hw.bell.waitT ++ [i] ∧ h.tithe = st.hw.tithe ∧
            Hw.onlyChanges [.bell, .regs, .chron] st.hw.fresh h)))

/-! ## The mill (14) -/

/-- Enabling a chute that is off reads its record; with every field as it must be the chute runs with it and fresh indices, else it
stays off with REASON bad-record and a record of class 0x13 (14 R326). A running chute refuses a different CHUTE_CTRL. While the
accelerator side is held in reset these writes do nothing (01 R27; notes/assumptions/90 names them). Disabling
stops it, abandoning its samples (R347). The indices software moves (14 R327, R344): TAIL takes the value written unless it would
pass the ring's size, FREED unless it would pass RELEASED; then the write is ignored. A batch begins when its area of the hopper is
free, with nothing in it (R338). -/
def Obligations.ChutesRunAndMoveTheirIndices : Prop :=
  (∀ (hart c : Nat) (v : Word) (st : State), c < 16 →
    let pa := millReg c 0
    let w := v.toNat &&& 0x8FFFFFFFFFFFFFFF
    let x := st.hw.chute c
    (bitAt v.toNat 63 = true → st.hw.accelHeld = true → Nothing (.chuteEnable hart c v) st) ∧
    (bitAt v.toNat 63 = true → st.hw.accelHeld = false →
      (x.on = true → w = st.hw.reg pa → Nothing (.chuteEnable hart c v) st) ∧
      (x.on = true → w ≠ st.hw.reg pa → ∃ r : ErrRec, r.cls = 0x01 ∧ Does (.chuteEnable hart c v) st fun h =>
        h.errOut = st.hw.errOut ++ [r] ∧ Hw.onlyChanges [.errOut] st.hw.fresh h) ∧
      (∀ r h₁, x.on = false → (st.hw.win (fld w 48 12) (fld w 0 6)).isDoorbell = false →
        ((st.hw.fresh.setReg pa w).modChute c (fun x => { x with ctx := fld w 48 12 })).chuteRead st.ident c (fld w 0 6)
          (fld w 6 42 * 64) 128 = (.ok r, h₁) →
        (h₁.chuteBad st.ident (fld w 48 12) r = none → Does (.chuteEnable hart c v) st fun h =>
          h.chute c = { Chute.init with on := true, rcd := r, ctx := fld w 48 12 } ∧ h.ringTail c = 0 ∧ h.freed c = 0 ∧
            ∀ k, k ≠ c → h.chute k = st.hw.chute k) ∧
        (∀ o, h₁.chuteBad st.ident (fld w 48 12) r = some o → Does (.chuteEnable hart c v) st fun h =>
          (h.chute c).on = false ∧ (h.chute c).reason = 1 ∧ h.regF pa 63 1 = 0 ∧
            ∃ e : ErrRec, e.cls = 0x13 ∧ h.errOut = h₁.errOut ++ [e]))) ∧
    (bitAt v.toNat 63 = false → st.hw.accelHeld = true → Nothing (.chuteDisable hart c v) st) ∧
    (bitAt v.toNat 63 = false → st.hw.accelHeld = false →
      (x.on = true → Does (.chuteDisable hart c v) st fun h => (h.chute c).on = false ∧ (h.chute c).samples = [] ∧
        (h.chute c).inBatch = false ∧ (h.chute c).released = x.released ∧ h.regF pa 63 1 = 0 ∧ (∀ k, k ≠ c → h.chute k = st.hw.chute k) ∧
        Hw.onlyChanges [.mill, .regs, .errOut] st.hw.fresh h) ∧
      (x.on = false → Does (.chuteDisable hart c v) st fun h => h.reg pa = w ∧ Hw.onlyChanges [.regs] st.hw.fresh h))) ∧
  (∀ (c v : Nat) (st : State), st.hw.accelHeld = true → Nothing (.ringTailWrite c v) st ∧ Nothing (.hopperFreedWrite c v) st) ∧
  (∀ (c v : Nat) (st : State), c < 16 →
    let x := st.hw.chute c
    (x.on = true ∧ 2 ^ x.rsize < sub32 v x.head → Nothing (.ringTailWrite c v) st) ∧
    (st.hw.accelHeld = false → x.on = false ∨ sub32 v x.head ≤ 2 ^ x.rsize → Does (.ringTailWrite c v) st fun h => h.ringTail c = v % 2 ^ 32 ∧ h.freed c = st.hw.freed c ∧
      (h.chute c).head = x.head ∧ Hw.onlyChanges [.regs, .mill] st.hw.fresh h) ∧
    (2 ^ 31 ≤ sub32 (x.released % 2 ^ 32) v → Nothing (.hopperFreedWrite c v) st) ∧
    (st.hw.accelHeld = false → sub32 (x.released % 2 ^ 32) v < 2 ^ 31 → Does (.hopperFreedWrite c v) st fun h => h.freed c = v % 2 ^ 32 ∧
      (h.chute c).released = x.released ∧ h.memS = st.hw.memS ∧ h.tiles = st.hw.tiles) ∧
    (x.on = false ∨ x.inBatch = true ∨ x.nbatch ≤ st.hw.ready c → Nothing (.batchStart c) st) ∧
    (x.on = true → x.inBatch = false → st.hw.ready c < x.nbatch → Does (.batchStart c) st fun h =>
      (h.chute c).inBatch = true ∧ (h.chute c).batch = x.released ∧ (h.chute c).fwd = 0 ∧ (h.chute c).rejAll = 0 ∧
        (h.chute c).samples = [] ∧ Hw.onlyChanges [.mill] st.hw.fresh h))

/-- Samples through a chute (14 R331, R332, R339 to R343). An idle engine takes a record for the chute whose turn it is, at HEAD,
into the lowest free slot or as a reject. A sample that decodes is done, one that does not is rejected and its slot freed; a done
one is forwarded, in order where the chute is ordered, with its position entry. A full batch is released, a short one, when every
decoded sample has been forwarded, once its drought timer, which pauses while samples decode, has run for DROUGHT_US; none before. What
an unreadable ring entry or source gives is the model's reading (notes/assumptions/45). -/
def Obligations.SamplesPassThroughTheirBatch : Prop :=
  ∀ (c : Nat) (st : State),
    let x := st.hw.chute c
    let next := ((List.range 16).map (fun i => (st.hw.mill.turn + 1 + i) % 16)).find? st.hw.millWants
    let busy := st.hw.mill.chutes.foldl (fun a e => a + e.2.samples.length) 0
    let released (short : Bool) (h : Hw) : Prop := (h.chute c).released = x.released + 1 ∧ (h.chute c).inBatch = false ∧
      h.memS = (st.hw.fresh.chuteWrite st.ident c x.area (mkRec 64 [(0, 8, x.batch), (8, 2, x.fwd), (10, 2, x.rejs), (12, 4, x.rejLost),
        (16, 1, (if short then 1 else 0) + (if x.ordered then 2 else 0)), (20, 4, if x.ordered then x.rejAll else 0),
        (24, 4, x.firstSeq.getD 0), (28, 4, x.lastSeq), (32, 8, st.hw.bellNs)])).memS
    (32 ≤ busy ∨ next ≠ some c → Nothing (.sampleTake c) st) ∧
    (∀ slot, busy < 32 → next = some c → x.freeSlot = some slot →
      let moved (h : Hw) : Prop := h.mill.turn = c ∧ (h.chute c).head = add32 x.head 1 ∧ (h.chute c).taken = x.taken + 1
      let rd := st.hw.fresh.chuteRead st.ident c x.rwin (x.ringOff + 64 * (x.head % 2 ^ x.rsize)) 64
      (∀ b h₁, rd = (.ok b, h₁) → (h₁.admission st.ident c b).1 = 0 → Does (.sampleTake c) st fun h => moved h ∧
        (h.chute c).samples = x.samples ++ [⟨slot, x.taken, b, false, false⟩] ∧ (h.chute c).rejAll = x.rejAll) ∧
      (∀ b h₁, rd = (.ok b, h₁) → (h₁.admission st.ident c b).1 ≠ 0 → Does (.sampleTake c) st fun h => moved h ∧
        (h.chute c).samples = x.samples.filter (fun s => s.slot != slot) ∧ (h.chute c).rejAll = x.rejAll + 1) ∧
      (∀ e h₁, rd = (.error e, h₁) → Does (.sampleTake c) st fun h => moved h ∧
        (h.chute c).samples = x.samples.filter (fun s => s.slot != slot) ∧ (h.chute c).rejAll = x.rejAll + 1)) ∧
    (∀ slot bad s h₁, x.samples.find? (fun s => s.slot == slot && !s.done) = some s →
      ((bad || s.bad) = true → Does (.sampleDone c slot bad) st fun h => (h.chute c).rejAll = x.rejAll + 1 ∧
        (∀ m ∈ (h.chute c).samples, m.slot ≠ slot) ∧ ∃ r ∈ h.errOut, r.cls = 0x05) ∧
      (∀ p, (bad || s.bad) = false → st.hw.fresh.decodeSample st.ident c s.rcd = (.ok p, h₁) → Does (.sampleDone c slot bad) st fun h =>
        (h.chute c).samples = x.samples.map (fun m => if m.slot = slot then { m with done := true } else m)) ∧
      (∀ e, (bad || s.bad) = false → st.hw.fresh.decodeSample st.ident c s.rcd = (.error e, h₁) → Does (.sampleDone c slot bad) st fun h =>
        (h.chute c).rejAll = x.rejAll + 1 ∧ ∀ m ∈ (h.chute c).samples, m.slot ≠ slot)) ∧
    (∀ slot bad, x.samples.find? (fun s => s.slot == slot && !s.done) = none → Nothing (.sampleDone c slot bad) st) ∧
    (∀ slot s, x.samples.find? (fun s => s.slot == slot && s.done) = some s →
      (x.ordered = true → (∃ m ∈ x.samples, m.order < s.order) → Nothing (.sampleForward c slot) st) ∧
      (x.ordered = false ∨ (∀ m ∈ x.samples, s.order ≤ m.order) → Does (.sampleForward c slot) st fun h =>
        (h.chute c).fwd = x.fwd + 1 ∧ (h.chute c).kept = slot :: x.kept ∧ (h.chute c).samples = x.samples.filter (fun m => m.slot != slot) ∧
        h.memS = (st.hw.fresh.chuteWrite st.ident c (x.area + 64 + 16 * x.fwd)
          (mkRec 16 [(0, 8, sTag s.rcd), (8, 4, sSeq s.rcd), (12, 2, slot), (14, 2, 1)])).memS)) ∧
    (x.on = true → x.inBatch = true → x.fwd = x.b → Does (.batchRelease c) st (released false)) ∧
    (x.on = false ∨ x.inBatch = false ∨ x.fwd ≠ x.b → Nothing (.batchRelease c) st) ∧
    ((∀ t, x.drought = some t → st.hw.localNs + x.dry < t + x.f 40 4 * 1000) ∨ x.fwd + x.rejAll = 0 ∨ x.samples ≠ [] →
      Nothing (.droughtExpiry c) st) ∧
    (∀ t, x.drought = some t → t + x.f 40 4 * 1000 ≤ st.hw.localNs + x.dry → x.fwd + x.rejAll ≠ 0 → x.samples = [] → x.on = true →
      x.inBatch = true → Does (.droughtExpiry c) st (released true))

/-! ## The clerk (15) -/

/-- GO submits the mailbox's request unless it is BUSY or DONE, when it is ignored and counted (15 R351); freeing a mailbox clears DONE. A
management request is answered again from the kept replies, taken while its mailbox is free, and dropped while it is in use (R355) or
where its header is no request's (notes/assumptions/103). The clerk accepts one GO in rotating order; a command that fails a check is
answered at once, and the mailbox is not BUSY any more; a background command that would be the fifth waits (R352, R358). A background
command whose work is done writes its reply, a WIN_REVOKE once the accesses ordered before it are home (R364), and with a CTX_DESTROY's
reply its context is free (R352). A command of the clerk's is executed only as the current command, the one whose checks have passed,
and by the row of its opcode: any other row does nothing (15 R352, R358). The order from the last accepted mailbox on, the kept replies
and the reply of a background command by its own command are the model's reading (notes/assumptions/55). -/
def Obligations.ClerkTakesCommandsInOrder : Prop :=
  (∀ st : State,
    (∀ (m : Nat) (v : Word), m < 64 →
      let ct := blkBase .clerk 0 + 0x1000 * m + 0x80
      (st.hw.inReset = true → Nothing (.mailboxGo m v) st) ∧
      (st.hw.inReset = false → bitAt v.toNat 63 = false → Does (.mailboxGo m v) st fun h => h.reg ct = v.toNat &&& 0x7FF7FF ∧ Hw.onlyChanges [.regs] st.hw.fresh h) ∧
      (st.hw.inReset = false → bitAt v.toNat 63 = true → (st.hw.mbox m).busy = true ∨ (st.hw.mbox m).done = true → Does (.mailboxGo m v) st fun h =>
        h.regF (ct + 8) 0 16 = min (st.hw.regF (ct + 8) 0 16 + 1) 0xFFFF ∧ Hw.onlyChanges [.regs] st.hw.fresh h) ∧
      (st.hw.inReset = false → bitAt v.toNat 63 = true → (st.hw.mbox m).busy = false → (st.hw.mbox m).done = false → Does (.mailboxGo m v) st fun h =>
        h.mbox m = { st.hw.mbox m with go := true } ∧ (∀ k, k ≠ m → h.mbox k = st.hw.mbox k) ∧
          Hw.onlyChanges [.regs, .clerk] st.hw.fresh h) ∧
      Does (.mailboxFree m) st fun h => h.mbox m = { st.hw.mbox m with done := false } ∧ (∀ k, k ≠ m → h.mbox k = st.hw.mbox k) ∧
        Hw.onlyChanges [.clerk] st.hw.fresh h) ∧
    (∀ (src hdr : Nat) (r pay : List Byte),
      let seq := fld hdr 32 32
      let kept := st.hw.clerk.kept.find? (fun k => k.src == src && k.seq == seq)
      (st.hw.clerkUp = false ∨ hdr ≠ mgmtHdr 1 seq → Nothing (.managementRequest src hdr r pay) st) ∧
      (st.hw.clerkUp = true → hdr = mgmtHdr 1 seq → r.length = 64 → pay.length ≤ 8192 →
        (∀ k, kept = some k → Does (.managementRequest src hdr r pay) st fun h => h.out = [Outp.mgmt src (mgmtHdr 2 seq) k.rep k.pay] ∧
          Hw.onlyChanges [.out] st.hw.fresh h) ∧
        (kept = none → (st.hw.mbox 64).busy = true ∨ (st.hw.mbox 64).go = true → Nothing (.managementRequest src hdr r pay) st) ∧
        (kept = none → (st.hw.mbox 64).busy = false → (st.hw.mbox 64).go = false → Does (.managementRequest src hdr r pay) st fun h =>
          (h.mbox 64).req = r ∧ (h.mbox 64).go = true ∧ (h.clerk.mgmtSrc, h.clerk.mgmtSeq, h.clerk.mgmtPay) = (src, seq, pay) ∧
            Hw.onlyChanges [.clerk] st.hw.fresh h))) ∧
    (st.hw.clerk.cur ≠ none ∨ st.hw.clerkUp = false → Nothing .commandAccept st) ∧
    (∀ m, st.hw.clerk.cur = none → st.hw.clerkUp = true → st.hw.clerk.heldCmds = [] →
      (boxOrder st.hw.clerk.lastBox).find? (fun m => (st.hw.mbox m).go) = some m →
      let r := (st.hw.mbox m).req
      let taken (h : Hw) : Prop := (h.mbox m).go = false ∧ h.clerk.lastBox = m
      (isBack r = true → 4 ≤ st.hw.clerk.bg.length → Does .commandAccept st fun h => taken h ∧ h.clerk.cur = none ∧ (h.mbox m).busy = true ∧
        h.clerk.heldCmds.map (fun c => (c.box, c.rcd)) = [(m, r)]) ∧
      (isBack r = false ∨ st.hw.clerk.bg.length < 4 →
        (st.hw.checkCmd st.ident m r = none → Does .commandAccept st fun h => taken h ∧
          h.clerk.cur.map (fun c => (c.box, c.rcd)) = some (m, r) ∧ (h.mbox m).busy = true) ∧
        (∀ a, st.hw.checkCmd st.ident m r = some a → Does .commandAccept st fun h => taken h ∧
          h.clerk.cur = none ∧ (h.mbox m).busy = false ∧ (h.mbox m).last = a.st))) ∧
    (∀ c cs, st.hw.clerk.cur = none → st.hw.clerkUp = true → st.hw.clerk.heldCmds = c :: cs → st.hw.clerk.bg.length < 4 →
      st.hw.checkCmd st.ident c.box c.rcd = none → Does .commandAccept st fun h => h.clerk.cur = some c ∧ h.clerk.heldCmds = cs ∧
        Hw.onlyChanges [.clerk] st.hw.fresh h) ∧
    (∀ n, (st.hw.clerk.bg.find? (fun c => c.id == n && c.ready) = none → Nothing (.backgroundCommandDone n) st) ∧
      ∀ c, st.hw.clerk.bg.find? (fun c => c.id == n && c.ready) = some c →
        (st.hw.bgHeld c = true → Nothing (.backgroundCommandDone n) st) ∧
        (st.hw.bgHeld c = false → Does (.backgroundCommandDone n) st fun h => (cOp c.rcd = 0x0102 → c.status = 0 →
          (h.ctx (recN c.rcd 20 2)).st = 0) ∧ h.clerk.bg = st.hw.clerk.bg.filter (fun b => b.id != n) ∧ (h.mbox c.box).busy = false ∧ (h.mbox c.box).last = c.status ∧
          (c.box ≠ 64 → (h.mbox c.box).done = true)))) ∧
  (∀ (ok : Bool) (n : Nat) (ns us : List Nat) (st : State), ∀ e ∈ clerkRows ok n ns us,
    (∀ c, st.hw.clerk.cur = some c → cOp c.rcd ≠ e.1 ∨ ∃ f, e.2.1 = some f ∧ recN c.rcd f.1 1 ≠ f.2) → Nothing e.2.2 st)

/-- The commands that return a payload write it at the payload address, or in the management reply, and reply OK with its length;
one that is too small gets LENGTH_TOO_SMALL and the length needed (15 R359): ID_GET, ATTEST, CERT_GET, Q_QUERY, PATCH_LIST. -/
def Obligations.PayloadCommandsReturnTheirRecord : Prop :=
  ∀ (c : ClerkCmd) (st : State), st.hw.clerk.cur = some c →
    let h₀ := st.hw.fresh.modClerk (fun k => { k with cur := none })
    let q := st.hw.q st.ident (recN c.rcd 20 4)
    ∀ e ∈ [(0x0001, Instr.idGet, st.hw.identity st.ident, Ans.ok [(16, 4, 1024)]),
        (0x0002, .attest, st.hw.report (subB c.rcd 20 32), .ok [(16, 4, (st.hw.report (subB c.rcd 20 32)).length)]),
        (0x0003, .certGet, certBytes st.ident, .ok [(16, 4, (certBytes st.ident).length)]),
        (0x0303, .qQuery, q.bytes, .ok [(16, 4, q.head), (20, 4, q.tail), (24, 1, q.st), (25, 1, q.reason)]),
        (0x0D01, .patchList, (List.range 12).flatMap (fun i => if st.hw.slotEmpty i then List.replicate 64 0 else st.hw.flashBytes (slotBase i) 64),
          .ok [(16, 2, (List.range 12).foldl (fun a i => a + (if st.hw.slotOk i then 2 ^ i else 0)) 0), (18, 2, st.hw.clerk.patched),
            (20, 2, st.hw.clerk.shadowed)])],
      cOp c.rcd = e.1 →
      (∀ x, h₀.payAddr st.ident c rWrite e.2.2.1.length = .ok x →
        (c.box = 64 → Answers e.2.1 c st { e.2.2.2 with pay := e.2.2.1 } [] fun _ => True) ∧
        (c.box ≠ 64 → Answers e.2.1 c st e.2.2.2 memoryParts fun h =>
          h.memS = (h₀.ncWrite st.ident hintClerk false x e.2.2.1).2.memS)) ∧
      (∀ a, h₀.payAddr st.ident c rWrite e.2.2.1.length = .error a → Answers e.2.1 c st a [] fun _ => True)

/-- Contexts, windows and queues (16 R374, R389, 15 R364, R366, R483). A free context is created with its hint, the lowest free one
for 0xFFFF, and one in use is refused; a window is set valid over its range with the generation it has, once the accesses through it
that were ordered before are home (notes/assumptions/104), and a revoked one is not valid with the next generation; a destroyed context
is tearing down until its reply; a queue is created ready and empty, restarts empty, and is destroyed unless it is in use. Queue
pairs and models (12 R286, R288, 16 R377, 18 R416): a queue pair whose attribute record passes is ready with it; closing one closes
it; a model is registered with empty state images, is not removed or cleared while it is at work, and shows and loses its mark. The
generation of a window never revoked and what MODEL_REG asks of its windows are the model's reading (notes/assumptions/56), and so is
that QP_CREATE is busy while the carters are held in reset (notes/assumptions/90). -/
def Obligations.ContextsQueuesAndModelsAreManaged : Prop :=
  (∀ (c : ClerkCmd) (st : State), st.hw.clerk.cur = some c → c.ready = false →
    let r := c.rcd
    let x := recN r 20 2
    let w := st.hw.win x (recN r 22 1)
    let q := recN r 20 4
    let d := st.hw.q st.ident q
    (cOp r = 0x0101 → ∀ i, (x = i ∧ i ≠ 0xFFFF) ∨ (x = 0xFFFF ∧ i < 4096 ∧ ∀ j < i, (st.hw.ctx j).st ≠ 0) →
      ((st.hw.ctx i).st = 0 → Answers .ctxCreate c st (.ok [(16, 2, i)]) [.ctxs] fun h =>
        h.ctx i = { Ctx.init with st := 1, hint := recN r 22 10 } ∧ ∀ j, j ≠ i → h.ctx j = st.hw.ctx j) ∧
      (x = i → (st.hw.ctx i).st ≠ 0 → Answers .ctxCreate c st (.fail 8) [] fun _ => True)) ∧
    (cOp r = 0x0102 → Runs .ctxDestroy c st (some 0) fun h => (h.ctx x).st = 3) ∧
    (cOp r = 0x0103 → ∃ ws qs, Answers .ctxStatus c st (.ok [(16, 1, (st.hw.ctx x).st), (17, 1, (st.hw.ctx x).fcls),
      (24, 8, (st.hw.ctx x).energy / 1000), (32, 8, (st.hw.ctx x).fseq), (40, 1, ws), (44, 4, qs)]) [] fun _ => True) ∧
    (cOp r = 0x0104 → Answers .ctxHint c st (.ok []) [.ctxs] fun h => h.ctx x = { st.hw.ctx x with hint := recN r 22 10 } ∧
      ∀ j, j ≠ x → h.ctx j = st.hw.ctx j) ∧
    (cOp r = 0x0201 → let b := recN r 24 6
      let n := recN r 32 8
      (b % 4096 ≠ 0 → Answers .winSet c st (.bad 24) [] fun _ => True) ∧
      (b % 4096 = 0 → n % 4096 = 0 → n ≠ 0 → st.hw.winRange st.ident b n = true →
        (st.hw.piecesOut x (recN r 22 1) = true → Does .winSet st fun h => h.clerk.cur = some c ∧ (h.win x (recN r 22 1)).valid = false) ∧
        (st.hw.piecesOut x (recN r 22 1) = false → w.valid = false → Answers .winSet c st (.ok [(16, 2, w.gen)]) [.wins] fun h =>
          h.win x (recN r 22 1) = ⟨true, recN r 23 1, b, n, w.gen⟩) ∧
        (st.hw.piecesOut x (recN r 22 1) = false → w.valid = true → let g := (w.gen + 1) % 65536
          ∃ h : Hw, exec .winSet st = .next { st with hw := h.reply c (.ok [(16, 2, g)]) } ∧
            h.win x (recN r 22 1) = ⟨true, recN r 23 1, b, n, g⟩))) ∧
    (cOp r = 0x0202 → Runs .winRevoke c st (some 0) fun h => (h.win x (recN r 22 1)).valid = false ∧
      (w.valid = true → (h.win x (recN r 22 1)).gen = (w.gen + 1) % 65536)) ∧
    (cOp r = 0x0203 → Answers .winGet c st (.ok [(16, 1, w.rights), (17, 1, if w.valid then 1 else 0), (18, 2, w.gen), (24, 6, w.base),
      (32, 8, w.len)]) [] fun _ => True) ∧
    (cOp r = 0x0301 → ∀ i, (q = i ∧ i ≠ 0xFFFFF) ∨ (q = 0xFFFFF ∧ i < 0x100000 ∧ (st.hw.q st.ident i).st = 0 ∧
        ∀ j < i, (st.hw.q st.ident j).st ≠ 0) →
      let e : QDesc := { kind := recN r 26 1, log2n := recN r 27 1, win := recN r 28 1, st := 1, ctx := recN r 24 2, reason := 0,
                         ringOff := recN r 30 6, head := 0, tail := 0, cq := if recN r 26 1 = 3 then 0 else recN r 36 4, arrivals := 0, completed := 0 }
      ((st.hw.q st.ident i).st ≠ 0 → Answers .qCreate c st (.fail 8) [] fun _ => True) ∧
      ((st.hw.q st.ident i).st = 0 → e.ringOff % entrySize e.kind = 0 → st.hw.ringOk e = true →
        (e.kind = 3 ∨ ((st.hw.q st.ident e.cq).kind = 3 ∧ (st.hw.q st.ident e.cq).ctx = e.ctx)) →
        Answers .qCreate c st (.ok [(16, 4, i)]) (.bitmap :: memoryParts) fun h => h.memS.mem.bytes (qAddr st.ident i) 64 = e.bytes ∧
          SMap.get false h.bitmap i = false ∧ (st.hw.quiet = true → Hw.onlyChanges [.clerk, .memS, .bitmap] st.hw.fresh h))) ∧
    (cOp r = 0x0302 →
      (st.hw.queueInUse st.ident q = true → Answers .qDestroy c st (.fail 0x10) [] fun _ => True) ∧
      (st.hw.queueInUse st.ident q = false → Answers .qDestroy c st (.ok []) (.bitmap :: .fab :: memoryParts) fun h =>
        (h.q st.ident q).st = 0 ∧ h.qp q = none ∧ (st.hw.quiet = true → (∀ e ∈ h.compl, e.prod ≠ q) ∧
          Hw.onlyChanges [.clerk, .memS, .bitmap, .fab, .compl] st.hw.fresh h))) ∧
    (cOp r = 0x0304 →
      ((st.hw.ctx d.ctx).st ≠ 1 → Answers .qRestart c st (.fail 9) [] fun _ => True) ∧
      ((st.hw.ctx d.ctx).st = 1 → st.hw.ringOk d = true → Answers .qRestart c st (.ok [(16, 4, d.depth)]) (.bitmap :: memoryParts) fun h =>
        h.memS.mem.bytes (qAddr st.ident q) 64 = { d with head := d.tail, st := 1, reason := 0 }.bytes ∧
          (st.hw.quiet = true → Hw.onlyChanges [.clerk, .memS, .bitmap] st.hw.fresh h)))) ∧
  (∀ (c : ClerkCmd) (st : State), st.hw.clerk.cur = some c →
    let r := c.rcd
    let n := recN r 20 4
    let h₀ := st.hw.fresh.modClerk (fun k => { k with cur := none })
    (cOp r = 0x0305 → ∀ a h₁, h₀.payIn st.ident c 64 = (.ok a, h₁) →
      let d := st.hw.q st.ident n
      let rq := h₁.q st.ident (recN a 0 4 % 2 ^ 20)
      let cq := h₁.q st.ident (recN a 4 4 % 2 ^ 20)
      (∀ x, c.box ≠ 64 → (st.hw.mbox c.box).bound = some x → recN a 0 4 / 2 ^ 20 ≠ x →
        Answers .qpCreate c st (.fail 4) memoryParts fun _ => True) ∧
      (c.box = 64 ∨ (∀ x, (st.hw.mbox c.box).bound = some x → recN a 0 4 / 2 ^ 20 = x) →
        (st.hw.accelHeld = true → Answers .qpCreate c st (.fail 9) memoryParts fun _ => True) ∧
        (∀ o, st.hw.accelHeld = false → attrBad d.ctx a = some o → Answers .qpCreate c st (.bad (0x8000 + o)) memoryParts fun _ => True) ∧
        (st.hw.accelHeld = false → attrBad d.ctx a = none → d.kind = 1 → rq.st ≠ 0 → rq.kind = 2 → rq.ctx = d.ctx → cq.st ≠ 0 → cq.kind = 3 → cq.ctx = d.ctx →
          (∀ e ∈ st.hw.fab.qps, ∀ p, e.2 = some p → (p.st ≠ 1 ∧ st.hw.closing e.1 p = false) ∨
            (e.1 ≠ n ∧ p.rq ≠ recN a 0 4 % 2 ^ 20)) →
          Answers .qpCreate c st (.ok []) (.fab :: memoryParts) fun h => h.qp n = some { Qp.init with
            st := 1, attr := a, nextPsn := recN a 40 4, una := recN a 40 4, exp := recN a 44 4
            cwnd := h₁.cwndMax (linkByte (recN a 12 1) / 8), adv := st.hw.localNs }))) ∧
    (cOp r = 0x0306 → ∀ q, st.hw.qp n = some q → q.st = 1 → ∃ h : Hw, exec .qpClose st = .next { st with hw := h.reply c (.ok []) } ∧
      h.clerk.cur = none ∧ (h.qp n).map (·.st) = some 2) ∧
    (cOp r = 0x0401 →
      let m : Model := { ctx := recN r 24 2, entries := recN r 27 1 + 1, tabWin := recN r 26 1, tabOff := recN r 28 6, saveWin := recN r 34 1,
                         saveOff := recN r 36 6, sheaves := recN r 44 4, unusable := false, markSeq := 0, markWait := false, invocs := 0 }
      let tw := st.hw.win m.ctx m.tabWin
      let sw := st.hw.win m.ctx m.saveWin
      (st.hw.modelOf n ≠ none → Answers .modelReg c st (.fail 8) [] fun _ => True) ∧
      (st.hw.modelOf n = none → tw.valid = true → tw.isDoorbell = false → m.tabOff + 64 * m.entries ≤ tw.len → sw.valid = true →
        sw.isDoorbell = false → bitAt sw.rights rRead = true → bitAt sw.rights rWrite = true → m.saveOff + 2048 * m.sheaves ≤ sw.len →
        2 ≤ m.stride → Answers .modelReg c st (.ok []) memoryParts fun h => h.modelOf n = some m ∧
          (st.hw.settled = true → st.hw.clean = true → ∀ k, k ≠ n → h.modelOf k = st.hw.modelOf k))) ∧
    (cOp r = 0x0402 →
      (st.hw.modelBusy n = true → Answers .modelUnreg c st (.fail 0x11) [] fun _ => True) ∧
      (st.hw.modelBusy n = false → ∃ h : Hw, exec .modelUnreg st = .next { st with hw := h.reply c (.ok []) } ∧ h.clerk.cur = none ∧
        h.modelOf n = none ∧ ∀ k, k ≠ n → h.modelOf k = st.hw.modelOf k)) ∧
    (∀ m, st.hw.modelOf n = some m →
      (cOp r = 0x0403 → Answers .modelStatus c st (.ok [(16, 1, if m.unusable then 1 else 0), (24, 8, m.invocs), (32, 8, m.markSeq)]) []
        fun _ => True) ∧
      (cOp r = 0x0404 → st.hw.modelBusy n = false → Answers .modelClear c st (.ok []) [.models] fun h =>
        h.modelOf n = some { m with unusable := false, markWait := false }) ∧
      (cOp r = 0x0404 → st.hw.modelBusy n = true → Answers .modelClear c st (.fail 0x11) [] fun _ => True)))

/-- The bell book, the points and caps, and observation, through the clerk (13 R319, R482, 17 R396, R401, 19 R427, R429, R433, R437, R442).
An entry is armed by number, or the lowest idle one for 0xFFFF, and one that is armed or running is busy; disarming one that is armed
drops its dues, and changes nothing of one that is not. While the accelerator side is held in reset TITHE_CTRL, as QP_CREATE, is busy
(notes/assumptions/90). -/
def Obligations.BellPowerAndObservationCommands : Prop :=
  ∀ (c : ClerkCmd) (st : State), st.hw.clerk.cur = some c → c.ready = false →
    let r := c.rcd
    let x := recN r 20 2
    let h₀ := st.hw.fresh.modClerk (fun k => { k with cur := none })
    (cOp r = 0x0501 → ∀ i, (x = i ∧ i ≠ 0xFFFF) ∨ (x = 0xFFFF ∧ i < 4096 ∧ st.hw.eIdle i = true ∧ ∀ j < i, st.hw.eIdle j = false) →
      let ctrl := recN r 28 4 + recN r 22 1 * 2 ^ 32 + recN r 24 2 * 2 ^ 44 + recN r 23 1 * 2 ^ 62
      let h' := (((st.hw.fresh.setReg (eDue i) (recN r 32 8)).setReg (ePeriod i) (recN r 40 8)).setReg (eCtrl i) ctrl).setReg (eArg i) (recN r 48 4)
      (st.hw.eIdle i = false → Answers .bellArm c st (.fail 9) [] fun _ => True) ∧
      (st.hw.eIdle i = true → h'.armBad i = none → st.hw.bellNs < recN r 32 8 →
        Answers .bellArm c st (.ok [(16, 2, i)]) [.regs, .bell] fun h => h.eArmed i = true ∧ h.reg (eDue i) = recN r 32 8 ∧
          h.reg (eArg i) = recN r 48 4) ∧
      (st.hw.eIdle i = true → h'.armBad i = none → recN r 32 8 ≤ st.hw.bellNs →
        (h'.eBusy i = false → Answers .bellArm c st (.ok [(16, 2, i)]) [.regs, .bell] fun h => h.reg (eArg i) = recN r 48 4 ∧
          ∃ d ∈ h.bell.due, d.entry = i ∧ d.late = true) ∧
        (h'.eBusy i = true → Answers .bellArm c st (.ok [(16, 2, i)]) [.regs, .bell, .chron] fun h => h.reg (eArg i) = recN r 48 4 ∧
          h.bell.due = st.hw.bell.due))) ∧
    (cOp r = 0x0502 →
      (st.hw.eArmed x = true → Answers .bellDisarm c st (.ok []) [.regs, .bell] fun h => h.eArmed x = false ∧
        ∀ d ∈ h.bell.due, d.entry ≠ x) ∧
      (st.hw.eArmed x = false → Answers .bellDisarm c st (.ok []) [] fun _ => True)) ∧
    (cOp r = 0x0601 → x ≠ 0xFFFF → Answers .opPref c st (.ok [(16, 1, h₀.granted st.ident (some x) (recN r 22 1) (recN r 23 1))]) [.ctxs] fun h =>
      SMap.get 1 (h.ctx x).prefs (recN r 22 1) = recN r 23 1 ∧ ∀ j, j ≠ x → h.ctx j = st.hw.ctx j) ∧
    (cOp r = 0x0601 → x = 0xFFFF → Answers .opPref c st (.ok [(16, 1, h₀.granted st.ident none (recN r 22 1) (recN r 23 1))]) [.ctxs] fun h =>
      ∀ j, (st.hw.ctx j).st ≠ 0 → SMap.get 1 (h.ctx j).prefs (recN r 22 1) = recN r 23 1) ∧
    (cOp r = 0x0602 → let caps := (if x = 0 then st.hw.clerk.caps.1 else x, if recN r 22 2 = 0 then st.hw.clerk.caps.2 else recN r 22 2)
      Answers .powerCap c st (.ok [(16, 2, caps.1), (18, 2, caps.2)]) [] fun h => h.clerk.caps = caps) ∧
    (cOp r = 0x0701 → Answers .obsSelect c st (.ok []) [.regs] fun h =>
      (∀ d < 8, bitAt x d = true → h.regF (blkBase .dobs d + 0x800) 0 1 = recN r 22 1 % 2) ∧
      (bitAt x 8 = true → h.regF (blkBase .hobs 0 + 0x1000) 0 1 = recN r 22 1 % 2)) ∧
    (cOp r = 0x0702 → recN r 20 1 = 0 → Answers .chronCtrlStop c st (.ok []) [.chron] fun h => h.chron.running = false) ∧
    (cOp r = 0x0702 → recN r 20 1 = 1 → Answers .chronCtrlStart c st (.ok []) [.chron] fun h =>
      h.chron.running = (st.hw.chron.configured || st.hw.chron.running)) ∧
    (cOp r = 0x0702 → recN r 20 1 = 2 → ∀ b h₁, h₀.payIn st.ident c 64 = (.ok b, h₁) →
      (st.hw.chron.running = true → Answers .chronCtrlConfigure c st (.fail 9) memoryParts fun _ => True) ∧
      (st.hw.chron.running = false → chronBad st.ident b = none → Answers .chronCtrlConfigure c st (.ok []) (.chron :: memoryParts) fun h =>
        h.chron.configured = true ∧ h.chron.base = recN b 0 8 ∧ h.chron.dies = recN b 10 2 ∧ h.chron.classes = recN b 12 4 ∧
          h.chron.write = 0 ∧ h.chron.total = 0)) ∧
    (cOp r = 0x0704 → st.hw.accelHeld = true → ∀ b h₁, h₀.payIn st.ident c 4 = (.ok b, h₁) →
      Answers .titheCtrl c st (.fail 9) memoryParts fun _ => True) ∧
    (cOp r = 0x0704 → st.hw.accelHeld = false → ∀ n b h₁ b' h₂, h₀.payIn st.ident c 4 = (.ok b, h₁) → recN b 0 4 = n → 1 ≤ n → n ≤ 320 →
      h₁.payIn st.ident c (4 + 16 * n) = (.ok b', h₂) → (∀ i < n, h₂.titheBad st.ident b' i = none) →
      let key (i : Nat) : Nat := 4 * recN b' (4 + 16 * i) 1 + recN b' (5 + 16 * i) 1
      Answers .titheCtrl c st (.ok []) (.tithe :: memoryParts) fun h => ∀ i < n, (∀ j < n, i < j → key j ≠ key i) →
        SMap.get Tithe.init h.tithe (key i) = titheOf x (recN b' (12 + 16 * i) 8)) ∧
    (cOp r = 0x0705 → ∀ b h₁, h₀.payIn st.ident c 512 = (.ok b, h₁) →
      (List.range 32).all (fun i => (gaugeBad (subB b (16 * i) 16)).isNone) = true →
      Answers .gaugeCtrl c st (.ok []) (.obs :: memoryParts) fun h => ∀ i < 32,
        SMap.get Gauge.init h.obs.gauges i = { Gauge.init with cfg := subB b (16 * i) 16 }) ∧
    (cOp r = 0x0703 → ∀ a, h₀.payAddr st.ident c rWrite (h₀.censusLen st.ident (h₀.queuesUsed st.ident).length) = .ok a →
      (∀ k, st.hw.obs.census = some k → Runs .censusTake c st none fun h => h.obs.waits = st.hw.obs.waits ++ [c.id] ∧
        h.obs.census = some k) ∧
      (st.hw.obs.census = none → Runs .censusTake c st none fun h => (h.obs.census.map (fun k => (k.dest, k.cmd, k.start))) =
        some (a, some c.id, st.hw.bellNs)))

/-- The lease, resets and scopes through the clerk (12 R306, 15 R353, R355, R365): a module or host reset begins 1 ms after its
reply; a tile reset resets a tile no context holds, but for its streams' last fault (04 R81), and merges into a fallow reset in progress
(20 R448); a fallow reset replies when it, or the wake that absorbs it, ends, and at once in the fallow state, which is the model's
reading (notes/assumptions/49). -/
def Obligations.LeaseResetAndScopeCommands : Prop :=
  ∀ (c : ClerkCmd) (st : State), st.hw.clerk.cur = some c → c.ready = false →
    let r := c.rcd
    (cOp r = 0x0B01 → bitAt (recN r 20 1) 0 = true → (∀ x ∈ st.hw.shadow, x.1 < leaseReg ∨ leaseReg + 8 ≤ x.1) →
      Answers .leaseSet c st (.ok []) [.regs, .shadow, .fab] fun h => h.leaseOn = true ∧ h.fab.leaseSt = 1 ∧
        h.fab.leaseAt = st.hw.localNs + max 1 (recN r 24 4) * 1000000) ∧
    (cOp r = 0x0B01 → bitAt (recN r 20 1) 0 = false → Answers .leaseSet c st (.ok []) [.regs, .shadow, .fab] fun h => h.leaseOn = false) ∧
    (cOp r = 0x0B02 → (st.hw.leaseOn = false → Answers .leaseRenew c st (.fail 0x1A) [] fun _ => True) ∧
      (st.hw.leaseOn = true → recN r 24 8 ≤ st.hw.fab.epoch → Answers .leaseRenew c st (.fail 0x19) [] fun _ => True) ∧
      (st.hw.leaseOn = true → st.hw.fab.epoch < recN r 24 8 → (∀ x ∈ st.hw.shadow, x.1 < leaseReg ∨ leaseReg + 8 ≤ x.1) →
        let term := max 1 (st.hw.regF leaseReg 0 32)
        Answers .leaseRenew c st (.ok [(16, 4, term)]) [.fab] fun h => h.fab.epoch = recN r 24 8 ∧
          h.fab.leaseAt = st.hw.localNs + term * 1000000)) ∧
    (∀ k, cOp r = 0x0C01 → recN r 20 1 = k → k < 2 → Answers (if k = 0 then .resetModule else .resetHost) c st (.ok []) [.boot] fun h =>
      h.boot.resetAt = st.hw.boot.resetAt ++ [(k, st.hw.localNs + 1000000)]) ∧
    (cOp r = 0x0C01 → recN r 20 1 = 2 →
      (st.hw.boot.fallow = 0 → Runs .resetFallow c st none fun h => h.boot.fallow = 1) ∧
      (st.hw.boot.fallow = 1 ∨ st.hw.boot.fallow = 3 → Runs .resetFallow c st none fun h => h.boot.fallow = st.hw.boot.fallow) ∧
      (st.hw.boot.fallow = 2 → st.hw.ctxs = [] → Runs .resetFallow c st (some 0) fun h => h.boot = st.hw.boot)) ∧
    (cOp r = 0x0C01 → recN r 20 1 = 3 → let g := recN r 21 1
      (2 ≤ (st.hw.res g).st → Answers .resetTile c st (.fail 9) [] fun _ => True) ∧
      ((st.hw.res g).st < 2 → st.hw.boot.fallow = 1 → Runs .resetTile c st none fun h => Hw.onlyChanges [.clerk] st.hw.fresh h) ∧
      ((st.hw.res g).st < 2 → st.hw.boot.fallow ≠ 1 → Runs .resetTile c st (some 0) fun h => h.res g = Resid.init ∧ (h.tile g).tok = [] ∧ (h.tile g).cores = [] ∧
        (∀ s, h.stream g s = { Stream.init with cause := (st.hw.stream g s).cause, detail := (st.hw.stream g s).detail
                                                faultPc := (st.hw.stream g s).faultPc }) ∧
        (st.hw.memS.wait = [] → ∀ u, u ≠ g → h.tile u = st.hw.tile u))) ∧
    (cOp r = 0x0E01 → Answers .mbScope c st (.ok []) [] fun h =>
      (h.mbox (recN r 20 1)).bound = if recN r 21 1 = 1 then some (recN r 22 2) else none) ∧
    (cOp r = 0x0E02 → Answers .mgmtScope c st (.ok [(16, 2, recN r 20 2)]) [] fun h => h.clerk.scope = recN r 20 2)

/-- Stacks, the fallow state, patches and checkpoints (09 R224 to R227, 20 R446, 15 R371, R372, 07 R177). A stack goes offline only
with no context and no transaction, comes back online when it retrains, is march-tested and repaired only offline. A test reads every
burst, corrects what it can and fails where one is uncorrectable, with its record; a repair is kept with the stack and in its repair
table. The fallow state is entered only with no context, also out of a fallow reset or a wake; leaving it waits for the wake, and is
cancelled while the watchman stops the module (17 R401, R403). A patch that fails its checks, or whose flash write fails, is not
installed; an erased slot is empty. What a test finds, and whether training and flash writes succeed, are operands
(notes/assumptions/58); that a patrol test of a stack that is not online fails is the model's choice (notes/assumptions/82), as are the
readings of notes/assumptions/57. -/
def Obligations.StackPatchAndFallowCommands : Prop :=
  ∀ (c : ClerkCmd) (st : State), st.hw.clerk.cur = some c → c.ready = false →
    let r := c.rcd
    let k := cStack r
    let s := st.hw.stack k
    let live : Prop := ∃ e ∈ st.hw.ctxs, e.2.st ≠ 0
    (cOp r = 0x0A01 →
      (live ∨ st.hw.memS.open_ ≠ [] ∨ st.hw.memS.wait ≠ [] → Answers .stackOffline c st (.fail 0x15) [] fun _ => True) ∧
      (¬ live → st.hw.memS.open_ = [] → st.hw.memS.wait = [] →
        (s.st = .online ∨ s.st = .selfRefresh → Runs .stackOffline c st none fun h => h.stack k = { s with entering := 2 }) ∧
        (s.st = .offline → s.entering = 0 → Runs .stackOffline c st (some 0) fun h => h.memS = st.hw.memS))) ∧
    (cOp r = 0x0A02 → ∀ ok,
      (s.st = .online → Runs (.stackOnline ok) c st (some 0) fun h => h.memS = st.hw.memS) ∧
      (s.st ≠ .online → ok = true → Runs (.stackOnline ok) c st (some 0) fun h => h.stack k = { s with st := .online, entering := 0 }) ∧
      (s.st ≠ .online → ok = false → Runs (.stackOnline ok) c st (some 0x18) fun h => (h.stack k).st = .failed)) ∧
    (cOp r = 0x0A03 → ∀ corr unc,
      (recN r 22 1 = 0 → s.st ≠ .online → Runs (.stackTestPatrol corr unc) c st (some 0x18) fun h => h.memS = st.hw.memS) ∧
      (recN r 22 1 = 0 → s.st = .online →
        (burstsIn k unc = [] → (∀ a ∈ st.hw.memS.mem.bad, inStack k a = false) → Runs (.stackTestPatrol corr unc) c st (some 0) fun h =>
          h.memS.mem.cells = st.hw.memS.mem.cells ∧ ∀ a ∈ h.memS.mem.soft, inStack k a = false) ∧
        (burstsIn k unc ≠ [] ∨ (∃ a ∈ st.hw.memS.mem.bad, inStack k a = true) →
          Runs (.stackTestPatrol corr unc) c st (some 0x18) fun h => h.memS.mem.cells = st.hw.memS.mem.cells ∧
            ∃ e ∈ h.errOut, e.cls = 0x07)) ∧
      (recN r 22 1 = 1 → s.st ≠ .offline → Answers (.stackTestMarch corr unc) c st (.fail 0x16) [] fun _ => True) ∧
      (recN r 22 1 = 1 → s.st = .offline → Runs (.stackTestMarch corr unc) c st (some (if burstsIn k unc = [] then 0 else 0x18)) fun h =>
        ∀ x, inStack k x = false → h.memS.mem.byte x = st.hw.memS.mem.byte x)) ∧
    (cOp r = 0x0A04 → ∀ n ok, let rep := cRepair r
      let left := if rep.kind = 0 then s.hppr else if rep.kind = 3 then 512 - s.used 3 else n
      (s.st ≠ .offline → Answers (.stackRepair n ok) c st (.fail 0x16) [] fun _ => True) ∧
      (s.st = .offline → left = 0 → Answers (.stackRepair n ok) c st (.fail 0x17) [] fun _ => True) ∧
      (s.st = .offline → left ≠ 0 → ok = false → Answers (.stackRepair n ok) c st (.fail 0x1D) [] fun _ => True) ∧
      (s.st = .offline → left ≠ 0 → ok = true → Runs (.stackRepair n ok) c st (some 0) fun h =>
        h.stack k = { s with hppr := if rep.kind = 0 then s.hppr - 1 else s.hppr, repairs := s.repairs ++ [rep] } ∧
          SMap.get [] h.boot.repairs k = SMap.get [] st.hw.boot.repairs k ++ [rep])) ∧
    (cOp r = 0x0603 →
      (live → Answers .fallowEnter c st (.fail 9) [] fun _ => True) ∧
      (¬ live → st.hw.boot.fallow ≠ 2 → Runs .fallowEnter c st none fun h => h.boot.fallow = 2 ∧ ∀ n y, h.qp n = some y → y.st ≠ 1) ∧
      (¬ live → st.hw.boot.fallow = 2 → Runs .fallowEnter c st (some 0) fun h => h.boot = st.hw.boot)) ∧
    (cOp r = 0x0604 → ∀ n,
      (3 < st.hw.power.sev → Answers (.fallowExit n) c st (.fail 0x0D) [] fun h => h.boot = st.hw.boot) ∧
      (st.hw.power.sev ≤ 3 → st.hw.boot.fallow = 0 → Runs (.fallowExit n) c st (some 0) fun h => h.boot = st.hw.boot) ∧
      (st.hw.power.sev ≤ 3 → st.hw.boot.fallow ≠ 0 → st.hw.boot.fallow ≠ 2 → Runs (.fallowExit n) c st none fun h => h.boot = st.hw.boot) ∧
      (st.hw.power.sev ≤ 3 → st.hw.boot.fallow = 2 → Runs (.fallowExit n) c st none fun h => h.boot.fallow ≠ 2 ∧ ∀ k < 16, (st.hw.stack k).st = .selfRefresh →
        (h.stack k).st = if bitAt n k then .failed else .online)) ∧
    (cOp r = 0x0D02 → ∀ ok hd h₁ im h₂, (st.hw.fresh.modClerk (fun q => { q with cur := none, bg := q.bg ++ [{ c with pay := [] }] })).payIn
        st.ident c 64 = (.ok hd, h₁) → recN hd 12 4 ≤ 94000 → h₁.payIn st.ident c (64 + recN hd 12 4 + 2420) = (.ok im, h₂) →
      (patchOk im = false → Answers (.patchInstall ok) c st (.fail 0x1B) memoryParts fun h => h.boot = st.hw.boot) ∧
      (patchOk im = true → patchRefused im = true → Answers (.patchInstall ok) c st (.fail 0x1C) memoryParts fun h => h.boot = st.hw.boot) ∧
      (patchOk im = true → patchRefused im = false → ok = false → Answers (.patchInstall ok) c st (.fail 0x1D) memoryParts fun h =>
        h.boot = st.hw.boot) ∧
      (patchOk im = true → patchRefused im = false → ok = true → Runs (.patchInstall ok) c st (some 0) fun h =>
        h.flashBytes (slotBase (recN r 20 1)) im.length = im)) ∧
    (cOp r = 0x0D03 → (Answers (.patchErase false) c st (.fail 0x1D) [] fun h => h.boot = st.hw.boot) ∧
      Runs (.patchErase true) c st (some 0) fun h => h.slotEmpty (recN r 20 1) = true) ∧
    (cOp r = 0x0901 → ∀ a dst d h₁,
      let h₀ := st.hw.fresh.modClerk (fun q => { q with cur := none, bg := q.bg ++ [{ c with pay := [] }] })
      let x := recN r 20 2
      let w := st.hw.win x (udWin d)
      let ps := exportPlanes d
      let need := 2048 + ps.foldl (fun a p => a + p.2) 0
      (st.hw.win x (recN r 22 1)).isDoorbell = false → (st.hw.win x (recN r 23 1)).isDoorbell = false →
      st.hw.through x (recN r 22 1) rRead (recN r 24 6) 128 = some a → st.hw.through x (recN r 23 1) rWrite (recN r 32 6) (recN r 40 8) = some dst →
      h₀.clerkRead st.ident c a 128 = (.ok d, h₁) → udRule d ≤ 6 → udNp d ≠ 0 → w.valid = true → w.isDoorbell = false →
      bitAt w.rights rRead = true → (∀ p ∈ ps ++ [(udStamp d, 8 * udNs d), (udTally d, 64)], p.1 + p.2 ≤ w.len) →
      (recN r 40 8 < need → Answers .ckptExport c st (.short need) memoryParts fun _ => True) ∧
      (need ≤ recN r 40 8 → st.hw.updating x (udShard d) = true → Answers .ckptExport c st (.fail 0x12) memoryParts fun _ => True) ∧
      (∀ l sh h₂ planes h₃ h₄ h₅, need ≤ recN r 40 8 → st.hw.updating x (udShard d) = false →
        Hw.clerkReads st.ident c w.base [(udTally d, 64), (udStamp d, 8 * udNs d)] h₁ = (.ok [l, sh], h₂) → openRecs l = [] →
        (∀ k < udNs d, recN sh (8 * k) 8 = recN sh 0 8) → Hw.clerkReads st.ident c w.base ps h₂ = (.ok planes, h₃) →
        h₃.ncWrite st.ident hintClerk false dst (ckptHeader d (recN sh 0 8) planes) = (none, h₄) →
        h₄.ncWrite st.ident hintClerk false (dst + 2048) planes.flatten = (none, h₅) →
        Runs .ckptExport c st (some 0) fun h => h.memS = h₅.memS ∧
          ∃ b ∈ h.clerk.bg, b.id = c.id ∧ b.shard = some (x, udShard d)))

/-! ## Work and swaps (15, 16) -/

/-- With no queue that has work nothing is decided, nor while the accelerator side is held. The only candidate, whose entry is
resident on an idle eligible tile, is taken and its work runs there at its entry points (16 R385, R386); a bad descriptor is taken
and completes with 0x41 (15 R369). -/
def Obligations.WorkRunsWhereItIsResident : Prop :=
  ∀ st : State,
    (st.hw.accelHeld = true ∨ st.hw.bitmap = [] → Nothing .stewardDecision st) ∧
    ∀ (q g : Nat) (b : List Byte) (h₁ : Hw), st.hw.accelHeld = false → st.hw.bitmap = [(q, true)] →
      let d := st.hw.q st.ident q
      let k := (d.ctx, recN b 0 4, recN b 4 2)
      d.st = 1 → d.kind = 0 → d.depth ≠ 0 → (st.hw.ctx d.ctx).st = 1 → st.hw.stalled st.ident q = false → st.hw.alarmStalls q = false →
      st.hw.ringOk d = true → st.hw.fresh.ncRead st.ident hintClerk (st.hw.slotAddr d d.head) 128 = (.ok b, h₁) →
      h₁.q st.ident q = d → h₁.ctxActive d.ctx = true → h₁.entryHeld k = false → h₁.residentAt k = some g → (h₁.eligible st.ident d.ctx).contains g = true →
      h₁.tileIdle g = true →
      (h₁.descModel d.ctx b = none ∨ h₁.descBad d.ctx b = true → Does .stewardDecision st fun h =>
        h.memS = (h₁.takeWork st.ident q).memS ∧
          h.compl = (h₁.takeWork st.ident q).compl ++ [(workOfDesc q d b).completion 0x41 st.hw.bellNs] ∧
          h.tiles = (h₁.takeWork st.ident q).tiles) ∧
      (∀ m, h₁.descModel d.ctx b = some m → h₁.descBad d.ctx b = false →
        let h₀ : Hw := h₁.takeWork st.ident q
        let h₀ : Hw := { h₀ with models := SMap.set none h₀.models k.2.1 (some { m with invocs := m.invocs + 1 }) }
        (m.unusable = true → Does .stewardDecision st fun h => h.memS = h₀.memS ∧
          h.compl = h₀.compl ++ [(workOfDesc q d b).completion 0x4D st.hw.bellNs] ∧ h.tiles = h₀.tiles) ∧
        (∀ tab h₂, m.unusable = false → h₀.ncRead st.ident hintClerk ((h₀.win m.ctx m.tabWin).base + m.tabOff + 64 * k.2.2) 64 = (.ok tab, h₂) →
          h₂.res g = ⟨1, k.1, k.2.1, k.2.2⟩ → let w := (workOfDesc q d b).withEntry tab
          w.entries.all (· == 0) = false → Does .stewardDecision st fun h =>
            h.memS = h₂.memS ∧ h.workOf g = some { w with running := true } ∧ (h.res g).st = 3 ∧
              (∀ s < 3, w.entries[s]?.getD 0 ≠ 0 → (h.stream g s).st = .running ∧
                (h.stream g s).pc = (w.entries[s]?.getD 0).toNat ∧ (h.stream g s).getX 10 = w.scalar ∧
                (∀ i < 8, (h.stream g s).getX (11 + i) = w.tensors[i]?.getD 0)) ∧
              ∀ u, u ≠ g → h.tile u = h₂.tile u))

/-- A swap goes in order (16 R379 to R381): the body of the outgoing image is written while its header is invalid, then the header
with VALID, then the incoming image is read and its work's streams start; work whose model was marked meanwhile completes with
MODEL_UNUSABLE (18 R416). A step whose phase has not come does nothing. A context
that has faulted is torn down once its record is in (16 R387, R388, 18 R415): it is faulted with a class, its windows are revoked,
and a record of class 0x04 is written. Until then nothing happens. What becomes of a faulted tile's later faults, and the order of the
records, are the model's reading (notes/assumptions/11, 48). -/
def Obligations.SwapsAndTeardownsGoInOrder : Prop :=
  (∀ (g : Nat) (st : State),
    (st.hw.swapOf g = none → ∀ i ∈ [Instr.swapOutBody g, .swapOutFinalHeader g, .swapComplete g], Nothing i st) ∧
    ∀ s, st.hw.swapOf g = some s →
      (s.out = none ∨ s.phase ≠ 0 → Nothing (.swapOutBody g) st) ∧ (s.out = none ∨ s.phase ≠ 1 → Nothing (.swapOutFinalHeader g) st) ∧
      (s.phase ≠ 2 ∨ st.hw.workOf g = none → Nothing (.swapComplete g) st) ∧
      (∀ o, s.out = some o →
        (s.phase ≤ 1 → st.hw.outImage o = none → (st.hw.ctx o.1).st = 1 →
          Does (if s.phase = 0 then .swapOutBody g else .swapOutFinalHeader g) st fun h => (h.ctx o.1).st = 2 ∧ (h.ctx o.1).fcls = 0x02) ∧
        (∀ a gb h₁, s.phase = 0 → st.hw.outImage o = some a →
          let p := st.hw.savePlan g s.room
          let h₀ := (p.2.2.1.foldl (fun h r => h.granFix g (2048 * r.1) (2048 * r.2)) st.hw.fresh).fixCores g p.1
          (st.hw.tile g).badCore p.1 = none → st.hw.rangeBytes g p.2.2.1 = .ok gb →
          h₀.ncWrite st.ident 0 false (a + 64) (h₀.controlBlock g p.1 p.2.1 ++
            (coresOf p.1).flatMap (fun c => ((h₀.tile g).core c).image) ++ gb) = (none, h₁) →
          Does (.swapOutBody g) st fun h => h.swapOf g = some { s with phase := 1, rows := p.1, len := p.2.2.2 } ∧ h.memS = h₁.memS) ∧
        (∀ a h₁, s.phase = 1 → st.hw.outImage o = some a →
          st.hw.fresh.ncWrite st.ident 0 false a (imageHeader o.1 o.2.1 o.2.2 true s.rows s.len st.hw.bellNs) = (none, h₁) →
          (st.hw.workOf g ≠ none → Does (.swapOutFinalHeader g) st fun h => h.memS = h₁.memS ∧
            h.swapOf g = some { s with phase := 2, out := none }) ∧
          (st.hw.workOf g = none → Does (.swapOutFinalHeader g) st fun h => h.memS = h₁.memS ∧ h.swapOf g = none ∧ h.res g = Resid.init))) ∧
      (∀ w m a img b h₁, s.phase = 2 → st.hw.workOf g = some w → st.hw.modelOf w.model = some m → st.hw.imageAt m w.entry = some a → m.unusable = false →
        st.hw.fresh.readImage st.ident a m.stride = (.ok b, img, h₁) → w.entries.all (· == 0) = false →
        Does (.swapComplete g) st fun h => h.swapOf g = none ∧ h.workOf g = some { w with running := true } ∧
          h.res g = ⟨3, w.ctx, w.model, w.entry⟩) ∧
      (∀ w m, s.phase = 2 → st.hw.workOf g = some w → st.hw.modelOf w.model = some m → m.unusable = true →
        Does (.swapComplete g) st fun h => h.swapOf g = none ∧ h.workOf g = none ∧ h.res g = Resid.init ∧
          w.completion 0x4D st.hw.bellNs ∈ h.compl)) ∧
  (∀ (c : Nat) (st : State),
    ((st.hw.ctx c).tdCause = none ∨ (st.hw.ctx c).fwait = true → Nothing (.teardown c) st) ∧
    ((st.hw.ctx c).tdCause ≠ none → (st.hw.ctx c).fwait = false → Does (.teardown c) st fun h => (h.ctx c).st = 2 ∧
      (h.ctx c).fcls ≠ 0 ∧ (∀ w < 64, (h.win c w).valid = false) ∧ ∃ r ∈ h.errOut, r.cls = 0x04 ∧ r.ctx = some c))

/-! ## Power and the watchman (17) -/

/-- The operating points (17 R395 to R399). The requests are derived for every tile that is there; a point that was decided takes effect
when it settles. A die above its cap is held one point slower; with the module within its cap no other ceiling falls, and with every die
within its cap none falls and one that rises does so by a point. That the update of the requests ends the busy time of the bell book's
OPPOINT entries is the model's reading (notes/assumptions/87). A sag beyond the threshold stretches its die's clock until it has been
clear for the release time since the last droop; the hub's guard runs on the reset values (notes/assumptions/106). Energy and
temperature (17 R400, 09 R216 to R218). A die's energy is added to its account, the hub's to its seven; nothing is counted for a die
that is down. A stack takes the hottest of its valid sensors, and its level follows the thresholds: up to the highest reached, down only
below 97 °C and 93 °C; with fewer than two valid sensors it is at least 2. -/
def Obligations.PowerPointsAndMeasurements : Prop :=
  (∀ st : State,
    Does .opRequestUpdate st (fun h => (∀ g, h.power.reqOf g = if st.hw.present st.ident g then st.hw.requestOf g else st.hw.power.reqOf g) ∧
      h.bell = { st.hw.bell with opp := [] } ∧ Hw.onlyChanges [.power, .bell] st.hw.fresh h) ∧
    (∀ g, let w := SMap.get 0 st.hw.power.want g
      (w = 0 → Nothing (.pointChangeSettle g) st) ∧
      (w ≠ 0 → Does (.pointChangeSettle g) st fun h => h.power.effOf g = (w - 1) % 16 ∧ SMap.get 0 h.power.want g = 0 ∧
        (∀ u, u ≠ g → h.power.effOf u = st.hw.power.effOf u) ∧ Hw.onlyChanges [.power, .chron] st.hw.fresh h)) ∧
    (∀ (ws : List Nat) (input eff : Nat), let dcap := st.hw.clerk.caps.2
      Does (.powerCeilingRevision ws input eff) st fun h => h.power.inputs = (input :: st.hw.power.inputs).take 100 ∧ Hw.onlyChanges [.power] st.hw.fresh h ∧
        (input ≤ st.hw.moduleCap → (∃ d < 8, dcap < ws.getD d 0) → ∀ d < 8,
          h.power.ceilOf d = if dcap < ws.getD d 0 then min 4 (st.hw.power.ceilOf d + 1) else st.hw.power.ceilOf d) ∧
        (input ≤ st.hw.moduleCap → (∀ d < 8, ws.getD d 0 ≤ dcap) → ∀ d < 8,
          h.power.ceilOf d = st.hw.power.ceilOf d ∨ h.power.ceilOf d + 1 = st.hw.power.ceilOf d) ∧
        (st.hw.moduleCap < input → (∀ d < 8, ws.getD d 0 ≤ dcap) → ∀ d < 8, st.hw.power.ceilOf d ≤ h.power.ceilOf d)) ∧
    (∀ d mv, (st.hw.sagGuards d = false ∨ mv ≤ st.hw.sagThresh d → Nothing (.sagStretch d mv) st) ∧
      (st.hw.sagGuards d = true → st.hw.sagThresh d < mv →
        (∀ t, SMap.get none st.hw.power.sag d = some t → Does (.sagStretch d mv) st fun h =>
          h.power = { st.hw.power with drop := SMap.set 0 st.hw.power.drop d st.hw.localNs } ∧ Hw.onlyChanges [.power] st.hw.fresh h) ∧
        (SMap.get none st.hw.power.sag d = none → Does (.sagStretch d mv) st fun h => SMap.get none h.power.sag d = some st.hw.localNs ∧
          SMap.get 0 h.power.drop d = st.hw.localNs ∧
          (d < 8 → h.regF (pwrReg d 0x10) 0 32 = min (st.hw.regF (pwrReg d 0x10) 0 32 + 1) 0xFFFFFFFF) ∧
          Hw.onlyChanges [.power, .regs] st.hw.fresh h))) ∧
    (∀ d, (SMap.get none st.hw.power.sag d = none → Nothing (.sagRelease d) st) ∧
      ∀ t, SMap.get none st.hw.power.sag d = some t →
        let clear := st.hw.localNs - SMap.get 0 st.hw.power.drop d
        let sum := SMap.get 0 st.hw.power.sagRem d + (st.hw.localNs - t)
        (clear < st.hw.sagRel d → Nothing (.sagRelease d) st) ∧
        (st.hw.sagRel d ≤ clear → Does (.sagRelease d) st fun h => SMap.get none h.power.sag d = none ∧
          (d < 8 → SMap.get 0 h.power.sagRem d = sum % 1000 ∧
            h.regF (pwrReg d 0x10) 32 32 = min (st.hw.regF (pwrReg d 0x10) 32 32 + sum / 1000) 0xFFFFFFFF) ∧
          Hw.onlyChanges [.power, .regs, .chron] st.hw.fresh h))) ∧
  (∀ st : State,
    (∀ uj acts, Does (.energyMeasure 8 uj acts) st fun h => (∀ i < 7, SMap.get 0 h.power.hubUj i = SMap.get 0 st.hw.power.hubUj i + uj.getD i 0) ∧
      Hw.onlyChanges [.power, .regs] st.hw.fresh h) ∧
    (∀ d uj acts, d < 8 → (st.hw.dieUp d = false → Nothing (.energyMeasure d uj acts) st) ∧
      (st.hw.dieUp d = true → Does (.energyMeasure d uj acts) st fun h =>
        SMap.get 0 h.power.uj d = (SMap.get 0 st.hw.power.uj d + (uj.getD 0 0 + uj.getD 1 0 + uj.getD 2 0)) % 2 ^ 64 ∧
          Hw.onlyChanges [.power, .regs, .ctxs, .work] st.hw.fresh h)) ∧
    (∀ d s rs, 8 ≤ d ∨ st.hw.dieUp d = false → Nothing (.thermSample d s rs) st) ∧
    (∀ d s rs, d < 8 → st.hw.dieUp d = true →
      let x := st.hw.stack (2 * d + s % 2)
      let y := x.sampled rs st.hw.localNs
      y.level < 3 ∨ x.level = 3 → Does (.thermSample d s rs) st fun h => h.stack (2 * d + s % 2) = y ∧
        (∀ k, k ≠ 2 * d + s % 2 → h.stack k = st.hw.stack k) ∧ Hw.onlyChanges [.memS, .regs, .power, .chron] st.hw.fresh h) ∧
    (∀ (x : Stack) rs now, let y := x.sampled rs now
      y.st = x.st ∧ (∀ i < 4, SMap.get Sensor.init y.sensors i = x.sensorAfter rs now i) ∧
        (x.validAfter rs now < 2 → y.level = if x.level = 3 then 3 else 2) ∧ (2 ≤ x.validAfter rs now → y.level = levelAfter x.level y.temp) ∧
        (y.temp = x.temp ∨ ∃ i < 4, (x.sensorAfter rs now i).valid = true ∧ y.temp = (x.sensorAfter rs now i).value) ∧
        ∀ i < 4, (x.sensorAfter rs now i).valid = true → (x.sensorAfter rs now i).last ≠ [] → (x.sensorAfter rs now i).value ≤ y.temp) ∧
    (∀ old (t : Int), old ≤ 3 → (105 * 16 ≤ t → levelAfter old t = 3) ∧ (old = 3 → levelAfter old t = 3) ∧
      (old ≤ 1 → 95 * 16 ≤ t → t < 100 * 16 → levelAfter old t = 1) ∧ (old ≤ 2 → 100 * 16 ≤ t → t < 105 * 16 → levelAfter old t = 2) ∧
      (old = 2 → 97 * 16 ≤ t → t < 105 * 16 → levelAfter old t = 2) ∧ (old = 2 → t < 97 * 16 → levelAfter old t = 1) ∧
      (old = 1 → t < 93 * 16 → levelAfter old t = 0) ∧ (old = 1 → 93 * 16 ≤ t → t < 100 * 16 → levelAfter old t = 1)))

/-- The watchman (17 R402 to R406, 18 R425). A sample, of a die's junctions the highest of its sensors, enters its input's filter; an
inlet above 55 °C begins an orderly shutdown
with its grace time; after the grace time the main switch opens; after 60 s with nothing wrong the module restarts, when AUTO is
set; clearing the crash record clears VALID and COUNT. Before their time nothing happens. An error in the clerk's own handler (18
R422 to R424): with the clerk running, the watchman restarts it by a fallow reset and cancels the commands in progress; a second one
within 60 s begins an orderly shutdown; while a more severe decision is in progress the commands are cancelled and the decision stands
(17 R403). A reply late by less than 10 ms is none. -/
def Obligations.WatchmanDecides : Prop :=
  (∀ st : State,
    (∀ i vs, 15 ≤ i ∨ vs.length ≠ watchSensors i ∨ (st.hw.boot.phase = 0 ∧ st.hw.power.latched = true) → Nothing (.watchmanSample i vs) st) ∧
    (∀ i vs, i < 15 → vs.length = watchSensors i → ∃ t, exec (.watchmanSample i vs) st = .next t) ∧
    (∀ (i : Nat) vs, i = 11 → vs.length = watchSensors i → st.hw.boot.phase ≠ 0 ∨ st.hw.power.latched = false →
      let w := (SMap.get WIn.init st.hw.power.ins i).take i (vs.headD 0)
      ∃ t, exec (.watchmanSample i vs) st = .next t ∧
        ((∀ y, w.y = some y → y ≤ 55 * 16 * 65536) → st.hw.power.action ≠ 3 →
          SMap.get WIn.init t.hw.power.ins i = w ∧ t.hw.power.action = st.hw.power.action) ∧
        (∀ y, w.y = some y → 55 * 16 * 65536 < y → st.hw.power.sev < 4 → st.hw.power.mainSw = true → st.hw.power.cond 0 5 = false →
          t.hw.power.action = 2 ∧ t.hw.boot.fallow ≠ 0 ∧ t.hw.power.graceAt.isSome = true)) ∧
    (∀ v vs, (∀ x ∈ v :: vs, x ≤ maxInt v vs) ∧ maxInt v vs ∈ v :: vs) ∧
    (∀ t, st.hw.power.graceAt = some t → (st.hw.localNs < t → Nothing .graceExpiry st) ∧
      (t ≤ st.hw.localNs → Does .graceExpiry st fun h => h.power.mainSw = false ∧ h.boot.phase = 0 ∧ h.power.graceAt = none)) ∧
    (st.hw.power.graceAt = none → Nothing .graceExpiry st) ∧
    (st.hw.boot.phase ≠ 0 ∨ st.hw.power.latched = true ∨ st.hw.regF (watchReg 0) 63 1 = 0 ∨
        (∀ t, st.hw.power.calmAt = some t → st.hw.localNs < t + 60000000000) → Nothing .autoRestart st) ∧
    (∀ t, st.hw.boot.phase = 0 → st.hw.power.latched = false → st.hw.regF (watchReg 0) 63 1 = 1 → st.hw.power.calmAt = some t →
      t + 60000000000 ≤ st.hw.localNs → ∃ u, exec .autoRestart st = .next u ∧ u.hw.boot.phase = 1 ∧ u.hw.boot.cause = 1 ∧ u.err = .init) ∧
    (∀ v : Word, (bitAt v.toNat 63 = false → Nothing (.watchCrashClear v) st) ∧
      (bitAt v.toNat 63 = true → st.hw.power.crash.length = 128 → Does (.watchCrashClear v) st fun h =>
        h.crashF 5 1 = 0 ∧ h.crashF 96 4 = 0 ∧ Hw.onlyChanges [.power] st.hw.fresh h)) ∧
    Does .holdupBankFull st (fun h => h.power = (if st.hw.power.action = 3 then st.hw.power else { st.hw.power with bank := true }) ∧
      Hw.onlyChanges [.power] st.hw.fresh h)) ∧
  (∀ (kind opcode : Nat) (pc : Word) (st : State),
    (st.hw.boot.phase < 3 → Nothing (.clerkHandlerError kind opcode pc) st) ∧
    (kind = 3 → (∀ c, st.hw.clerk.cur = some c → st.hw.localNs < c.at_ + 10000000) → Nothing (.clerkHandlerError kind opcode pc) st) ∧
    (kind ≠ 3 ∨ (∃ c, st.hw.clerk.cur = some c ∧ c.at_ + 10000000 ≤ st.hw.localNs) → 3 ≤ st.hw.boot.phase → st.hw.power.sev < 4 → Does (.clerkHandlerError kind opcode pc) st fun h =>
      h.clerk.cur = none ∧ h.clerk.bg = [] ∧ h.clerk.heldCmds = [] ∧ h.power.clerkErrAt = some h.localNs ∧ h.boot.fallow ≠ 0 ∧
        (∀ t, st.hw.power.clerkErrAt = some t → st.hw.localNs < t + 60000000000 → h.power.action = 2) ∧
        ((∀ t, st.hw.power.clerkErrAt = some t → t + 60000000000 ≤ st.hw.localNs) → st.hw.boot.fallow = 0 → h.power.sev = 3)) ∧
    (kind ≠ 3 ∨ (∃ c, st.hw.clerk.cur = some c ∧ c.at_ + 10000000 ≤ st.hw.localNs) → 3 ≤ st.hw.boot.phase → 4 ≤ st.hw.power.sev →
      Does (.clerkHandlerError kind opcode pc) st fun h => h.clerk.cur = none ∧ h.clerk.bg = [] ∧ h.clerk.heldCmds = [] ∧
        h.boot.fallow = st.hw.boot.fallow ∧ h.power.action = st.hw.power.action ∧ h.power.sev = st.hw.power.sev))

/-! ## Observation (19) -/

/-- The chronicle's writer takes one event, or one loss marker where a die lost some (19 R430, R431); a mark is an event of type
0x11. A gauge that is enabled takes every 2^RATE-th value of its source, read from the state where that holds it
(R442, notes/assumptions/110). A census ends with its header, and the stream of a watchdog census
faults (R433, R436, 04 R111). Without anything to take nothing happens. -/
def Obligations.ObservationTakesWhatItIsGiven : Prop :=
  ∀ st : State,
    let c := st.hw.chron
    (c.configured = false → Nothing .chronicleWrite st) ∧
    ((∀ d < 9, SMap.get 0 c.lost d = 0) → (∀ d < 9, SMap.get [] c.bufs d = []) → Nothing .chronicleWrite st) ∧
    (∀ d, d < 9 → c.configured = true → 2 ≤ c.free → SMap.get 0 c.lost d ≠ 0 → (∀ e < d, SMap.get 0 c.lost e = 0) →
      Does .chronicleWrite st fun h => SMap.get 0 h.chron.lost d = 0 ∧ h.chron.write = add32 c.write 1 ∧ h.chron.bufs = c.bufs) ∧
    (∀ d e es, c.configured = true → (∀ d < 9, SMap.get 0 c.lost d = 0) →
      ((List.range 9).map (fun i => (c.turn + 1 + i) % 9)).find? (fun d => SMap.get [] c.bufs d != []) = some d →
      SMap.get [] c.bufs d = e :: es → Does .chronicleWrite st fun h => SMap.get [] h.chron.bufs d = es ∧ h.chron.turn = d ∧
        (2 ≤ c.free → h.chron.write = add32 c.write 1 ∧ ∃ h₀, Hw.onlyChanges [.chron] st.hw.fresh h₀ ∧
          h.memS = (h₀.ncWrite st.ident hintClerk false (c.base + 32 * (c.write % 2 ^ c.log2n)) e.bytes).2.memS) ∧
        (c.free < 2 → h.chron.write = c.write ∧ SMap.get 0 h.chron.lost d = 1 ∧ h.memS = st.hw.memS)) ∧
    (∀ hart v, let on := c.running && bitAt c.dies 8 && bitAt c.classes (chronClass 0x11)
      (on = false → Nothing (.chronMark hart v) st) ∧
      (on = true → (SMap.get [] c.bufs 8).length < 256 → Does (.chronMark hart v) st fun h =>
        SMap.get [] h.chron.bufs 8 = SMap.get [] c.bufs 8 ++ [⟨st.hw.bellNs, 0x11, 8, 0, none, [(16, 8, v.toNat), (24, 8, hart)]⟩] ∧
          Hw.onlyChanges [.chron] st.hw.fresh h)) ∧
    (∀ i v₀, let g := st.hw.gauge i
      let v := st.hw.gaugeValue g v₀
      (32 ≤ i ∨ bitAt (recN g.cfg 13 1) 0 = false → Nothing (.gaugeSample i v₀) st) ∧
      (i < 32 → bitAt (recN g.cfg 13 1) 0 = true → Does (.gaugeSample i v₀) st fun h => (h.gauge i).seen = g.seen + 1 ∧
        (∀ j, j ≠ i → h.gauge j = st.hw.gauge j) ∧ Hw.onlyChanges [.obs] st.hw.fresh h ∧
        ((g.seen + 1) % 2 ^ recN g.cfg 12 1 = 0 → (h.gauge i).n = min (g.n + 1) (2 ^ 64 - 1) ∧
          SMap.get 0 (h.gauge i).bins (g.bin v) = min (SMap.get 0 g.bins (g.bin v) + 1) (2 ^ 32 - 1)) ∧
        ((g.seen + 1) % 2 ^ recN g.cfg 12 1 ≠ 0 → (h.gauge i).n = g.n ∧ (h.gauge i).bins = g.bins))) ∧
    (st.hw.obs.census = none → Nothing .censusComplete st) ∧
    (∀ k, st.hw.obs.census = some k → st.hw.obs.waits = [] → Does .censusComplete st fun h => h.obs.census = none ∧
      (k.trigger = 1 → k.strm < 3 → (st.hw.stream k.tile k.strm).st = .running → (st.hw.tile k.tile).faulted = false →
        (h.stream k.tile k.strm).st = .faulted ∧ (h.stream k.tile k.strm).cause = 0x09) ∧
      (∀ n, k.cmd = some n → ∀ b ∈ h.clerk.bg, b.id = n → b.ready = true))

/-! ## Reset, boot, trust and lamps (20, 21) -/

/-- Power-on and MRST_N (20 R445, 21 R472): power-on begins boot step 1 with registers, time and error ring as at reset, and keeps the
flash; MRST_N held low resets a module whose main switch is closed to step 2, and holds it; boundary scan does so only when unlocked for
it. Harts start in machine mode by their bits of HART_START in a module that runs an image, and not before nor after its image fails to
verify; hart 0 not by this register (20 R453, Table 20-11; notes/assumptions/50). The host comes out of its reset with the booted bank
verified again (10 R255). A fallow reset that ends has the stacks out of self-refresh and the accelerator side running (20 R446). -/
def Obligations.ResetsBeginAndRelease : Prop :=
  (∀ st : State,
    (∃ t, exec .powerOn st = .next t ∧ t.hw.boot.phase = 1 ∧ t.hw.boot.cause = 0 ∧ t.hw.regs = [] ∧ t.hw.localNs = 0 ∧ t.err = .init ∧
      t.hw.boot.flash = st.hw.boot.flash ∧ t.hw.memS.mem.cells = [] ∧ t.ident = st.ident ∧ t.pending = st.pending) ∧
    (∃ t, exec .mrstNAssert st = .next t ∧ t.hw.boot.mrst = true ∧ t.hw.boot.flash = st.hw.boot.flash ∧
      (st.hw.power.mainSw = true → t.hw.boot.phase = 2 ∧ t.hw.boot.cause = 2 ∧ t.err = .init ∧ t.hw.tiles = [] ∧ t.hw.bellNs = 0 ∧
        t.hw.localNs = st.hw.localNs) ∧
      (st.hw.power.mainSw = false → t.hw.boot.phase = st.hw.boot.phase ∧ t.err = st.err)) ∧
    Does .mrstNRelease st (fun h => h.boot = { st.hw.boot with mrst := false } ∧ Hw.onlyChanges [.boot] st.hw.fresh h) ∧
    (st.hw.extestOk = false → Nothing .extestEntry st) ∧
    (st.hw.extestOk = true → ∃ t, exec .extestEntry st = .next t ∧ t.hw.boot.extest = true ∧
      (st.hw.power.mainSw = true → t.hw.boot.phase = 2 ∧ t.err = .init)) ∧
    Does .extestExit st (fun h => h.boot = { st.hw.boot with extest := false } ∧ Hw.onlyChanges [.boot] st.hw.fresh h)) ∧
  (∀ st : State,
    (∀ v : Word, let ok := st.hw.boot.phase = 8 ∧ st.hw.boot.booted = true ∧ st.hw.boot.unverified = false ∧ st.hw.hostReset = false
      (¬ ok → Nothing (.hartStart v) st) ∧
      (ok → Does (.hartStart v) st fun h => Hw.onlyChanges [.boot] st.hw.fresh h ∧
        (∀ i < 64, h.hartOn i = ((decide (0 < i) && bitAt v.toNat i) || st.hw.hartOn i)) ∧
        ∀ i < 64, 0 < i → bitAt v.toNat i = true → st.hw.hartOn i = false →
          SMap.get none h.boot.harts i = some ⟨st.hw.boot.entry, i, ddrBase, 3, 0, 0, []⟩)) ∧
    (st.hw.hostReset = false → Nothing .hostResetRelease st) ∧
    (st.hw.hostReset = true →
      (st.hw.boot.booted = false → Does .hostResetRelease st fun h => h.hostReset = false ∧ Hw.onlyChanges [.regs] st.hw.fresh h) ∧
      (st.hw.boot.booted = true → st.hw.bankOk st.ident st.hw.boot.bank = true → Does .hostResetRelease st fun h =>
        h.hartOn 0 = true ∧ h.boot.booted = true ∧ h.boot.unverified = false ∧ h.boot.bank = st.hw.boot.bank ∧ h.boot.entry = hdrEntry (st.hw.bankHdr st.hw.boot.bank) ∧
          (st.hw.hartOn 0 = false → SMap.get none h.boot.harts 0 = some ⟨h.boot.entry, 0, ddrBase, 3, 0, 0, []⟩)) ∧
      (st.hw.boot.booted = true → st.hw.bankOk st.ident st.hw.boot.bank = false → Does .hostResetRelease st fun h => h.hostReset = false ∧
        h.boot.unverified = true ∧ h.boot.harts = st.hw.boot.harts ∧ ∃ r ∈ h.errOut, r.cls = 0x15)) ∧
    (∀ links sides spares, st.hw.boot.fallow ≠ 1 → Nothing (.fallowResetEnd links sides spares) st) ∧
    (∀ links sides spares, st.hw.boot.fallow = 1 → Does (.fallowResetEnd links sides spares) st fun h => h.boot.fallow = 0 ∧
      (∀ k < 16, (st.hw.stack k).st = .selfRefresh → (st.hw.stack k).entering = 0 → (h.stack k).st = .online) ∧
      ∀ d < 8, SMap.get 0 h.dieSt d = if bitAt links d && SMap.get 0 st.hw.dieSt d != 5 then 3 else SMap.get 0 st.hw.dieSt d))

/-- Boot runs its steps in order, each only when the one before it has ended and nothing holds the module (20 R449): the clerk
starts unless a DIMM is wrong; images are verified and a bank chosen; the dies come up, or none does and the boot is held; the
stacks train, or fail and hold out their die; the lamps light; hart 0 is released when an image was loaded (R453). The repair table and
what training finds are as notes/assumptions/24 has them. -/
def Obligations.BootRunsItsStepsInOrder : Prop :=
  ∀ (n m k : Nat) (sp : List Nat) (reps : List (Nat × List Repair)) (st : State),
    (∀ e ∈ [(2, Instr.bootClerkStart n), (3, .bootVerifyImages), (4, .bootDiesUp n m k sp), (5, .bootHbm n reps), (6, .bootOptics),
      (7, .bootReleaseHarts)], st.hw.bootFree e.1 = false → Nothing e.2 st) ∧
    (st.hw.bootFree 2 = true →
      (n % 65536 = 0 → Does (.bootClerkStart n) st fun h => h.boot = { st.hw.boot with phase := 3, dimms := 0 } ∧
        Hw.onlyChanges [.boot] st.hw.fresh h) ∧
      (n % 65536 ≠ 0 → Does (.bootClerkStart n) st fun h => h.boot.phase = 9 ∧ h.boot.dimms = n % 65536 ∧
        ∃ r ∈ h.errOut, r.cls = 0x18)) ∧
    (st.hw.bootFree 3 = true → Does .bootVerifyImages st fun h => h.boot.phase = 4 ∧
      (∀ b, st.hw.bootBank st.ident = some b → h.boot.booted = true ∧ h.boot.bank = b ∧ h.boot.entry = hdrEntry (st.hw.bankHdr b)) ∧
      (st.hw.bootBank st.ident = none → h.boot.booted = st.hw.boot.booted ∧ 2 ≤ h.errOut.length)) ∧
    (st.hw.bootFree 4 = true → Does (.bootDiesUp n m k sp) st fun h =>
      (∀ d < 8, SMap.get 0 h.dieSt d = dieAtBoot st.ident n m d) ∧
        h.boot.phase = (if hubListed st.ident && (List.range 8).any (fun d => dieAtBoot st.ident n m d == 0) then 5 else 9)) ∧
    (st.hw.bootFree 5 = true → Does (.bootHbm n reps) st fun h =>
      (h.boot.phase = if (List.range 8).any (fun d => st.hw.dieUp d && !bitAt n (2 * d) && !bitAt n (2 * d + 1)) then 6 else 9) ∧
        ∀ s < 16, st.hw.dieUp (s / 2) = true →
          let found := if st.hw.boot.retained then [] else (reps.getD s ((st.hw.stack s).hppr, [])).2
          let tab := SMap.get [] st.hw.boot.repairs s
          (h.stack s).st = (if bitAt n s then .failed else .online) ∧ (bitAt n s = true → SMap.get 0 h.dieSt (s / 2) = 4) ∧
            (h.stack s).repairs = ((st.hw.stack s).reapply tab).repairs ++ found ∧ SMap.get [] h.boot.repairs s = tab ++ found) ∧
    (st.hw.bootFree 6 = true → Does .bootOptics st fun h => h.boot.phase = 7 ∧ ∀ b < 4,
      (h.lamp b).st = if 1 ≤ (st.hw.lamp b).st ∧ (st.hw.lamp b).st ≤ 4 ∧ (st.hw.lamp b).open_ = false then 4 else (st.hw.lamp b).st) ∧
    (st.hw.bootFree 7 = true → Does .bootReleaseHarts st fun h => h.boot.phase = 8 ∧
      h.hartOn 0 = (st.hw.boot.booted || st.hw.hartOn 0) ∧
      (st.hw.boot.booted = true → st.hw.hartOn 0 = false → SMap.get none h.boot.harts 0 = some ⟨st.hw.boot.entry, 0, ddrBase, 3, 0, 0, []⟩) ∧
      ∀ i, i ≠ 0 → SMap.get none h.boot.harts i = SMap.get none st.hw.boot.harts i)

/-- The flash and the debug unlock (20 R457 to R459). While idle, GO starts the operation written; while busy another operation or page is
refused with a record. An operation that ends clears BUSY and programs an erased page, or erases a block, of the bank that did not boot;
a failing one sets ERR. A good token unlocks its scopes beside those that are open; another is counted and draws a fresh challenge;
after eight there is none. -/
def Obligations.FlashAndUnlockFollowTheirRules : Prop :=
  ∀ (hart : Nat) (v : Word) (t : List Byte) (st : State),
    let w := v.toNat
    (∀ e ∈ [(0, Instr.flashProgram hart v), (1, .flashErase hart v)],
      (fld w 56 2 ≠ e.1 → Nothing e.2 st) ∧
      (fld w 56 2 = e.1 → st.hw.boot.busy = false → Does e.2 st fun h => h.regF flashCtrl 56 2 = e.1 ∧ h.regF flashCtrl 0 13 = fld w 0 13 ∧
        h.boot = (if bitAt w 63 then { st.hw.boot with busy := true, op := some (e.1, fld w 0 13) } else st.hw.boot) ∧
        Hw.onlyChanges [.regs, .boot] st.hw.fresh h) ∧
      (fld w 56 2 = e.1 → st.hw.boot.busy = true → bitAt w 61 = false →
        (fld w 56 2 ≠ st.hw.regF flashCtrl 56 2 ∨ fld w 0 13 ≠ st.hw.regF flashCtrl 0 13) →
        ∃ r : ErrRec, r.cls = 0x01 ∧ Does e.2 st fun h => h.errOut = st.hw.errOut ++ [r] ∧ Hw.onlyChanges [.errOut] st.hw.fresh h)) ∧
    (st.hw.boot.op = none → ∀ ok, Nothing (.flashOpDone ok) st) ∧
    (∀ op page, st.hw.boot.op = some (op, page) →
      let a := bankBase st.hw.freeBank + page * 4096
      (Does (.flashOpDone false) st fun h => h.boot = { st.hw.boot with busy := false, op := none } ∧ h.regF flashCtrl 61 1 = 1) ∧
      (op = 0 → (st.hw.flashBytes a 4096).all (· == 0xFF) = true → Does (.flashOpDone true) st fun h => h.boot.busy = false ∧ h.boot.op = none ∧
        h.flashBytes a 4096 = st.hw.flashBuf ∧ Hw.onlyChanges [.boot] st.hw.fresh h) ∧
      (op = 0 → (st.hw.flashBytes a 4096).all (· == 0xFF) = false → Does (.flashOpDone true) st fun h => h.regF flashCtrl 61 1 = 1 ∧
        h.boot.flash = st.hw.boot.flash) ∧
      (op = 1 → page % 16 = 0 → Does (.flashOpDone true) st fun h => h.boot.busy = false ∧ (∀ i < 65536, h.flashByte (a + i) = 0xFF) ∧
        ∀ b, b < a ∨ a + 65536 ≤ b → h.flashByte b = st.hw.flashByte b)) ∧
    (st.hw.inReset = false → st.hw.boot.fails < 8 → Does .unlockChallenge st fun h => h.out = [Outp.challenge st.hw.boot.challenge] ∧
      Hw.onlyChanges [.out] st.hw.fresh h) ∧
    (8 ≤ st.hw.boot.fails ∨ st.hw.inReset = true → Nothing .unlockChallenge st ∧ Nothing (.unlockToken t) st) ∧
    (st.hw.inReset = false → st.hw.boot.fails < 8 → st.hw.tokenOk t = true → Does (.unlockToken t) st fun h =>
      h.boot = { st.hw.boot with unlocked := true, scopes := st.hw.boot.scopes ||| recN t 5 1 % 16 } ∧ Hw.onlyChanges [.boot] st.hw.fresh h) ∧
    (st.hw.inReset = false → st.hw.boot.fails < 8 → st.hw.tokenOk t = false → Does (.unlockToken t) st fun h => h.boot.fails = st.hw.boot.fails + 1 ∧
      h.boot.unlocked = st.hw.boot.unlocked ∧ Hw.onlyChanges [.boot, .free] st.hw.fresh h)

/-- The lamp bays (21 R468, R469): an opened bay's lamp is dark and its 32 links are not up, and a wake that waited for it alone ends
(17 R401); an open one that is closed shows what it holds, and a good lamp starts up where the optics step has begun and nothing holds
boot; it warms, calibrates and is ready in that order, and then the links of
its ports, while no queue pair is open, come up. -/
def Obligations.LampsStartUpInOrder : Prop :=
  ∀ (n : Nat) (st : State),
    let l := st.hw.lamp n
    (n < 4 → Does (.lampLatchOpen n) st fun h => h.lamp n = { l with open_ := true, st := if l.st = 0 then 0 else 1, phase := 0, seen := true } ∧
      (∀ k ∈ lampLinks n, h.linkUp k = false) ∧
      (st.hw.boot.fallow ≠ 3 → (∀ k, k ∉ lampLinks n → h.flink k = st.hw.flink k) ∧ Hw.onlyChanges [.boot, .fab] st.hw.fresh h) ∧
      (st.hw.boot.fallow = 3 → (∀ m < 4, m ≠ n → (st.hw.lamp m).phase = 0) → h.boot.fallow = 0)) ∧
    (n < 4 → l.open_ = false → ∀ kind temp hours, Nothing (.lampLatchClose n kind temp hours) st) ∧
    (n < 4 → l.open_ = true → ∀ kind temp hours, Does (.lampLatchClose n kind temp hours) st fun h => (h.lamp n).open_ = false ∧ (h.lamp n).temp = temp ∧
      (h.lamp n).hours = hours ∧ Hw.onlyChanges [.boot] st.hw.fresh h ∧
      (h.lamp n).st = (if kind = 0 then 0 else if kind = 1 then 5 else if st.hw.lampsRun = true ∧ st.hw.boot.fallow = 0 then 2 else 1)) ∧
    (4 ≤ n → Nothing (.lampLatchOpen n) st ∧ ∀ kind temp hours, Nothing (.lampLatchClose n kind temp hours) st) ∧
    (∀ e ∈ [(1, 3, 2, Instr.lampWarmed n), (2, 4, 3, .lampCalibrated n)],
      (l.phase ≠ e.1 → Nothing e.2.2.2 st) ∧
      (l.phase = e.1 → Does e.2.2.2 st fun h => h.lamp n = { l with st := e.2.1, phase := e.2.2.1 } ∧ (∀ k, k ≠ n → h.lamp k = st.hw.lamp k) ∧
        Hw.onlyChanges [.boot] st.hw.fresh h)) ∧
    (l.phase ≠ 3 → Nothing (.lampReady n) st) ∧
    (l.phase = 3 → l.st = 4 → st.hw.accelHeld = false → st.hw.lampsRun = true → st.hw.fab.qps = [] → Does (.lampReady n) st fun h => h.lamp n = { l with phase := 0 } ∧
      (∀ k ∈ lampLinks n, st.hw.portMode (k / 8) < 2 → k % 8 < st.hw.portLinks (k / 8) → h.linkUp k = true) ∧
      Hw.onlyChanges [.boot, .fab] st.hw.fresh h)
end

