-- ==== Sys2Proof/Laws/Smap.lean ====
section
/-!
SUPPORT. Laws/Smap.lean: what a sparse table reads as after a write, and that a write keeps the canonical form; the same for
memory. None of the read laws needs the canonical form.
-/
namespace Sys2Proof.Machine

variable {α : Type}

@[simp] theorem SMap.get_nil (d : α) (k : Nat) : SMap.get d [] k = d := rfl

theorem SMap.get_del_self (d : α) (m : SMap α) (k : Nat) : SMap.get d (SMap.del m k) k = d := by
  induction m with
  | nil => rfl
  | cons e m ih =>
    obtain ⟨j, v⟩ := e
    by_cases h : j = k <;> simp [SMap.del, SMap.get, h, ih]

theorem SMap.get_del_ne (d : α) (m : SMap α) {j k : Nat} (hne : j ≠ k) :
    SMap.get d (SMap.del m k) j = SMap.get d m j := by
  induction m with
  | nil => rfl
  | cons e m ih =>
    obtain ⟨i, v⟩ := e
    by_cases h : i = k
    · subst h
      have : i ≠ j := fun e => hne e.symm
      simp [SMap.del, SMap.get, ih, this]
    · rw [SMap.del, if_neg h]
      by_cases h' : i = j <;> simp [SMap.get, h', ih]

theorem SMap.get_ins_self (d : α) (m : SMap α) (k : Nat) (v : α) : SMap.get d (SMap.ins m k v) k = v := by
  induction m with
  | nil => simp [SMap.ins, SMap.get]
  | cons e m ih =>
    obtain ⟨j, w⟩ := e
    by_cases h : k < j
    · simp [SMap.ins, SMap.get, h]
    · by_cases h' : k = j
      · simp [SMap.ins, SMap.get, h']
      · have : ¬ j = k := fun e => h' e.symm
        simp [SMap.ins, SMap.get, h, h', this, ih]

theorem SMap.get_ins_ne (d : α) (m : SMap α) {j k : Nat} (v : α) (hne : j ≠ k) :
    SMap.get d (SMap.ins m k v) j = SMap.get d m j := by
  have hk : ¬ k = j := fun e => hne e.symm
  induction m with
  | nil => simp [SMap.ins, SMap.get, hk]
  | cons e m ih =>
    obtain ⟨i, w⟩ := e
    by_cases h : k < i
    · simp [SMap.ins, SMap.get, h, hk]
    · by_cases h' : k = i
      · subst h'; simp [SMap.ins, SMap.get, hk]
      · rw [SMap.ins, if_neg h, if_neg h']
        by_cases h'' : i = j <;> simp [SMap.get, h'', ih]

variable [DecidableEq α]

/-- A write is read back. -/
@[simp] theorem SMap.get_set_self (d : α) (m : SMap α) (k : Nat) (v : α) : SMap.get d (SMap.set d m k v) k = v := by
  by_cases h : v = d
  · simp [SMap.set, h, SMap.get_del_self]
  · simp [SMap.set, h, SMap.get_ins_self]

/-- A write changes no other entry (a register's default is its own: `e` is that of the entry written). -/
theorem SMap.get_set_ne (d : α) {e : α} (m : SMap α) {j k : Nat} (v : α) (hne : j ≠ k) :
    SMap.get d (SMap.set e m k v) j = SMap.get d m j := by
  by_cases h : v = e
  · simp [SMap.set, h, SMap.get_del_ne _ _ hne]
  · simp [SMap.set, h, SMap.get_ins_ne _ _ _ hne]

theorem SMap.get_set (d : α) (m : SMap α) (j k : Nat) (v : α) :
    SMap.get d (SMap.set d m k v) j = if j = k then v else SMap.get d m j := by
  by_cases h : j = k
  · subst h; simp
  · simp [h, SMap.get_set_ne]

@[simp] theorem SMap.get_mod_self (d : α) (m : SMap α) (k : Nat) (f : α → α) :
    SMap.get d (SMap.mod d m k f) k = f (SMap.get d m k) := by simp [SMap.mod]

theorem SMap.get_mod_ne (d : α) (m : SMap α) {j k : Nat} (f : α → α) (hne : j ≠ k) :
    SMap.get d (SMap.mod d m k f) j = SMap.get d m j := by simp [SMap.mod, SMap.get_set_ne _ _ _ hne]

theorem SMap.wfFrom_mono (d : α) {m : SMap α} {a b : Nat} (hab : a ≤ b) (h : SMap.wfFrom d b m = true) :
    SMap.wfFrom d a m = true := by
  cases m with
  | nil => rfl
  | cons e m =>
    obtain ⟨j, v⟩ := e
    simp only [SMap.wfFrom, Bool.and_eq_true, decide_eq_true_eq] at h ⊢
    exact ⟨⟨Nat.le_trans hab h.1.1, h.1.2⟩, h.2⟩

theorem SMap.wfFrom_del (d : α) (m : SMap α) (k : Nat) : ∀ lo, SMap.wfFrom d lo m = true → SMap.wfFrom d lo (SMap.del m k) = true := by
  induction m with
  | nil => intro lo h; exact h
  | cons e m ih =>
    obtain ⟨j, v⟩ := e
    intro lo h
    simp only [SMap.wfFrom, Bool.and_eq_true, decide_eq_true_eq] at h
    by_cases hj : j = k
    · rw [SMap.del, if_pos hj]
      exact ih lo (SMap.wfFrom_mono d (by omega) h.2)
    · rw [SMap.del, if_neg hj]
      simp only [SMap.wfFrom, Bool.and_eq_true, decide_eq_true_eq]
      exact ⟨h.1, ih _ h.2⟩

theorem SMap.wfFrom_ins (d : α) (m : SMap α) (k : Nat) (v : α) (hv : v ≠ d) :
    ∀ lo, lo ≤ k → SMap.wfFrom d lo m = true → SMap.wfFrom d lo (SMap.ins m k v) = true := by
  induction m with
  | nil => intro lo hk _; simp [SMap.ins, SMap.wfFrom, hk, hv]
  | cons e m ih =>
    obtain ⟨j, w⟩ := e
    intro lo hk h
    simp only [SMap.wfFrom, Bool.and_eq_true, decide_eq_true_eq] at h
    by_cases h1 : k < j
    · rw [SMap.ins, if_pos h1]
      simp only [SMap.wfFrom, Bool.and_eq_true, decide_eq_true_eq]
      exact ⟨⟨hk, hv⟩, ⟨by omega, h.1.2⟩, h.2⟩
    · by_cases h2 : k = j
      · rw [SMap.ins, if_neg h1, if_pos h2]
        simp only [SMap.wfFrom, Bool.and_eq_true, decide_eq_true_eq]
        exact ⟨⟨hk, hv⟩, h2 ▸ h.2⟩
      · rw [SMap.ins, if_neg h1, if_neg h2]
        simp only [SMap.wfFrom, Bool.and_eq_true, decide_eq_true_eq]
        exact ⟨h.1, ih (j + 1) (by omega) h.2⟩

/-- A write keeps the canonical form. -/
theorem SMap.wf_set (d : α) (m : SMap α) (k : Nat) (v : α) (h : SMap.wf d m = true) :
    SMap.wf d (SMap.set d m k v) = true := by
  by_cases hv : v = d
  · simp only [SMap.set, hv, if_true]; exact SMap.wfFrom_del d m k 0 h
  · simp only [SMap.set, hv, if_false]; exact SMap.wfFrom_ins d m k v hv 0 (Nat.zero_le k) h

/-- Dropping entries keeps the canonical form. -/
theorem SMap.wfFrom_filter (d : α) (f : Nat × α → Bool) (m : SMap α) :
    ∀ lo, SMap.wfFrom d lo m = true → SMap.wfFrom d lo (m.filter f) = true := by
  induction m with
  | nil => intro lo _; rfl
  | cons e m ih =>
    intro lo h
    obtain ⟨j, v⟩ := e
    simp only [SMap.wfFrom, Bool.and_eq_true, decide_eq_true_eq] at h
    by_cases hf : f (j, v) = true
    · rw [List.filter_cons_of_pos hf]
      simp only [SMap.wfFrom, Bool.and_eq_true, decide_eq_true_eq]
      exact ⟨h.1, ih (j + 1) h.2⟩
    · rw [List.filter_cons_of_neg hf]
      exact SMap.wfFrom_mono d (by omega) (ih (j + 1) h.2)

/-! ## Memory -/

@[simp] theorem Mem.byte_put_self (m : Mem) (a : Nat) (b : Byte) : (m.put a b).byte a = b := by simp [Mem.put, Mem.byte]

theorem Mem.byte_put_ne (m : Mem) {a x : Nat} (b : Byte) (h : x ≠ a) : (m.put a b).byte x = m.byte x := by
  simp [Mem.put, Mem.byte, SMap.get_set_ne _ _ _ h]

/-- A run of bytes written changes no byte outside it. -/
theorem Mem.byte_puts_ne (bs : List Byte) : ∀ (m : Mem) (a x : Nat), x < a ∨ a + bs.length ≤ x → (m.puts a bs).byte x = m.byte x := by
  induction bs with
  | nil => intro m a x _; rfl
  | cons b bs ih =>
    intro m a x h
    simp only [List.length_cons] at h
    rw [Mem.puts, ih (m.put a b) (a + 1) x (by omega), Mem.byte_put_ne _ _ (by omega)]

/-- A run of bytes written is read back. -/
theorem Mem.bytes_puts (bs : List Byte) : ∀ (m : Mem) (a : Nat), (m.puts a bs).bytes a bs.length = bs := by
  induction bs with
  | nil => intro m a; rfl
  | cons b bs ih =>
    intro m a
    simp only [List.length_cons, Mem.bytes, Mem.puts]
    rw [ih, Mem.byte_puts_ne _ _ _ _ (Or.inl (Nat.lt_succ_self a)), Mem.byte_put_self]

theorem Mem.wf_put (m : Mem) (a : Nat) (b : Byte) (h : m.wf = true) : (m.put a b).wf = true := SMap.wf_set _ _ _ _ h

/-- Every memory write keeps the canonical form. -/
theorem Mem.wf_puts (bs : List Byte) : ∀ (m : Mem) (a : Nat), m.wf = true → (m.puts a bs).wf = true := by
  induction bs with
  | nil => intro m a h; exact h
  | cons b bs ih => intro m a h; exact ih _ _ (Mem.wf_put m a b h)

/-- Marking words clean leaves every byte, and the canonical form. -/
@[simp] theorem Mem.byte_clean (m : Mem) (u a n x : Nat) : (m.clean u a n).byte x = m.byte x := rfl
theorem Mem.wf_clean (m : Mem) (u a n : Nat) (h : m.wf = true) : (m.clean u a n).wf = true := h

/-- Forgetting the bytes of a range, as a march test or a restart does, keeps the canonical form. -/
theorem Mem.wf_filter (m : Mem) (f : Host.Cell → Bool) (bad soft : List Nat) (h : m.wf = true) : (⟨m.cells.filter f, bad, soft⟩ : Mem).wf = true :=
  SMap.wfFrom_filter _ f m.cells 0 h

/-- The reset memory is canonical. -/
theorem reset_mem_wf : State.reset.hw.memS.mem.wf = true := rfl

end Sys2Proof.Machine
end

