-- ==== Sys2Proof/Laws/State.lean ====
section
/-!
SUPPORT. Laws/State.lean: what each update of the module leaves, one lemma a field, and what it reads as after.
-/
namespace Sys2Proof.Machine

/-! ## The whole state -/

@[simp] theorem State.withPending_pending (s : State) (q : List Instr) : (s.withPending q).pending = q := rfl
@[simp] theorem State.withPending_hw (s : State) (q : List Instr) : (s.withPending q).hw = s.hw := rfl
@[simp] theorem State.withPending_err (s : State) (q : List Instr) : (s.withPending q).err = s.err := rfl
@[simp] theorem State.withPending_ident (s : State) (q : List Instr) : (s.withPending q).ident = s.ident := rfl

/-! ## One lemma a field -/

@[simp] theorem Hw.fresh_memS (h : Hw) : (h.fresh).memS = h.memS := rfl
@[simp] theorem Hw.fresh_regs (h : Hw) : (h.fresh).regs = h.regs := rfl
@[simp] theorem Hw.fresh_shadow (h : Hw) : (h.fresh).shadow = h.shadow := rfl
@[simp] theorem Hw.fresh_tiles (h : Hw) : (h.fresh).tiles = h.tiles := rfl
@[simp] theorem Hw.fresh_dieSt (h : Hw) : (h.fresh).dieSt = h.dieSt := rfl
@[simp] theorem Hw.fresh_ctxs (h : Hw) : (h.fresh).ctxs = h.ctxs := rfl
@[simp] theorem Hw.fresh_models (h : Hw) : (h.fresh).models = h.models := rfl
@[simp] theorem Hw.fresh_wins (h : Hw) : (h.fresh).wins = h.wins := rfl
@[simp] theorem Hw.fresh_resid (h : Hw) : (h.fresh).resid = h.resid := rfl
@[simp] theorem Hw.fresh_work (h : Hw) : (h.fresh).work = h.work := rfl
@[simp] theorem Hw.fresh_swaps (h : Hw) : (h.fresh).swaps = h.swaps := rfl
@[simp] theorem Hw.fresh_bitmap (h : Hw) : (h.fresh).bitmap = h.bitmap := rfl
@[simp] theorem Hw.fresh_compl (h : Hw) : (h.fresh).compl = h.compl := rfl
@[simp] theorem Hw.fresh_rsig (h : Hw) : (h.fresh).rsig = h.rsig := rfl
@[simp] theorem Hw.fresh_chron (h : Hw) : (h.fresh).chron = h.chron := rfl
@[simp] theorem Hw.fresh_tithe (h : Hw) : (h.fresh).tithe = h.tithe := rfl
@[simp] theorem Hw.fresh_errOut (h : Hw) : (h.fresh).errOut = h.errOut := rfl
@[simp] theorem Hw.fresh_bellNs (h : Hw) : (h.fresh).bellNs = h.bellNs := rfl
@[simp] theorem Hw.fresh_localNs (h : Hw) : (h.fresh).localNs = h.localNs := rfl
@[simp] theorem Hw.fresh_fab (h : Hw) : (h.fresh).fab = h.fab := rfl
@[simp] theorem Hw.fresh_repl (h : Hw) : (h.fresh).repl = h.repl := rfl
@[simp] theorem Hw.fresh_sites (h : Hw) : (h.fresh).sites = h.sites := rfl
@[simp] theorem Hw.fresh_bell (h : Hw) : (h.fresh).bell = h.bell := rfl
@[simp] theorem Hw.fresh_mill (h : Hw) : (h.fresh).mill = h.mill := rfl
@[simp] theorem Hw.fresh_clerk (h : Hw) : (h.fresh).clerk = h.clerk := rfl
@[simp] theorem Hw.fresh_power (h : Hw) : (h.fresh).power = h.power := rfl
@[simp] theorem Hw.fresh_boot (h : Hw) : (h.fresh).boot = h.boot := rfl
@[simp] theorem Hw.fresh_obs (h : Hw) : (h.fresh).obs = h.obs := rfl
@[simp] theorem Hw.fresh_free (h : Hw) : (h.fresh).free = h.free := rfl

@[simp] theorem Hw.modTile_memS (h : Hw) (g : Nat) (f : Tile → Tile) : (h.modTile g f).memS = h.memS := rfl
@[simp] theorem Hw.modTile_regs (h : Hw) (g : Nat) (f : Tile → Tile) : (h.modTile g f).regs = h.regs := rfl
@[simp] theorem Hw.modTile_shadow (h : Hw) (g : Nat) (f : Tile → Tile) : (h.modTile g f).shadow = h.shadow := rfl
@[simp] theorem Hw.modTile_dieSt (h : Hw) (g : Nat) (f : Tile → Tile) : (h.modTile g f).dieSt = h.dieSt := rfl
@[simp] theorem Hw.modTile_ctxs (h : Hw) (g : Nat) (f : Tile → Tile) : (h.modTile g f).ctxs = h.ctxs := rfl
@[simp] theorem Hw.modTile_models (h : Hw) (g : Nat) (f : Tile → Tile) : (h.modTile g f).models = h.models := rfl
@[simp] theorem Hw.modTile_wins (h : Hw) (g : Nat) (f : Tile → Tile) : (h.modTile g f).wins = h.wins := rfl
@[simp] theorem Hw.modTile_resid (h : Hw) (g : Nat) (f : Tile → Tile) : (h.modTile g f).resid = h.resid := rfl
@[simp] theorem Hw.modTile_work (h : Hw) (g : Nat) (f : Tile → Tile) : (h.modTile g f).work = h.work := rfl
@[simp] theorem Hw.modTile_swaps (h : Hw) (g : Nat) (f : Tile → Tile) : (h.modTile g f).swaps = h.swaps := rfl
@[simp] theorem Hw.modTile_bitmap (h : Hw) (g : Nat) (f : Tile → Tile) : (h.modTile g f).bitmap = h.bitmap := rfl
@[simp] theorem Hw.modTile_compl (h : Hw) (g : Nat) (f : Tile → Tile) : (h.modTile g f).compl = h.compl := rfl
@[simp] theorem Hw.modTile_rsig (h : Hw) (g : Nat) (f : Tile → Tile) : (h.modTile g f).rsig = h.rsig := rfl
@[simp] theorem Hw.modTile_chron (h : Hw) (g : Nat) (f : Tile → Tile) : (h.modTile g f).chron = h.chron := rfl
@[simp] theorem Hw.modTile_tithe (h : Hw) (g : Nat) (f : Tile → Tile) : (h.modTile g f).tithe = h.tithe := rfl
@[simp] theorem Hw.modTile_errOut (h : Hw) (g : Nat) (f : Tile → Tile) : (h.modTile g f).errOut = h.errOut := rfl
@[simp] theorem Hw.modTile_bellNs (h : Hw) (g : Nat) (f : Tile → Tile) : (h.modTile g f).bellNs = h.bellNs := rfl
@[simp] theorem Hw.modTile_localNs (h : Hw) (g : Nat) (f : Tile → Tile) : (h.modTile g f).localNs = h.localNs := rfl
@[simp] theorem Hw.modTile_fab (h : Hw) (g : Nat) (f : Tile → Tile) : (h.modTile g f).fab = h.fab := rfl
@[simp] theorem Hw.modTile_repl (h : Hw) (g : Nat) (f : Tile → Tile) : (h.modTile g f).repl = h.repl := rfl
@[simp] theorem Hw.modTile_sites (h : Hw) (g : Nat) (f : Tile → Tile) : (h.modTile g f).sites = h.sites := rfl
@[simp] theorem Hw.modTile_bell (h : Hw) (g : Nat) (f : Tile → Tile) : (h.modTile g f).bell = h.bell := rfl
@[simp] theorem Hw.modTile_mill (h : Hw) (g : Nat) (f : Tile → Tile) : (h.modTile g f).mill = h.mill := rfl
@[simp] theorem Hw.modTile_clerk (h : Hw) (g : Nat) (f : Tile → Tile) : (h.modTile g f).clerk = h.clerk := rfl
@[simp] theorem Hw.modTile_power (h : Hw) (g : Nat) (f : Tile → Tile) : (h.modTile g f).power = h.power := rfl
@[simp] theorem Hw.modTile_boot (h : Hw) (g : Nat) (f : Tile → Tile) : (h.modTile g f).boot = h.boot := rfl
@[simp] theorem Hw.modTile_obs (h : Hw) (g : Nat) (f : Tile → Tile) : (h.modTile g f).obs = h.obs := rfl
@[simp] theorem Hw.modTile_out (h : Hw) (g : Nat) (f : Tile → Tile) : (h.modTile g f).out = h.out := rfl
@[simp] theorem Hw.modTile_resp (h : Hw) (g : Nat) (f : Tile → Tile) : (h.modTile g f).resp = h.resp := rfl
@[simp] theorem Hw.modTile_wiped (h : Hw) (g : Nat) (f : Tile → Tile) : (h.modTile g f).wiped = h.wiped := rfl
@[simp] theorem Hw.modTile_free (h : Hw) (g : Nat) (f : Tile → Tile) : (h.modTile g f).free = h.free := rfl

@[simp] theorem Hw.modStream_memS (h : Hw) (g s : Nat) (f : Stream → Stream) : (h.modStream g s f).memS = h.memS := rfl
@[simp] theorem Hw.modStream_regs (h : Hw) (g s : Nat) (f : Stream → Stream) : (h.modStream g s f).regs = h.regs := rfl
@[simp] theorem Hw.modStream_shadow (h : Hw) (g s : Nat) (f : Stream → Stream) : (h.modStream g s f).shadow = h.shadow := rfl
@[simp] theorem Hw.modStream_dieSt (h : Hw) (g s : Nat) (f : Stream → Stream) : (h.modStream g s f).dieSt = h.dieSt := rfl
@[simp] theorem Hw.modStream_ctxs (h : Hw) (g s : Nat) (f : Stream → Stream) : (h.modStream g s f).ctxs = h.ctxs := rfl
@[simp] theorem Hw.modStream_models (h : Hw) (g s : Nat) (f : Stream → Stream) : (h.modStream g s f).models = h.models := rfl
@[simp] theorem Hw.modStream_wins (h : Hw) (g s : Nat) (f : Stream → Stream) : (h.modStream g s f).wins = h.wins := rfl
@[simp] theorem Hw.modStream_resid (h : Hw) (g s : Nat) (f : Stream → Stream) : (h.modStream g s f).resid = h.resid := rfl
@[simp] theorem Hw.modStream_work (h : Hw) (g s : Nat) (f : Stream → Stream) : (h.modStream g s f).work = h.work := rfl
@[simp] theorem Hw.modStream_swaps (h : Hw) (g s : Nat) (f : Stream → Stream) : (h.modStream g s f).swaps = h.swaps := rfl
@[simp] theorem Hw.modStream_bitmap (h : Hw) (g s : Nat) (f : Stream → Stream) : (h.modStream g s f).bitmap = h.bitmap := rfl
@[simp] theorem Hw.modStream_compl (h : Hw) (g s : Nat) (f : Stream → Stream) : (h.modStream g s f).compl = h.compl := rfl
@[simp] theorem Hw.modStream_rsig (h : Hw) (g s : Nat) (f : Stream → Stream) : (h.modStream g s f).rsig = h.rsig := rfl
@[simp] theorem Hw.modStream_chron (h : Hw) (g s : Nat) (f : Stream → Stream) : (h.modStream g s f).chron = h.chron := rfl
@[simp] theorem Hw.modStream_tithe (h : Hw) (g s : Nat) (f : Stream → Stream) : (h.modStream g s f).tithe = h.tithe := rfl
@[simp] theorem Hw.modStream_errOut (h : Hw) (g s : Nat) (f : Stream → Stream) : (h.modStream g s f).errOut = h.errOut := rfl
@[simp] theorem Hw.modStream_bellNs (h : Hw) (g s : Nat) (f : Stream → Stream) : (h.modStream g s f).bellNs = h.bellNs := rfl
@[simp] theorem Hw.modStream_localNs (h : Hw) (g s : Nat) (f : Stream → Stream) : (h.modStream g s f).localNs = h.localNs := rfl
@[simp] theorem Hw.modStream_fab (h : Hw) (g s : Nat) (f : Stream → Stream) : (h.modStream g s f).fab = h.fab := rfl
@[simp] theorem Hw.modStream_repl (h : Hw) (g s : Nat) (f : Stream → Stream) : (h.modStream g s f).repl = h.repl := rfl
@[simp] theorem Hw.modStream_sites (h : Hw) (g s : Nat) (f : Stream → Stream) : (h.modStream g s f).sites = h.sites := rfl
@[simp] theorem Hw.modStream_bell (h : Hw) (g s : Nat) (f : Stream → Stream) : (h.modStream g s f).bell = h.bell := rfl
@[simp] theorem Hw.modStream_mill (h : Hw) (g s : Nat) (f : Stream → Stream) : (h.modStream g s f).mill = h.mill := rfl
@[simp] theorem Hw.modStream_clerk (h : Hw) (g s : Nat) (f : Stream → Stream) : (h.modStream g s f).clerk = h.clerk := rfl
@[simp] theorem Hw.modStream_power (h : Hw) (g s : Nat) (f : Stream → Stream) : (h.modStream g s f).power = h.power := rfl
@[simp] theorem Hw.modStream_boot (h : Hw) (g s : Nat) (f : Stream → Stream) : (h.modStream g s f).boot = h.boot := rfl
@[simp] theorem Hw.modStream_obs (h : Hw) (g s : Nat) (f : Stream → Stream) : (h.modStream g s f).obs = h.obs := rfl
@[simp] theorem Hw.modStream_out (h : Hw) (g s : Nat) (f : Stream → Stream) : (h.modStream g s f).out = h.out := rfl
@[simp] theorem Hw.modStream_resp (h : Hw) (g s : Nat) (f : Stream → Stream) : (h.modStream g s f).resp = h.resp := rfl
@[simp] theorem Hw.modStream_wiped (h : Hw) (g s : Nat) (f : Stream → Stream) : (h.modStream g s f).wiped = h.wiped := rfl
@[simp] theorem Hw.modStream_free (h : Hw) (g s : Nat) (f : Stream → Stream) : (h.modStream g s f).free = h.free := rfl

@[simp] theorem Hw.modCtx_memS (h : Hw) (c : Nat) (f : Ctx → Ctx) : (h.modCtx c f).memS = h.memS := rfl
@[simp] theorem Hw.modCtx_regs (h : Hw) (c : Nat) (f : Ctx → Ctx) : (h.modCtx c f).regs = h.regs := rfl
@[simp] theorem Hw.modCtx_shadow (h : Hw) (c : Nat) (f : Ctx → Ctx) : (h.modCtx c f).shadow = h.shadow := rfl
@[simp] theorem Hw.modCtx_tiles (h : Hw) (c : Nat) (f : Ctx → Ctx) : (h.modCtx c f).tiles = h.tiles := rfl
@[simp] theorem Hw.modCtx_dieSt (h : Hw) (c : Nat) (f : Ctx → Ctx) : (h.modCtx c f).dieSt = h.dieSt := rfl
@[simp] theorem Hw.modCtx_models (h : Hw) (c : Nat) (f : Ctx → Ctx) : (h.modCtx c f).models = h.models := rfl
@[simp] theorem Hw.modCtx_wins (h : Hw) (c : Nat) (f : Ctx → Ctx) : (h.modCtx c f).wins = h.wins := rfl
@[simp] theorem Hw.modCtx_resid (h : Hw) (c : Nat) (f : Ctx → Ctx) : (h.modCtx c f).resid = h.resid := rfl
@[simp] theorem Hw.modCtx_work (h : Hw) (c : Nat) (f : Ctx → Ctx) : (h.modCtx c f).work = h.work := rfl
@[simp] theorem Hw.modCtx_swaps (h : Hw) (c : Nat) (f : Ctx → Ctx) : (h.modCtx c f).swaps = h.swaps := rfl
@[simp] theorem Hw.modCtx_bitmap (h : Hw) (c : Nat) (f : Ctx → Ctx) : (h.modCtx c f).bitmap = h.bitmap := rfl
@[simp] theorem Hw.modCtx_compl (h : Hw) (c : Nat) (f : Ctx → Ctx) : (h.modCtx c f).compl = h.compl := rfl
@[simp] theorem Hw.modCtx_rsig (h : Hw) (c : Nat) (f : Ctx → Ctx) : (h.modCtx c f).rsig = h.rsig := rfl
@[simp] theorem Hw.modCtx_chron (h : Hw) (c : Nat) (f : Ctx → Ctx) : (h.modCtx c f).chron = h.chron := rfl
@[simp] theorem Hw.modCtx_tithe (h : Hw) (c : Nat) (f : Ctx → Ctx) : (h.modCtx c f).tithe = h.tithe := rfl
@[simp] theorem Hw.modCtx_errOut (h : Hw) (c : Nat) (f : Ctx → Ctx) : (h.modCtx c f).errOut = h.errOut := rfl
@[simp] theorem Hw.modCtx_bellNs (h : Hw) (c : Nat) (f : Ctx → Ctx) : (h.modCtx c f).bellNs = h.bellNs := rfl
@[simp] theorem Hw.modCtx_localNs (h : Hw) (c : Nat) (f : Ctx → Ctx) : (h.modCtx c f).localNs = h.localNs := rfl
@[simp] theorem Hw.modCtx_fab (h : Hw) (c : Nat) (f : Ctx → Ctx) : (h.modCtx c f).fab = h.fab := rfl
@[simp] theorem Hw.modCtx_repl (h : Hw) (c : Nat) (f : Ctx → Ctx) : (h.modCtx c f).repl = h.repl := rfl
@[simp] theorem Hw.modCtx_sites (h : Hw) (c : Nat) (f : Ctx → Ctx) : (h.modCtx c f).sites = h.sites := rfl
@[simp] theorem Hw.modCtx_bell (h : Hw) (c : Nat) (f : Ctx → Ctx) : (h.modCtx c f).bell = h.bell := rfl
@[simp] theorem Hw.modCtx_mill (h : Hw) (c : Nat) (f : Ctx → Ctx) : (h.modCtx c f).mill = h.mill := rfl
@[simp] theorem Hw.modCtx_clerk (h : Hw) (c : Nat) (f : Ctx → Ctx) : (h.modCtx c f).clerk = h.clerk := rfl
@[simp] theorem Hw.modCtx_power (h : Hw) (c : Nat) (f : Ctx → Ctx) : (h.modCtx c f).power = h.power := rfl
@[simp] theorem Hw.modCtx_boot (h : Hw) (c : Nat) (f : Ctx → Ctx) : (h.modCtx c f).boot = h.boot := rfl
@[simp] theorem Hw.modCtx_obs (h : Hw) (c : Nat) (f : Ctx → Ctx) : (h.modCtx c f).obs = h.obs := rfl
@[simp] theorem Hw.modCtx_out (h : Hw) (c : Nat) (f : Ctx → Ctx) : (h.modCtx c f).out = h.out := rfl
@[simp] theorem Hw.modCtx_resp (h : Hw) (c : Nat) (f : Ctx → Ctx) : (h.modCtx c f).resp = h.resp := rfl
@[simp] theorem Hw.modCtx_wiped (h : Hw) (c : Nat) (f : Ctx → Ctx) : (h.modCtx c f).wiped = h.wiped := rfl
@[simp] theorem Hw.modCtx_free (h : Hw) (c : Nat) (f : Ctx → Ctx) : (h.modCtx c f).free = h.free := rfl

@[simp] theorem Hw.modRes_memS (h : Hw) (g : Nat) (f : Resid → Resid) : (h.modRes g f).memS = h.memS := rfl
@[simp] theorem Hw.modRes_regs (h : Hw) (g : Nat) (f : Resid → Resid) : (h.modRes g f).regs = h.regs := rfl
@[simp] theorem Hw.modRes_shadow (h : Hw) (g : Nat) (f : Resid → Resid) : (h.modRes g f).shadow = h.shadow := rfl
@[simp] theorem Hw.modRes_tiles (h : Hw) (g : Nat) (f : Resid → Resid) : (h.modRes g f).tiles = h.tiles := rfl
@[simp] theorem Hw.modRes_dieSt (h : Hw) (g : Nat) (f : Resid → Resid) : (h.modRes g f).dieSt = h.dieSt := rfl
@[simp] theorem Hw.modRes_ctxs (h : Hw) (g : Nat) (f : Resid → Resid) : (h.modRes g f).ctxs = h.ctxs := rfl
@[simp] theorem Hw.modRes_models (h : Hw) (g : Nat) (f : Resid → Resid) : (h.modRes g f).models = h.models := rfl
@[simp] theorem Hw.modRes_wins (h : Hw) (g : Nat) (f : Resid → Resid) : (h.modRes g f).wins = h.wins := rfl
@[simp] theorem Hw.modRes_work (h : Hw) (g : Nat) (f : Resid → Resid) : (h.modRes g f).work = h.work := rfl
@[simp] theorem Hw.modRes_swaps (h : Hw) (g : Nat) (f : Resid → Resid) : (h.modRes g f).swaps = h.swaps := rfl
@[simp] theorem Hw.modRes_bitmap (h : Hw) (g : Nat) (f : Resid → Resid) : (h.modRes g f).bitmap = h.bitmap := rfl
@[simp] theorem Hw.modRes_compl (h : Hw) (g : Nat) (f : Resid → Resid) : (h.modRes g f).compl = h.compl := rfl
@[simp] theorem Hw.modRes_rsig (h : Hw) (g : Nat) (f : Resid → Resid) : (h.modRes g f).rsig = h.rsig := rfl
@[simp] theorem Hw.modRes_chron (h : Hw) (g : Nat) (f : Resid → Resid) : (h.modRes g f).chron = h.chron := rfl
@[simp] theorem Hw.modRes_tithe (h : Hw) (g : Nat) (f : Resid → Resid) : (h.modRes g f).tithe = h.tithe := rfl
@[simp] theorem Hw.modRes_errOut (h : Hw) (g : Nat) (f : Resid → Resid) : (h.modRes g f).errOut = h.errOut := rfl
@[simp] theorem Hw.modRes_bellNs (h : Hw) (g : Nat) (f : Resid → Resid) : (h.modRes g f).bellNs = h.bellNs := rfl
@[simp] theorem Hw.modRes_localNs (h : Hw) (g : Nat) (f : Resid → Resid) : (h.modRes g f).localNs = h.localNs := rfl
@[simp] theorem Hw.modRes_fab (h : Hw) (g : Nat) (f : Resid → Resid) : (h.modRes g f).fab = h.fab := rfl
@[simp] theorem Hw.modRes_repl (h : Hw) (g : Nat) (f : Resid → Resid) : (h.modRes g f).repl = h.repl := rfl
@[simp] theorem Hw.modRes_sites (h : Hw) (g : Nat) (f : Resid → Resid) : (h.modRes g f).sites = h.sites := rfl
@[simp] theorem Hw.modRes_bell (h : Hw) (g : Nat) (f : Resid → Resid) : (h.modRes g f).bell = h.bell := rfl
@[simp] theorem Hw.modRes_mill (h : Hw) (g : Nat) (f : Resid → Resid) : (h.modRes g f).mill = h.mill := rfl
@[simp] theorem Hw.modRes_clerk (h : Hw) (g : Nat) (f : Resid → Resid) : (h.modRes g f).clerk = h.clerk := rfl
@[simp] theorem Hw.modRes_power (h : Hw) (g : Nat) (f : Resid → Resid) : (h.modRes g f).power = h.power := rfl
@[simp] theorem Hw.modRes_boot (h : Hw) (g : Nat) (f : Resid → Resid) : (h.modRes g f).boot = h.boot := rfl
@[simp] theorem Hw.modRes_obs (h : Hw) (g : Nat) (f : Resid → Resid) : (h.modRes g f).obs = h.obs := rfl
@[simp] theorem Hw.modRes_out (h : Hw) (g : Nat) (f : Resid → Resid) : (h.modRes g f).out = h.out := rfl
@[simp] theorem Hw.modRes_resp (h : Hw) (g : Nat) (f : Resid → Resid) : (h.modRes g f).resp = h.resp := rfl
@[simp] theorem Hw.modRes_wiped (h : Hw) (g : Nat) (f : Resid → Resid) : (h.modRes g f).wiped = h.wiped := rfl
@[simp] theorem Hw.modRes_free (h : Hw) (g : Nat) (f : Resid → Resid) : (h.modRes g f).free = h.free := rfl

@[simp] theorem Hw.setWork_memS (h : Hw) (g : Nat) (w : Option Work) : (h.setWork g w).memS = h.memS := rfl
@[simp] theorem Hw.setWork_regs (h : Hw) (g : Nat) (w : Option Work) : (h.setWork g w).regs = h.regs := rfl
@[simp] theorem Hw.setWork_shadow (h : Hw) (g : Nat) (w : Option Work) : (h.setWork g w).shadow = h.shadow := rfl
@[simp] theorem Hw.setWork_tiles (h : Hw) (g : Nat) (w : Option Work) : (h.setWork g w).tiles = h.tiles := rfl
@[simp] theorem Hw.setWork_dieSt (h : Hw) (g : Nat) (w : Option Work) : (h.setWork g w).dieSt = h.dieSt := rfl
@[simp] theorem Hw.setWork_ctxs (h : Hw) (g : Nat) (w : Option Work) : (h.setWork g w).ctxs = h.ctxs := rfl
@[simp] theorem Hw.setWork_models (h : Hw) (g : Nat) (w : Option Work) : (h.setWork g w).models = h.models := rfl
@[simp] theorem Hw.setWork_wins (h : Hw) (g : Nat) (w : Option Work) : (h.setWork g w).wins = h.wins := rfl
@[simp] theorem Hw.setWork_resid (h : Hw) (g : Nat) (w : Option Work) : (h.setWork g w).resid = h.resid := rfl
@[simp] theorem Hw.setWork_swaps (h : Hw) (g : Nat) (w : Option Work) : (h.setWork g w).swaps = h.swaps := rfl
@[simp] theorem Hw.setWork_bitmap (h : Hw) (g : Nat) (w : Option Work) : (h.setWork g w).bitmap = h.bitmap := rfl
@[simp] theorem Hw.setWork_compl (h : Hw) (g : Nat) (w : Option Work) : (h.setWork g w).compl = h.compl := rfl
@[simp] theorem Hw.setWork_rsig (h : Hw) (g : Nat) (w : Option Work) : (h.setWork g w).rsig = h.rsig := rfl
@[simp] theorem Hw.setWork_chron (h : Hw) (g : Nat) (w : Option Work) : (h.setWork g w).chron = h.chron := rfl
@[simp] theorem Hw.setWork_tithe (h : Hw) (g : Nat) (w : Option Work) : (h.setWork g w).tithe = h.tithe := rfl
@[simp] theorem Hw.setWork_errOut (h : Hw) (g : Nat) (w : Option Work) : (h.setWork g w).errOut = h.errOut := rfl
@[simp] theorem Hw.setWork_bellNs (h : Hw) (g : Nat) (w : Option Work) : (h.setWork g w).bellNs = h.bellNs := rfl
@[simp] theorem Hw.setWork_localNs (h : Hw) (g : Nat) (w : Option Work) : (h.setWork g w).localNs = h.localNs := rfl
@[simp] theorem Hw.setWork_fab (h : Hw) (g : Nat) (w : Option Work) : (h.setWork g w).fab = h.fab := rfl
@[simp] theorem Hw.setWork_repl (h : Hw) (g : Nat) (w : Option Work) : (h.setWork g w).repl = h.repl := rfl
@[simp] theorem Hw.setWork_sites (h : Hw) (g : Nat) (w : Option Work) : (h.setWork g w).sites = h.sites := rfl
@[simp] theorem Hw.setWork_bell (h : Hw) (g : Nat) (w : Option Work) : (h.setWork g w).bell = h.bell := rfl
@[simp] theorem Hw.setWork_mill (h : Hw) (g : Nat) (w : Option Work) : (h.setWork g w).mill = h.mill := rfl
@[simp] theorem Hw.setWork_clerk (h : Hw) (g : Nat) (w : Option Work) : (h.setWork g w).clerk = h.clerk := rfl
@[simp] theorem Hw.setWork_power (h : Hw) (g : Nat) (w : Option Work) : (h.setWork g w).power = h.power := rfl
@[simp] theorem Hw.setWork_boot (h : Hw) (g : Nat) (w : Option Work) : (h.setWork g w).boot = h.boot := rfl
@[simp] theorem Hw.setWork_obs (h : Hw) (g : Nat) (w : Option Work) : (h.setWork g w).obs = h.obs := rfl
@[simp] theorem Hw.setWork_out (h : Hw) (g : Nat) (w : Option Work) : (h.setWork g w).out = h.out := rfl
@[simp] theorem Hw.setWork_resp (h : Hw) (g : Nat) (w : Option Work) : (h.setWork g w).resp = h.resp := rfl
@[simp] theorem Hw.setWork_wiped (h : Hw) (g : Nat) (w : Option Work) : (h.setWork g w).wiped = h.wiped := rfl
@[simp] theorem Hw.setWork_free (h : Hw) (g : Nat) (w : Option Work) : (h.setWork g w).free = h.free := rfl

@[simp] theorem Hw.modMem_regs (h : Hw) (f : Mem → Mem) : (h.modMem f).regs = h.regs := rfl
@[simp] theorem Hw.modMem_shadow (h : Hw) (f : Mem → Mem) : (h.modMem f).shadow = h.shadow := rfl
@[simp] theorem Hw.modMem_tiles (h : Hw) (f : Mem → Mem) : (h.modMem f).tiles = h.tiles := rfl
@[simp] theorem Hw.modMem_dieSt (h : Hw) (f : Mem → Mem) : (h.modMem f).dieSt = h.dieSt := rfl
@[simp] theorem Hw.modMem_ctxs (h : Hw) (f : Mem → Mem) : (h.modMem f).ctxs = h.ctxs := rfl
@[simp] theorem Hw.modMem_models (h : Hw) (f : Mem → Mem) : (h.modMem f).models = h.models := rfl
@[simp] theorem Hw.modMem_wins (h : Hw) (f : Mem → Mem) : (h.modMem f).wins = h.wins := rfl
@[simp] theorem Hw.modMem_resid (h : Hw) (f : Mem → Mem) : (h.modMem f).resid = h.resid := rfl
@[simp] theorem Hw.modMem_work (h : Hw) (f : Mem → Mem) : (h.modMem f).work = h.work := rfl
@[simp] theorem Hw.modMem_swaps (h : Hw) (f : Mem → Mem) : (h.modMem f).swaps = h.swaps := rfl
@[simp] theorem Hw.modMem_bitmap (h : Hw) (f : Mem → Mem) : (h.modMem f).bitmap = h.bitmap := rfl
@[simp] theorem Hw.modMem_compl (h : Hw) (f : Mem → Mem) : (h.modMem f).compl = h.compl := rfl
@[simp] theorem Hw.modMem_rsig (h : Hw) (f : Mem → Mem) : (h.modMem f).rsig = h.rsig := rfl
@[simp] theorem Hw.modMem_chron (h : Hw) (f : Mem → Mem) : (h.modMem f).chron = h.chron := rfl
@[simp] theorem Hw.modMem_tithe (h : Hw) (f : Mem → Mem) : (h.modMem f).tithe = h.tithe := rfl
@[simp] theorem Hw.modMem_errOut (h : Hw) (f : Mem → Mem) : (h.modMem f).errOut = h.errOut := rfl
@[simp] theorem Hw.modMem_bellNs (h : Hw) (f : Mem → Mem) : (h.modMem f).bellNs = h.bellNs := rfl
@[simp] theorem Hw.modMem_localNs (h : Hw) (f : Mem → Mem) : (h.modMem f).localNs = h.localNs := rfl
@[simp] theorem Hw.modMem_fab (h : Hw) (f : Mem → Mem) : (h.modMem f).fab = h.fab := rfl
@[simp] theorem Hw.modMem_repl (h : Hw) (f : Mem → Mem) : (h.modMem f).repl = h.repl := rfl
@[simp] theorem Hw.modMem_sites (h : Hw) (f : Mem → Mem) : (h.modMem f).sites = h.sites := rfl
@[simp] theorem Hw.modMem_bell (h : Hw) (f : Mem → Mem) : (h.modMem f).bell = h.bell := rfl
@[simp] theorem Hw.modMem_mill (h : Hw) (f : Mem → Mem) : (h.modMem f).mill = h.mill := rfl
@[simp] theorem Hw.modMem_clerk (h : Hw) (f : Mem → Mem) : (h.modMem f).clerk = h.clerk := rfl
@[simp] theorem Hw.modMem_power (h : Hw) (f : Mem → Mem) : (h.modMem f).power = h.power := rfl
@[simp] theorem Hw.modMem_boot (h : Hw) (f : Mem → Mem) : (h.modMem f).boot = h.boot := rfl
@[simp] theorem Hw.modMem_obs (h : Hw) (f : Mem → Mem) : (h.modMem f).obs = h.obs := rfl
@[simp] theorem Hw.modMem_out (h : Hw) (f : Mem → Mem) : (h.modMem f).out = h.out := rfl
@[simp] theorem Hw.modMem_resp (h : Hw) (f : Mem → Mem) : (h.modMem f).resp = h.resp := rfl
@[simp] theorem Hw.modMem_wiped (h : Hw) (f : Mem → Mem) : (h.modMem f).wiped = h.wiped := rfl
@[simp] theorem Hw.modMem_free (h : Hw) (f : Mem → Mem) : (h.modMem f).free = h.free := rfl

@[simp] theorem Hw.modMemS_regs (h : Hw) (f : MemSide → MemSide) : (h.modMemS f).regs = h.regs := rfl
@[simp] theorem Hw.modMemS_shadow (h : Hw) (f : MemSide → MemSide) : (h.modMemS f).shadow = h.shadow := rfl
@[simp] theorem Hw.modMemS_tiles (h : Hw) (f : MemSide → MemSide) : (h.modMemS f).tiles = h.tiles := rfl
@[simp] theorem Hw.modMemS_dieSt (h : Hw) (f : MemSide → MemSide) : (h.modMemS f).dieSt = h.dieSt := rfl
@[simp] theorem Hw.modMemS_ctxs (h : Hw) (f : MemSide → MemSide) : (h.modMemS f).ctxs = h.ctxs := rfl
@[simp] theorem Hw.modMemS_models (h : Hw) (f : MemSide → MemSide) : (h.modMemS f).models = h.models := rfl
@[simp] theorem Hw.modMemS_wins (h : Hw) (f : MemSide → MemSide) : (h.modMemS f).wins = h.wins := rfl
@[simp] theorem Hw.modMemS_resid (h : Hw) (f : MemSide → MemSide) : (h.modMemS f).resid = h.resid := rfl
@[simp] theorem Hw.modMemS_work (h : Hw) (f : MemSide → MemSide) : (h.modMemS f).work = h.work := rfl
@[simp] theorem Hw.modMemS_swaps (h : Hw) (f : MemSide → MemSide) : (h.modMemS f).swaps = h.swaps := rfl
@[simp] theorem Hw.modMemS_bitmap (h : Hw) (f : MemSide → MemSide) : (h.modMemS f).bitmap = h.bitmap := rfl
@[simp] theorem Hw.modMemS_compl (h : Hw) (f : MemSide → MemSide) : (h.modMemS f).compl = h.compl := rfl
@[simp] theorem Hw.modMemS_rsig (h : Hw) (f : MemSide → MemSide) : (h.modMemS f).rsig = h.rsig := rfl
@[simp] theorem Hw.modMemS_chron (h : Hw) (f : MemSide → MemSide) : (h.modMemS f).chron = h.chron := rfl
@[simp] theorem Hw.modMemS_tithe (h : Hw) (f : MemSide → MemSide) : (h.modMemS f).tithe = h.tithe := rfl
@[simp] theorem Hw.modMemS_errOut (h : Hw) (f : MemSide → MemSide) : (h.modMemS f).errOut = h.errOut := rfl
@[simp] theorem Hw.modMemS_bellNs (h : Hw) (f : MemSide → MemSide) : (h.modMemS f).bellNs = h.bellNs := rfl
@[simp] theorem Hw.modMemS_localNs (h : Hw) (f : MemSide → MemSide) : (h.modMemS f).localNs = h.localNs := rfl
@[simp] theorem Hw.modMemS_fab (h : Hw) (f : MemSide → MemSide) : (h.modMemS f).fab = h.fab := rfl
@[simp] theorem Hw.modMemS_repl (h : Hw) (f : MemSide → MemSide) : (h.modMemS f).repl = h.repl := rfl
@[simp] theorem Hw.modMemS_sites (h : Hw) (f : MemSide → MemSide) : (h.modMemS f).sites = h.sites := rfl
@[simp] theorem Hw.modMemS_bell (h : Hw) (f : MemSide → MemSide) : (h.modMemS f).bell = h.bell := rfl
@[simp] theorem Hw.modMemS_mill (h : Hw) (f : MemSide → MemSide) : (h.modMemS f).mill = h.mill := rfl
@[simp] theorem Hw.modMemS_clerk (h : Hw) (f : MemSide → MemSide) : (h.modMemS f).clerk = h.clerk := rfl
@[simp] theorem Hw.modMemS_power (h : Hw) (f : MemSide → MemSide) : (h.modMemS f).power = h.power := rfl
@[simp] theorem Hw.modMemS_boot (h : Hw) (f : MemSide → MemSide) : (h.modMemS f).boot = h.boot := rfl
@[simp] theorem Hw.modMemS_obs (h : Hw) (f : MemSide → MemSide) : (h.modMemS f).obs = h.obs := rfl
@[simp] theorem Hw.modMemS_out (h : Hw) (f : MemSide → MemSide) : (h.modMemS f).out = h.out := rfl
@[simp] theorem Hw.modMemS_resp (h : Hw) (f : MemSide → MemSide) : (h.modMemS f).resp = h.resp := rfl
@[simp] theorem Hw.modMemS_wiped (h : Hw) (f : MemSide → MemSide) : (h.modMemS f).wiped = h.wiped := rfl
@[simp] theorem Hw.modMemS_free (h : Hw) (f : MemSide → MemSide) : (h.modMemS f).free = h.free := rfl

@[simp] theorem Hw.respond_memS (h : Hw) (r : Resp) : (h.respond r).memS = h.memS := rfl
@[simp] theorem Hw.respond_regs (h : Hw) (r : Resp) : (h.respond r).regs = h.regs := rfl
@[simp] theorem Hw.respond_shadow (h : Hw) (r : Resp) : (h.respond r).shadow = h.shadow := rfl
@[simp] theorem Hw.respond_tiles (h : Hw) (r : Resp) : (h.respond r).tiles = h.tiles := rfl
@[simp] theorem Hw.respond_dieSt (h : Hw) (r : Resp) : (h.respond r).dieSt = h.dieSt := rfl
@[simp] theorem Hw.respond_ctxs (h : Hw) (r : Resp) : (h.respond r).ctxs = h.ctxs := rfl
@[simp] theorem Hw.respond_models (h : Hw) (r : Resp) : (h.respond r).models = h.models := rfl
@[simp] theorem Hw.respond_wins (h : Hw) (r : Resp) : (h.respond r).wins = h.wins := rfl
@[simp] theorem Hw.respond_resid (h : Hw) (r : Resp) : (h.respond r).resid = h.resid := rfl
@[simp] theorem Hw.respond_work (h : Hw) (r : Resp) : (h.respond r).work = h.work := rfl
@[simp] theorem Hw.respond_swaps (h : Hw) (r : Resp) : (h.respond r).swaps = h.swaps := rfl
@[simp] theorem Hw.respond_bitmap (h : Hw) (r : Resp) : (h.respond r).bitmap = h.bitmap := rfl
@[simp] theorem Hw.respond_compl (h : Hw) (r : Resp) : (h.respond r).compl = h.compl := rfl
@[simp] theorem Hw.respond_rsig (h : Hw) (r : Resp) : (h.respond r).rsig = h.rsig := rfl
@[simp] theorem Hw.respond_chron (h : Hw) (r : Resp) : (h.respond r).chron = h.chron := rfl
@[simp] theorem Hw.respond_tithe (h : Hw) (r : Resp) : (h.respond r).tithe = h.tithe := rfl
@[simp] theorem Hw.respond_errOut (h : Hw) (r : Resp) : (h.respond r).errOut = h.errOut := rfl
@[simp] theorem Hw.respond_bellNs (h : Hw) (r : Resp) : (h.respond r).bellNs = h.bellNs := rfl
@[simp] theorem Hw.respond_localNs (h : Hw) (r : Resp) : (h.respond r).localNs = h.localNs := rfl
@[simp] theorem Hw.respond_fab (h : Hw) (r : Resp) : (h.respond r).fab = h.fab := rfl
@[simp] theorem Hw.respond_repl (h : Hw) (r : Resp) : (h.respond r).repl = h.repl := rfl
@[simp] theorem Hw.respond_sites (h : Hw) (r : Resp) : (h.respond r).sites = h.sites := rfl
@[simp] theorem Hw.respond_bell (h : Hw) (r : Resp) : (h.respond r).bell = h.bell := rfl
@[simp] theorem Hw.respond_mill (h : Hw) (r : Resp) : (h.respond r).mill = h.mill := rfl
@[simp] theorem Hw.respond_clerk (h : Hw) (r : Resp) : (h.respond r).clerk = h.clerk := rfl
@[simp] theorem Hw.respond_power (h : Hw) (r : Resp) : (h.respond r).power = h.power := rfl
@[simp] theorem Hw.respond_boot (h : Hw) (r : Resp) : (h.respond r).boot = h.boot := rfl
@[simp] theorem Hw.respond_obs (h : Hw) (r : Resp) : (h.respond r).obs = h.obs := rfl
@[simp] theorem Hw.respond_out (h : Hw) (r : Resp) : (h.respond r).out = h.out := rfl
@[simp] theorem Hw.respond_wiped (h : Hw) (r : Resp) : (h.respond r).wiped = h.wiped := rfl
@[simp] theorem Hw.respond_free (h : Hw) (r : Resp) : (h.respond r).free = h.free := rfl

@[simp] theorem Hw.setReg_memS (h : Hw) (pa v : Nat) : (h.setReg pa v).memS = h.memS := rfl
@[simp] theorem Hw.setReg_shadow (h : Hw) (pa v : Nat) : (h.setReg pa v).shadow = h.shadow := rfl
@[simp] theorem Hw.setReg_tiles (h : Hw) (pa v : Nat) : (h.setReg pa v).tiles = h.tiles := rfl
@[simp] theorem Hw.setReg_dieSt (h : Hw) (pa v : Nat) : (h.setReg pa v).dieSt = h.dieSt := rfl
@[simp] theorem Hw.setReg_ctxs (h : Hw) (pa v : Nat) : (h.setReg pa v).ctxs = h.ctxs := rfl
@[simp] theorem Hw.setReg_models (h : Hw) (pa v : Nat) : (h.setReg pa v).models = h.models := rfl
@[simp] theorem Hw.setReg_wins (h : Hw) (pa v : Nat) : (h.setReg pa v).wins = h.wins := rfl
@[simp] theorem Hw.setReg_resid (h : Hw) (pa v : Nat) : (h.setReg pa v).resid = h.resid := rfl
@[simp] theorem Hw.setReg_work (h : Hw) (pa v : Nat) : (h.setReg pa v).work = h.work := rfl
@[simp] theorem Hw.setReg_swaps (h : Hw) (pa v : Nat) : (h.setReg pa v).swaps = h.swaps := rfl
@[simp] theorem Hw.setReg_bitmap (h : Hw) (pa v : Nat) : (h.setReg pa v).bitmap = h.bitmap := rfl
@[simp] theorem Hw.setReg_compl (h : Hw) (pa v : Nat) : (h.setReg pa v).compl = h.compl := rfl
@[simp] theorem Hw.setReg_rsig (h : Hw) (pa v : Nat) : (h.setReg pa v).rsig = h.rsig := rfl
@[simp] theorem Hw.setReg_chron (h : Hw) (pa v : Nat) : (h.setReg pa v).chron = h.chron := rfl
@[simp] theorem Hw.setReg_tithe (h : Hw) (pa v : Nat) : (h.setReg pa v).tithe = h.tithe := rfl
@[simp] theorem Hw.setReg_errOut (h : Hw) (pa v : Nat) : (h.setReg pa v).errOut = h.errOut := rfl
@[simp] theorem Hw.setReg_bellNs (h : Hw) (pa v : Nat) : (h.setReg pa v).bellNs = h.bellNs := rfl
@[simp] theorem Hw.setReg_localNs (h : Hw) (pa v : Nat) : (h.setReg pa v).localNs = h.localNs := rfl
@[simp] theorem Hw.setReg_fab (h : Hw) (pa v : Nat) : (h.setReg pa v).fab = h.fab := rfl
@[simp] theorem Hw.setReg_repl (h : Hw) (pa v : Nat) : (h.setReg pa v).repl = h.repl := rfl
@[simp] theorem Hw.setReg_sites (h : Hw) (pa v : Nat) : (h.setReg pa v).sites = h.sites := rfl
@[simp] theorem Hw.setReg_bell (h : Hw) (pa v : Nat) : (h.setReg pa v).bell = h.bell := rfl
@[simp] theorem Hw.setReg_mill (h : Hw) (pa v : Nat) : (h.setReg pa v).mill = h.mill := rfl
@[simp] theorem Hw.setReg_clerk (h : Hw) (pa v : Nat) : (h.setReg pa v).clerk = h.clerk := rfl
@[simp] theorem Hw.setReg_power (h : Hw) (pa v : Nat) : (h.setReg pa v).power = h.power := rfl
@[simp] theorem Hw.setReg_boot (h : Hw) (pa v : Nat) : (h.setReg pa v).boot = h.boot := rfl
@[simp] theorem Hw.setReg_obs (h : Hw) (pa v : Nat) : (h.setReg pa v).obs = h.obs := rfl
@[simp] theorem Hw.setReg_out (h : Hw) (pa v : Nat) : (h.setReg pa v).out = h.out := rfl
@[simp] theorem Hw.setReg_resp (h : Hw) (pa v : Nat) : (h.setReg pa v).resp = h.resp := rfl
@[simp] theorem Hw.setReg_wiped (h : Hw) (pa v : Nat) : (h.setReg pa v).wiped = h.wiped := rfl
@[simp] theorem Hw.setReg_free (h : Hw) (pa v : Nat) : (h.setReg pa v).free = h.free := rfl

@[simp] theorem Hw.setRegF_memS (h : Hw) (pa lo len v : Nat) : (h.setRegF pa lo len v).memS = h.memS := rfl
@[simp] theorem Hw.setRegF_shadow (h : Hw) (pa lo len v : Nat) : (h.setRegF pa lo len v).shadow = h.shadow := rfl
@[simp] theorem Hw.setRegF_tiles (h : Hw) (pa lo len v : Nat) : (h.setRegF pa lo len v).tiles = h.tiles := rfl
@[simp] theorem Hw.setRegF_dieSt (h : Hw) (pa lo len v : Nat) : (h.setRegF pa lo len v).dieSt = h.dieSt := rfl
@[simp] theorem Hw.setRegF_ctxs (h : Hw) (pa lo len v : Nat) : (h.setRegF pa lo len v).ctxs = h.ctxs := rfl
@[simp] theorem Hw.setRegF_models (h : Hw) (pa lo len v : Nat) : (h.setRegF pa lo len v).models = h.models := rfl
@[simp] theorem Hw.setRegF_wins (h : Hw) (pa lo len v : Nat) : (h.setRegF pa lo len v).wins = h.wins := rfl
@[simp] theorem Hw.setRegF_resid (h : Hw) (pa lo len v : Nat) : (h.setRegF pa lo len v).resid = h.resid := rfl
@[simp] theorem Hw.setRegF_work (h : Hw) (pa lo len v : Nat) : (h.setRegF pa lo len v).work = h.work := rfl
@[simp] theorem Hw.setRegF_swaps (h : Hw) (pa lo len v : Nat) : (h.setRegF pa lo len v).swaps = h.swaps := rfl
@[simp] theorem Hw.setRegF_bitmap (h : Hw) (pa lo len v : Nat) : (h.setRegF pa lo len v).bitmap = h.bitmap := rfl
@[simp] theorem Hw.setRegF_compl (h : Hw) (pa lo len v : Nat) : (h.setRegF pa lo len v).compl = h.compl := rfl
@[simp] theorem Hw.setRegF_rsig (h : Hw) (pa lo len v : Nat) : (h.setRegF pa lo len v).rsig = h.rsig := rfl
@[simp] theorem Hw.setRegF_chron (h : Hw) (pa lo len v : Nat) : (h.setRegF pa lo len v).chron = h.chron := rfl
@[simp] theorem Hw.setRegF_tithe (h : Hw) (pa lo len v : Nat) : (h.setRegF pa lo len v).tithe = h.tithe := rfl
@[simp] theorem Hw.setRegF_errOut (h : Hw) (pa lo len v : Nat) : (h.setRegF pa lo len v).errOut = h.errOut := rfl
@[simp] theorem Hw.setRegF_bellNs (h : Hw) (pa lo len v : Nat) : (h.setRegF pa lo len v).bellNs = h.bellNs := rfl
@[simp] theorem Hw.setRegF_localNs (h : Hw) (pa lo len v : Nat) : (h.setRegF pa lo len v).localNs = h.localNs := rfl
@[simp] theorem Hw.setRegF_fab (h : Hw) (pa lo len v : Nat) : (h.setRegF pa lo len v).fab = h.fab := rfl
@[simp] theorem Hw.setRegF_repl (h : Hw) (pa lo len v : Nat) : (h.setRegF pa lo len v).repl = h.repl := rfl
@[simp] theorem Hw.setRegF_sites (h : Hw) (pa lo len v : Nat) : (h.setRegF pa lo len v).sites = h.sites := rfl
@[simp] theorem Hw.setRegF_bell (h : Hw) (pa lo len v : Nat) : (h.setRegF pa lo len v).bell = h.bell := rfl
@[simp] theorem Hw.setRegF_mill (h : Hw) (pa lo len v : Nat) : (h.setRegF pa lo len v).mill = h.mill := rfl
@[simp] theorem Hw.setRegF_clerk (h : Hw) (pa lo len v : Nat) : (h.setRegF pa lo len v).clerk = h.clerk := rfl
@[simp] theorem Hw.setRegF_power (h : Hw) (pa lo len v : Nat) : (h.setRegF pa lo len v).power = h.power := rfl
@[simp] theorem Hw.setRegF_boot (h : Hw) (pa lo len v : Nat) : (h.setRegF pa lo len v).boot = h.boot := rfl
@[simp] theorem Hw.setRegF_obs (h : Hw) (pa lo len v : Nat) : (h.setRegF pa lo len v).obs = h.obs := rfl
@[simp] theorem Hw.setRegF_out (h : Hw) (pa lo len v : Nat) : (h.setRegF pa lo len v).out = h.out := rfl
@[simp] theorem Hw.setRegF_resp (h : Hw) (pa lo len v : Nat) : (h.setRegF pa lo len v).resp = h.resp := rfl
@[simp] theorem Hw.setRegF_wiped (h : Hw) (pa lo len v : Nat) : (h.setRegF pa lo len v).wiped = h.wiped := rfl
@[simp] theorem Hw.setRegF_free (h : Hw) (pa lo len v : Nat) : (h.setRegF pa lo len v).free = h.free := rfl

@[simp] theorem Hw.bump_memS (h : Hw) (pa lo len n : Nat) : (h.bump pa lo len n).memS = h.memS := rfl
@[simp] theorem Hw.bump_shadow (h : Hw) (pa lo len n : Nat) : (h.bump pa lo len n).shadow = h.shadow := rfl
@[simp] theorem Hw.bump_tiles (h : Hw) (pa lo len n : Nat) : (h.bump pa lo len n).tiles = h.tiles := rfl
@[simp] theorem Hw.bump_dieSt (h : Hw) (pa lo len n : Nat) : (h.bump pa lo len n).dieSt = h.dieSt := rfl
@[simp] theorem Hw.bump_ctxs (h : Hw) (pa lo len n : Nat) : (h.bump pa lo len n).ctxs = h.ctxs := rfl
@[simp] theorem Hw.bump_models (h : Hw) (pa lo len n : Nat) : (h.bump pa lo len n).models = h.models := rfl
@[simp] theorem Hw.bump_wins (h : Hw) (pa lo len n : Nat) : (h.bump pa lo len n).wins = h.wins := rfl
@[simp] theorem Hw.bump_resid (h : Hw) (pa lo len n : Nat) : (h.bump pa lo len n).resid = h.resid := rfl
@[simp] theorem Hw.bump_work (h : Hw) (pa lo len n : Nat) : (h.bump pa lo len n).work = h.work := rfl
@[simp] theorem Hw.bump_swaps (h : Hw) (pa lo len n : Nat) : (h.bump pa lo len n).swaps = h.swaps := rfl
@[simp] theorem Hw.bump_bitmap (h : Hw) (pa lo len n : Nat) : (h.bump pa lo len n).bitmap = h.bitmap := rfl
@[simp] theorem Hw.bump_compl (h : Hw) (pa lo len n : Nat) : (h.bump pa lo len n).compl = h.compl := rfl
@[simp] theorem Hw.bump_rsig (h : Hw) (pa lo len n : Nat) : (h.bump pa lo len n).rsig = h.rsig := rfl
@[simp] theorem Hw.bump_chron (h : Hw) (pa lo len n : Nat) : (h.bump pa lo len n).chron = h.chron := rfl
@[simp] theorem Hw.bump_tithe (h : Hw) (pa lo len n : Nat) : (h.bump pa lo len n).tithe = h.tithe := rfl
@[simp] theorem Hw.bump_errOut (h : Hw) (pa lo len n : Nat) : (h.bump pa lo len n).errOut = h.errOut := rfl
@[simp] theorem Hw.bump_bellNs (h : Hw) (pa lo len n : Nat) : (h.bump pa lo len n).bellNs = h.bellNs := rfl
@[simp] theorem Hw.bump_localNs (h : Hw) (pa lo len n : Nat) : (h.bump pa lo len n).localNs = h.localNs := rfl
@[simp] theorem Hw.bump_fab (h : Hw) (pa lo len n : Nat) : (h.bump pa lo len n).fab = h.fab := rfl
@[simp] theorem Hw.bump_repl (h : Hw) (pa lo len n : Nat) : (h.bump pa lo len n).repl = h.repl := rfl
@[simp] theorem Hw.bump_sites (h : Hw) (pa lo len n : Nat) : (h.bump pa lo len n).sites = h.sites := rfl
@[simp] theorem Hw.bump_bell (h : Hw) (pa lo len n : Nat) : (h.bump pa lo len n).bell = h.bell := rfl
@[simp] theorem Hw.bump_mill (h : Hw) (pa lo len n : Nat) : (h.bump pa lo len n).mill = h.mill := rfl
@[simp] theorem Hw.bump_clerk (h : Hw) (pa lo len n : Nat) : (h.bump pa lo len n).clerk = h.clerk := rfl
@[simp] theorem Hw.bump_power (h : Hw) (pa lo len n : Nat) : (h.bump pa lo len n).power = h.power := rfl
@[simp] theorem Hw.bump_boot (h : Hw) (pa lo len n : Nat) : (h.bump pa lo len n).boot = h.boot := rfl
@[simp] theorem Hw.bump_obs (h : Hw) (pa lo len n : Nat) : (h.bump pa lo len n).obs = h.obs := rfl
@[simp] theorem Hw.bump_out (h : Hw) (pa lo len n : Nat) : (h.bump pa lo len n).out = h.out := rfl
@[simp] theorem Hw.bump_resp (h : Hw) (pa lo len n : Nat) : (h.bump pa lo len n).resp = h.resp := rfl
@[simp] theorem Hw.bump_wiped (h : Hw) (pa lo len n : Nat) : (h.bump pa lo len n).wiped = h.wiped := rfl
@[simp] theorem Hw.bump_free (h : Hw) (pa lo len n : Nat) : (h.bump pa lo len n).free = h.free := rfl

@[simp] theorem Hw.send_memS (h : Hw) (r : ErrRec) : (h.send r).memS = h.memS := rfl
@[simp] theorem Hw.send_regs (h : Hw) (r : ErrRec) : (h.send r).regs = h.regs := rfl
@[simp] theorem Hw.send_shadow (h : Hw) (r : ErrRec) : (h.send r).shadow = h.shadow := rfl
@[simp] theorem Hw.send_tiles (h : Hw) (r : ErrRec) : (h.send r).tiles = h.tiles := rfl
@[simp] theorem Hw.send_dieSt (h : Hw) (r : ErrRec) : (h.send r).dieSt = h.dieSt := rfl
@[simp] theorem Hw.send_ctxs (h : Hw) (r : ErrRec) : (h.send r).ctxs = h.ctxs := rfl
@[simp] theorem Hw.send_models (h : Hw) (r : ErrRec) : (h.send r).models = h.models := rfl
@[simp] theorem Hw.send_wins (h : Hw) (r : ErrRec) : (h.send r).wins = h.wins := rfl
@[simp] theorem Hw.send_resid (h : Hw) (r : ErrRec) : (h.send r).resid = h.resid := rfl
@[simp] theorem Hw.send_work (h : Hw) (r : ErrRec) : (h.send r).work = h.work := rfl
@[simp] theorem Hw.send_swaps (h : Hw) (r : ErrRec) : (h.send r).swaps = h.swaps := rfl
@[simp] theorem Hw.send_bitmap (h : Hw) (r : ErrRec) : (h.send r).bitmap = h.bitmap := rfl
@[simp] theorem Hw.send_compl (h : Hw) (r : ErrRec) : (h.send r).compl = h.compl := rfl
@[simp] theorem Hw.send_rsig (h : Hw) (r : ErrRec) : (h.send r).rsig = h.rsig := rfl
@[simp] theorem Hw.send_chron (h : Hw) (r : ErrRec) : (h.send r).chron = h.chron := rfl
@[simp] theorem Hw.send_tithe (h : Hw) (r : ErrRec) : (h.send r).tithe = h.tithe := rfl
@[simp] theorem Hw.send_bellNs (h : Hw) (r : ErrRec) : (h.send r).bellNs = h.bellNs := rfl
@[simp] theorem Hw.send_localNs (h : Hw) (r : ErrRec) : (h.send r).localNs = h.localNs := rfl
@[simp] theorem Hw.send_fab (h : Hw) (r : ErrRec) : (h.send r).fab = h.fab := rfl
@[simp] theorem Hw.send_repl (h : Hw) (r : ErrRec) : (h.send r).repl = h.repl := rfl
@[simp] theorem Hw.send_sites (h : Hw) (r : ErrRec) : (h.send r).sites = h.sites := rfl
@[simp] theorem Hw.send_bell (h : Hw) (r : ErrRec) : (h.send r).bell = h.bell := rfl
@[simp] theorem Hw.send_mill (h : Hw) (r : ErrRec) : (h.send r).mill = h.mill := rfl
@[simp] theorem Hw.send_clerk (h : Hw) (r : ErrRec) : (h.send r).clerk = h.clerk := rfl
@[simp] theorem Hw.send_power (h : Hw) (r : ErrRec) : (h.send r).power = h.power := rfl
@[simp] theorem Hw.send_boot (h : Hw) (r : ErrRec) : (h.send r).boot = h.boot := rfl
@[simp] theorem Hw.send_obs (h : Hw) (r : ErrRec) : (h.send r).obs = h.obs := rfl
@[simp] theorem Hw.send_out (h : Hw) (r : ErrRec) : (h.send r).out = h.out := rfl
@[simp] theorem Hw.send_resp (h : Hw) (r : ErrRec) : (h.send r).resp = h.resp := rfl
@[simp] theorem Hw.send_wiped (h : Hw) (r : ErrRec) : (h.send r).wiped = h.wiped := rfl
@[simp] theorem Hw.send_free (h : Hw) (r : ErrRec) : (h.send r).free = h.free := rfl

@[simp] theorem Hw.modBell_memS (h : Hw) (f : Bell → Bell) : (h.modBell f).memS = h.memS := rfl
@[simp] theorem Hw.modBell_regs (h : Hw) (f : Bell → Bell) : (h.modBell f).regs = h.regs := rfl
@[simp] theorem Hw.modBell_shadow (h : Hw) (f : Bell → Bell) : (h.modBell f).shadow = h.shadow := rfl
@[simp] theorem Hw.modBell_tiles (h : Hw) (f : Bell → Bell) : (h.modBell f).tiles = h.tiles := rfl
@[simp] theorem Hw.modBell_dieSt (h : Hw) (f : Bell → Bell) : (h.modBell f).dieSt = h.dieSt := rfl
@[simp] theorem Hw.modBell_ctxs (h : Hw) (f : Bell → Bell) : (h.modBell f).ctxs = h.ctxs := rfl
@[simp] theorem Hw.modBell_models (h : Hw) (f : Bell → Bell) : (h.modBell f).models = h.models := rfl
@[simp] theorem Hw.modBell_wins (h : Hw) (f : Bell → Bell) : (h.modBell f).wins = h.wins := rfl
@[simp] theorem Hw.modBell_resid (h : Hw) (f : Bell → Bell) : (h.modBell f).resid = h.resid := rfl
@[simp] theorem Hw.modBell_work (h : Hw) (f : Bell → Bell) : (h.modBell f).work = h.work := rfl
@[simp] theorem Hw.modBell_swaps (h : Hw) (f : Bell → Bell) : (h.modBell f).swaps = h.swaps := rfl
@[simp] theorem Hw.modBell_bitmap (h : Hw) (f : Bell → Bell) : (h.modBell f).bitmap = h.bitmap := rfl
@[simp] theorem Hw.modBell_compl (h : Hw) (f : Bell → Bell) : (h.modBell f).compl = h.compl := rfl
@[simp] theorem Hw.modBell_rsig (h : Hw) (f : Bell → Bell) : (h.modBell f).rsig = h.rsig := rfl
@[simp] theorem Hw.modBell_chron (h : Hw) (f : Bell → Bell) : (h.modBell f).chron = h.chron := rfl
@[simp] theorem Hw.modBell_tithe (h : Hw) (f : Bell → Bell) : (h.modBell f).tithe = h.tithe := rfl
@[simp] theorem Hw.modBell_errOut (h : Hw) (f : Bell → Bell) : (h.modBell f).errOut = h.errOut := rfl
@[simp] theorem Hw.modBell_bellNs (h : Hw) (f : Bell → Bell) : (h.modBell f).bellNs = h.bellNs := rfl
@[simp] theorem Hw.modBell_localNs (h : Hw) (f : Bell → Bell) : (h.modBell f).localNs = h.localNs := rfl
@[simp] theorem Hw.modBell_fab (h : Hw) (f : Bell → Bell) : (h.modBell f).fab = h.fab := rfl
@[simp] theorem Hw.modBell_repl (h : Hw) (f : Bell → Bell) : (h.modBell f).repl = h.repl := rfl
@[simp] theorem Hw.modBell_sites (h : Hw) (f : Bell → Bell) : (h.modBell f).sites = h.sites := rfl
@[simp] theorem Hw.modBell_mill (h : Hw) (f : Bell → Bell) : (h.modBell f).mill = h.mill := rfl
@[simp] theorem Hw.modBell_clerk (h : Hw) (f : Bell → Bell) : (h.modBell f).clerk = h.clerk := rfl
@[simp] theorem Hw.modBell_power (h : Hw) (f : Bell → Bell) : (h.modBell f).power = h.power := rfl
@[simp] theorem Hw.modBell_boot (h : Hw) (f : Bell → Bell) : (h.modBell f).boot = h.boot := rfl
@[simp] theorem Hw.modBell_obs (h : Hw) (f : Bell → Bell) : (h.modBell f).obs = h.obs := rfl
@[simp] theorem Hw.modBell_out (h : Hw) (f : Bell → Bell) : (h.modBell f).out = h.out := rfl
@[simp] theorem Hw.modBell_resp (h : Hw) (f : Bell → Bell) : (h.modBell f).resp = h.resp := rfl
@[simp] theorem Hw.modBell_wiped (h : Hw) (f : Bell → Bell) : (h.modBell f).wiped = h.wiped := rfl
@[simp] theorem Hw.modBell_free (h : Hw) (f : Bell → Bell) : (h.modBell f).free = h.free := rfl

@[simp] theorem Hw.modBoot_memS (h : Hw) (f : Boot → Boot) : (h.modBoot f).memS = h.memS := rfl
@[simp] theorem Hw.modBoot_regs (h : Hw) (f : Boot → Boot) : (h.modBoot f).regs = h.regs := rfl
@[simp] theorem Hw.modBoot_shadow (h : Hw) (f : Boot → Boot) : (h.modBoot f).shadow = h.shadow := rfl
@[simp] theorem Hw.modBoot_tiles (h : Hw) (f : Boot → Boot) : (h.modBoot f).tiles = h.tiles := rfl
@[simp] theorem Hw.modBoot_dieSt (h : Hw) (f : Boot → Boot) : (h.modBoot f).dieSt = h.dieSt := rfl
@[simp] theorem Hw.modBoot_ctxs (h : Hw) (f : Boot → Boot) : (h.modBoot f).ctxs = h.ctxs := rfl
@[simp] theorem Hw.modBoot_models (h : Hw) (f : Boot → Boot) : (h.modBoot f).models = h.models := rfl
@[simp] theorem Hw.modBoot_wins (h : Hw) (f : Boot → Boot) : (h.modBoot f).wins = h.wins := rfl
@[simp] theorem Hw.modBoot_resid (h : Hw) (f : Boot → Boot) : (h.modBoot f).resid = h.resid := rfl
@[simp] theorem Hw.modBoot_work (h : Hw) (f : Boot → Boot) : (h.modBoot f).work = h.work := rfl
@[simp] theorem Hw.modBoot_swaps (h : Hw) (f : Boot → Boot) : (h.modBoot f).swaps = h.swaps := rfl
@[simp] theorem Hw.modBoot_bitmap (h : Hw) (f : Boot → Boot) : (h.modBoot f).bitmap = h.bitmap := rfl
@[simp] theorem Hw.modBoot_compl (h : Hw) (f : Boot → Boot) : (h.modBoot f).compl = h.compl := rfl
@[simp] theorem Hw.modBoot_rsig (h : Hw) (f : Boot → Boot) : (h.modBoot f).rsig = h.rsig := rfl
@[simp] theorem Hw.modBoot_chron (h : Hw) (f : Boot → Boot) : (h.modBoot f).chron = h.chron := rfl
@[simp] theorem Hw.modBoot_tithe (h : Hw) (f : Boot → Boot) : (h.modBoot f).tithe = h.tithe := rfl
@[simp] theorem Hw.modBoot_errOut (h : Hw) (f : Boot → Boot) : (h.modBoot f).errOut = h.errOut := rfl
@[simp] theorem Hw.modBoot_bellNs (h : Hw) (f : Boot → Boot) : (h.modBoot f).bellNs = h.bellNs := rfl
@[simp] theorem Hw.modBoot_localNs (h : Hw) (f : Boot → Boot) : (h.modBoot f).localNs = h.localNs := rfl
@[simp] theorem Hw.modBoot_fab (h : Hw) (f : Boot → Boot) : (h.modBoot f).fab = h.fab := rfl
@[simp] theorem Hw.modBoot_repl (h : Hw) (f : Boot → Boot) : (h.modBoot f).repl = h.repl := rfl
@[simp] theorem Hw.modBoot_sites (h : Hw) (f : Boot → Boot) : (h.modBoot f).sites = h.sites := rfl
@[simp] theorem Hw.modBoot_bell (h : Hw) (f : Boot → Boot) : (h.modBoot f).bell = h.bell := rfl
@[simp] theorem Hw.modBoot_mill (h : Hw) (f : Boot → Boot) : (h.modBoot f).mill = h.mill := rfl
@[simp] theorem Hw.modBoot_clerk (h : Hw) (f : Boot → Boot) : (h.modBoot f).clerk = h.clerk := rfl
@[simp] theorem Hw.modBoot_power (h : Hw) (f : Boot → Boot) : (h.modBoot f).power = h.power := rfl
@[simp] theorem Hw.modBoot_obs (h : Hw) (f : Boot → Boot) : (h.modBoot f).obs = h.obs := rfl
@[simp] theorem Hw.modBoot_out (h : Hw) (f : Boot → Boot) : (h.modBoot f).out = h.out := rfl
@[simp] theorem Hw.modBoot_resp (h : Hw) (f : Boot → Boot) : (h.modBoot f).resp = h.resp := rfl
@[simp] theorem Hw.modBoot_wiped (h : Hw) (f : Boot → Boot) : (h.modBoot f).wiped = h.wiped := rfl
@[simp] theorem Hw.modBoot_free (h : Hw) (f : Boot → Boot) : (h.modBoot f).free = h.free := rfl

@[simp] theorem Hw.modPower_memS (h : Hw) (f : Power → Power) : (h.modPower f).memS = h.memS := rfl
@[simp] theorem Hw.modPower_regs (h : Hw) (f : Power → Power) : (h.modPower f).regs = h.regs := rfl
@[simp] theorem Hw.modPower_shadow (h : Hw) (f : Power → Power) : (h.modPower f).shadow = h.shadow := rfl
@[simp] theorem Hw.modPower_tiles (h : Hw) (f : Power → Power) : (h.modPower f).tiles = h.tiles := rfl
@[simp] theorem Hw.modPower_dieSt (h : Hw) (f : Power → Power) : (h.modPower f).dieSt = h.dieSt := rfl
@[simp] theorem Hw.modPower_ctxs (h : Hw) (f : Power → Power) : (h.modPower f).ctxs = h.ctxs := rfl
@[simp] theorem Hw.modPower_models (h : Hw) (f : Power → Power) : (h.modPower f).models = h.models := rfl
@[simp] theorem Hw.modPower_wins (h : Hw) (f : Power → Power) : (h.modPower f).wins = h.wins := rfl
@[simp] theorem Hw.modPower_resid (h : Hw) (f : Power → Power) : (h.modPower f).resid = h.resid := rfl
@[simp] theorem Hw.modPower_work (h : Hw) (f : Power → Power) : (h.modPower f).work = h.work := rfl
@[simp] theorem Hw.modPower_swaps (h : Hw) (f : Power → Power) : (h.modPower f).swaps = h.swaps := rfl
@[simp] theorem Hw.modPower_bitmap (h : Hw) (f : Power → Power) : (h.modPower f).bitmap = h.bitmap := rfl
@[simp] theorem Hw.modPower_compl (h : Hw) (f : Power → Power) : (h.modPower f).compl = h.compl := rfl
@[simp] theorem Hw.modPower_rsig (h : Hw) (f : Power → Power) : (h.modPower f).rsig = h.rsig := rfl
@[simp] theorem Hw.modPower_chron (h : Hw) (f : Power → Power) : (h.modPower f).chron = h.chron := rfl
@[simp] theorem Hw.modPower_tithe (h : Hw) (f : Power → Power) : (h.modPower f).tithe = h.tithe := rfl
@[simp] theorem Hw.modPower_errOut (h : Hw) (f : Power → Power) : (h.modPower f).errOut = h.errOut := rfl
@[simp] theorem Hw.modPower_bellNs (h : Hw) (f : Power → Power) : (h.modPower f).bellNs = h.bellNs := rfl
@[simp] theorem Hw.modPower_localNs (h : Hw) (f : Power → Power) : (h.modPower f).localNs = h.localNs := rfl
@[simp] theorem Hw.modPower_fab (h : Hw) (f : Power → Power) : (h.modPower f).fab = h.fab := rfl
@[simp] theorem Hw.modPower_repl (h : Hw) (f : Power → Power) : (h.modPower f).repl = h.repl := rfl
@[simp] theorem Hw.modPower_sites (h : Hw) (f : Power → Power) : (h.modPower f).sites = h.sites := rfl
@[simp] theorem Hw.modPower_bell (h : Hw) (f : Power → Power) : (h.modPower f).bell = h.bell := rfl
@[simp] theorem Hw.modPower_mill (h : Hw) (f : Power → Power) : (h.modPower f).mill = h.mill := rfl
@[simp] theorem Hw.modPower_clerk (h : Hw) (f : Power → Power) : (h.modPower f).clerk = h.clerk := rfl
@[simp] theorem Hw.modPower_boot (h : Hw) (f : Power → Power) : (h.modPower f).boot = h.boot := rfl
@[simp] theorem Hw.modPower_obs (h : Hw) (f : Power → Power) : (h.modPower f).obs = h.obs := rfl
@[simp] theorem Hw.modPower_out (h : Hw) (f : Power → Power) : (h.modPower f).out = h.out := rfl
@[simp] theorem Hw.modPower_resp (h : Hw) (f : Power → Power) : (h.modPower f).resp = h.resp := rfl
@[simp] theorem Hw.modPower_wiped (h : Hw) (f : Power → Power) : (h.modPower f).wiped = h.wiped := rfl
@[simp] theorem Hw.modPower_free (h : Hw) (f : Power → Power) : (h.modPower f).free = h.free := rfl

@[simp] theorem Hw.modClerk_memS (h : Hw) (f : Clerk → Clerk) : (h.modClerk f).memS = h.memS := rfl
@[simp] theorem Hw.modClerk_regs (h : Hw) (f : Clerk → Clerk) : (h.modClerk f).regs = h.regs := rfl
@[simp] theorem Hw.modClerk_shadow (h : Hw) (f : Clerk → Clerk) : (h.modClerk f).shadow = h.shadow := rfl
@[simp] theorem Hw.modClerk_tiles (h : Hw) (f : Clerk → Clerk) : (h.modClerk f).tiles = h.tiles := rfl
@[simp] theorem Hw.modClerk_dieSt (h : Hw) (f : Clerk → Clerk) : (h.modClerk f).dieSt = h.dieSt := rfl
@[simp] theorem Hw.modClerk_ctxs (h : Hw) (f : Clerk → Clerk) : (h.modClerk f).ctxs = h.ctxs := rfl
@[simp] theorem Hw.modClerk_models (h : Hw) (f : Clerk → Clerk) : (h.modClerk f).models = h.models := rfl
@[simp] theorem Hw.modClerk_wins (h : Hw) (f : Clerk → Clerk) : (h.modClerk f).wins = h.wins := rfl
@[simp] theorem Hw.modClerk_resid (h : Hw) (f : Clerk → Clerk) : (h.modClerk f).resid = h.resid := rfl
@[simp] theorem Hw.modClerk_work (h : Hw) (f : Clerk → Clerk) : (h.modClerk f).work = h.work := rfl
@[simp] theorem Hw.modClerk_swaps (h : Hw) (f : Clerk → Clerk) : (h.modClerk f).swaps = h.swaps := rfl
@[simp] theorem Hw.modClerk_bitmap (h : Hw) (f : Clerk → Clerk) : (h.modClerk f).bitmap = h.bitmap := rfl
@[simp] theorem Hw.modClerk_compl (h : Hw) (f : Clerk → Clerk) : (h.modClerk f).compl = h.compl := rfl
@[simp] theorem Hw.modClerk_rsig (h : Hw) (f : Clerk → Clerk) : (h.modClerk f).rsig = h.rsig := rfl
@[simp] theorem Hw.modClerk_chron (h : Hw) (f : Clerk → Clerk) : (h.modClerk f).chron = h.chron := rfl
@[simp] theorem Hw.modClerk_tithe (h : Hw) (f : Clerk → Clerk) : (h.modClerk f).tithe = h.tithe := rfl
@[simp] theorem Hw.modClerk_errOut (h : Hw) (f : Clerk → Clerk) : (h.modClerk f).errOut = h.errOut := rfl
@[simp] theorem Hw.modClerk_bellNs (h : Hw) (f : Clerk → Clerk) : (h.modClerk f).bellNs = h.bellNs := rfl
@[simp] theorem Hw.modClerk_localNs (h : Hw) (f : Clerk → Clerk) : (h.modClerk f).localNs = h.localNs := rfl
@[simp] theorem Hw.modClerk_fab (h : Hw) (f : Clerk → Clerk) : (h.modClerk f).fab = h.fab := rfl
@[simp] theorem Hw.modClerk_repl (h : Hw) (f : Clerk → Clerk) : (h.modClerk f).repl = h.repl := rfl
@[simp] theorem Hw.modClerk_sites (h : Hw) (f : Clerk → Clerk) : (h.modClerk f).sites = h.sites := rfl
@[simp] theorem Hw.modClerk_bell (h : Hw) (f : Clerk → Clerk) : (h.modClerk f).bell = h.bell := rfl
@[simp] theorem Hw.modClerk_mill (h : Hw) (f : Clerk → Clerk) : (h.modClerk f).mill = h.mill := rfl
@[simp] theorem Hw.modClerk_power (h : Hw) (f : Clerk → Clerk) : (h.modClerk f).power = h.power := rfl
@[simp] theorem Hw.modClerk_boot (h : Hw) (f : Clerk → Clerk) : (h.modClerk f).boot = h.boot := rfl
@[simp] theorem Hw.modClerk_obs (h : Hw) (f : Clerk → Clerk) : (h.modClerk f).obs = h.obs := rfl
@[simp] theorem Hw.modClerk_out (h : Hw) (f : Clerk → Clerk) : (h.modClerk f).out = h.out := rfl
@[simp] theorem Hw.modClerk_resp (h : Hw) (f : Clerk → Clerk) : (h.modClerk f).resp = h.resp := rfl
@[simp] theorem Hw.modClerk_wiped (h : Hw) (f : Clerk → Clerk) : (h.modClerk f).wiped = h.wiped := rfl
@[simp] theorem Hw.modClerk_free (h : Hw) (f : Clerk → Clerk) : (h.modClerk f).free = h.free := rfl

@[simp] theorem Hw.modFab_memS (h : Hw) (f : Fab → Fab) : (h.modFab f).memS = h.memS := rfl
@[simp] theorem Hw.modFab_regs (h : Hw) (f : Fab → Fab) : (h.modFab f).regs = h.regs := rfl
@[simp] theorem Hw.modFab_shadow (h : Hw) (f : Fab → Fab) : (h.modFab f).shadow = h.shadow := rfl
@[simp] theorem Hw.modFab_tiles (h : Hw) (f : Fab → Fab) : (h.modFab f).tiles = h.tiles := rfl
@[simp] theorem Hw.modFab_dieSt (h : Hw) (f : Fab → Fab) : (h.modFab f).dieSt = h.dieSt := rfl
@[simp] theorem Hw.modFab_ctxs (h : Hw) (f : Fab → Fab) : (h.modFab f).ctxs = h.ctxs := rfl
@[simp] theorem Hw.modFab_models (h : Hw) (f : Fab → Fab) : (h.modFab f).models = h.models := rfl
@[simp] theorem Hw.modFab_wins (h : Hw) (f : Fab → Fab) : (h.modFab f).wins = h.wins := rfl
@[simp] theorem Hw.modFab_resid (h : Hw) (f : Fab → Fab) : (h.modFab f).resid = h.resid := rfl
@[simp] theorem Hw.modFab_work (h : Hw) (f : Fab → Fab) : (h.modFab f).work = h.work := rfl
@[simp] theorem Hw.modFab_swaps (h : Hw) (f : Fab → Fab) : (h.modFab f).swaps = h.swaps := rfl
@[simp] theorem Hw.modFab_bitmap (h : Hw) (f : Fab → Fab) : (h.modFab f).bitmap = h.bitmap := rfl
@[simp] theorem Hw.modFab_compl (h : Hw) (f : Fab → Fab) : (h.modFab f).compl = h.compl := rfl
@[simp] theorem Hw.modFab_rsig (h : Hw) (f : Fab → Fab) : (h.modFab f).rsig = h.rsig := rfl
@[simp] theorem Hw.modFab_chron (h : Hw) (f : Fab → Fab) : (h.modFab f).chron = h.chron := rfl
@[simp] theorem Hw.modFab_tithe (h : Hw) (f : Fab → Fab) : (h.modFab f).tithe = h.tithe := rfl
@[simp] theorem Hw.modFab_errOut (h : Hw) (f : Fab → Fab) : (h.modFab f).errOut = h.errOut := rfl
@[simp] theorem Hw.modFab_bellNs (h : Hw) (f : Fab → Fab) : (h.modFab f).bellNs = h.bellNs := rfl
@[simp] theorem Hw.modFab_localNs (h : Hw) (f : Fab → Fab) : (h.modFab f).localNs = h.localNs := rfl
@[simp] theorem Hw.modFab_repl (h : Hw) (f : Fab → Fab) : (h.modFab f).repl = h.repl := rfl
@[simp] theorem Hw.modFab_sites (h : Hw) (f : Fab → Fab) : (h.modFab f).sites = h.sites := rfl
@[simp] theorem Hw.modFab_bell (h : Hw) (f : Fab → Fab) : (h.modFab f).bell = h.bell := rfl
@[simp] theorem Hw.modFab_mill (h : Hw) (f : Fab → Fab) : (h.modFab f).mill = h.mill := rfl
@[simp] theorem Hw.modFab_clerk (h : Hw) (f : Fab → Fab) : (h.modFab f).clerk = h.clerk := rfl
@[simp] theorem Hw.modFab_power (h : Hw) (f : Fab → Fab) : (h.modFab f).power = h.power := rfl
@[simp] theorem Hw.modFab_boot (h : Hw) (f : Fab → Fab) : (h.modFab f).boot = h.boot := rfl
@[simp] theorem Hw.modFab_obs (h : Hw) (f : Fab → Fab) : (h.modFab f).obs = h.obs := rfl
@[simp] theorem Hw.modFab_out (h : Hw) (f : Fab → Fab) : (h.modFab f).out = h.out := rfl
@[simp] theorem Hw.modFab_resp (h : Hw) (f : Fab → Fab) : (h.modFab f).resp = h.resp := rfl
@[simp] theorem Hw.modFab_wiped (h : Hw) (f : Fab → Fab) : (h.modFab f).wiped = h.wiped := rfl
@[simp] theorem Hw.modFab_free (h : Hw) (f : Fab → Fab) : (h.modFab f).free = h.free := rfl

@[simp] theorem Hw.modGrp_memS (h : Hw) (i : Nat) (f : Group → Group) : (h.modGrp i f).memS = h.memS := rfl
@[simp] theorem Hw.modGrp_regs (h : Hw) (i : Nat) (f : Group → Group) : (h.modGrp i f).regs = h.regs := rfl
@[simp] theorem Hw.modGrp_shadow (h : Hw) (i : Nat) (f : Group → Group) : (h.modGrp i f).shadow = h.shadow := rfl
@[simp] theorem Hw.modGrp_tiles (h : Hw) (i : Nat) (f : Group → Group) : (h.modGrp i f).tiles = h.tiles := rfl
@[simp] theorem Hw.modGrp_dieSt (h : Hw) (i : Nat) (f : Group → Group) : (h.modGrp i f).dieSt = h.dieSt := rfl
@[simp] theorem Hw.modGrp_ctxs (h : Hw) (i : Nat) (f : Group → Group) : (h.modGrp i f).ctxs = h.ctxs := rfl
@[simp] theorem Hw.modGrp_models (h : Hw) (i : Nat) (f : Group → Group) : (h.modGrp i f).models = h.models := rfl
@[simp] theorem Hw.modGrp_wins (h : Hw) (i : Nat) (f : Group → Group) : (h.modGrp i f).wins = h.wins := rfl
@[simp] theorem Hw.modGrp_resid (h : Hw) (i : Nat) (f : Group → Group) : (h.modGrp i f).resid = h.resid := rfl
@[simp] theorem Hw.modGrp_work (h : Hw) (i : Nat) (f : Group → Group) : (h.modGrp i f).work = h.work := rfl
@[simp] theorem Hw.modGrp_swaps (h : Hw) (i : Nat) (f : Group → Group) : (h.modGrp i f).swaps = h.swaps := rfl
@[simp] theorem Hw.modGrp_bitmap (h : Hw) (i : Nat) (f : Group → Group) : (h.modGrp i f).bitmap = h.bitmap := rfl
@[simp] theorem Hw.modGrp_compl (h : Hw) (i : Nat) (f : Group → Group) : (h.modGrp i f).compl = h.compl := rfl
@[simp] theorem Hw.modGrp_rsig (h : Hw) (i : Nat) (f : Group → Group) : (h.modGrp i f).rsig = h.rsig := rfl
@[simp] theorem Hw.modGrp_chron (h : Hw) (i : Nat) (f : Group → Group) : (h.modGrp i f).chron = h.chron := rfl
@[simp] theorem Hw.modGrp_tithe (h : Hw) (i : Nat) (f : Group → Group) : (h.modGrp i f).tithe = h.tithe := rfl
@[simp] theorem Hw.modGrp_errOut (h : Hw) (i : Nat) (f : Group → Group) : (h.modGrp i f).errOut = h.errOut := rfl
@[simp] theorem Hw.modGrp_bellNs (h : Hw) (i : Nat) (f : Group → Group) : (h.modGrp i f).bellNs = h.bellNs := rfl
@[simp] theorem Hw.modGrp_localNs (h : Hw) (i : Nat) (f : Group → Group) : (h.modGrp i f).localNs = h.localNs := rfl
@[simp] theorem Hw.modGrp_fab (h : Hw) (i : Nat) (f : Group → Group) : (h.modGrp i f).fab = h.fab := rfl
@[simp] theorem Hw.modGrp_sites (h : Hw) (i : Nat) (f : Group → Group) : (h.modGrp i f).sites = h.sites := rfl
@[simp] theorem Hw.modGrp_bell (h : Hw) (i : Nat) (f : Group → Group) : (h.modGrp i f).bell = h.bell := rfl
@[simp] theorem Hw.modGrp_mill (h : Hw) (i : Nat) (f : Group → Group) : (h.modGrp i f).mill = h.mill := rfl
@[simp] theorem Hw.modGrp_clerk (h : Hw) (i : Nat) (f : Group → Group) : (h.modGrp i f).clerk = h.clerk := rfl
@[simp] theorem Hw.modGrp_power (h : Hw) (i : Nat) (f : Group → Group) : (h.modGrp i f).power = h.power := rfl
@[simp] theorem Hw.modGrp_boot (h : Hw) (i : Nat) (f : Group → Group) : (h.modGrp i f).boot = h.boot := rfl
@[simp] theorem Hw.modGrp_obs (h : Hw) (i : Nat) (f : Group → Group) : (h.modGrp i f).obs = h.obs := rfl
@[simp] theorem Hw.modGrp_out (h : Hw) (i : Nat) (f : Group → Group) : (h.modGrp i f).out = h.out := rfl
@[simp] theorem Hw.modGrp_resp (h : Hw) (i : Nat) (f : Group → Group) : (h.modGrp i f).resp = h.resp := rfl
@[simp] theorem Hw.modGrp_wiped (h : Hw) (i : Nat) (f : Group → Group) : (h.modGrp i f).wiped = h.wiped := rfl
@[simp] theorem Hw.modGrp_free (h : Hw) (i : Nat) (f : Group → Group) : (h.modGrp i f).free = h.free := rfl

@[simp] theorem Hw.modSite_memS (h : Hw) (k : Nat) (f : Site → Site) : (h.modSite k f).memS = h.memS := rfl
@[simp] theorem Hw.modSite_regs (h : Hw) (k : Nat) (f : Site → Site) : (h.modSite k f).regs = h.regs := rfl
@[simp] theorem Hw.modSite_shadow (h : Hw) (k : Nat) (f : Site → Site) : (h.modSite k f).shadow = h.shadow := rfl
@[simp] theorem Hw.modSite_tiles (h : Hw) (k : Nat) (f : Site → Site) : (h.modSite k f).tiles = h.tiles := rfl
@[simp] theorem Hw.modSite_dieSt (h : Hw) (k : Nat) (f : Site → Site) : (h.modSite k f).dieSt = h.dieSt := rfl
@[simp] theorem Hw.modSite_ctxs (h : Hw) (k : Nat) (f : Site → Site) : (h.modSite k f).ctxs = h.ctxs := rfl
@[simp] theorem Hw.modSite_models (h : Hw) (k : Nat) (f : Site → Site) : (h.modSite k f).models = h.models := rfl
@[simp] theorem Hw.modSite_wins (h : Hw) (k : Nat) (f : Site → Site) : (h.modSite k f).wins = h.wins := rfl
@[simp] theorem Hw.modSite_resid (h : Hw) (k : Nat) (f : Site → Site) : (h.modSite k f).resid = h.resid := rfl
@[simp] theorem Hw.modSite_work (h : Hw) (k : Nat) (f : Site → Site) : (h.modSite k f).work = h.work := rfl
@[simp] theorem Hw.modSite_swaps (h : Hw) (k : Nat) (f : Site → Site) : (h.modSite k f).swaps = h.swaps := rfl
@[simp] theorem Hw.modSite_bitmap (h : Hw) (k : Nat) (f : Site → Site) : (h.modSite k f).bitmap = h.bitmap := rfl
@[simp] theorem Hw.modSite_compl (h : Hw) (k : Nat) (f : Site → Site) : (h.modSite k f).compl = h.compl := rfl
@[simp] theorem Hw.modSite_rsig (h : Hw) (k : Nat) (f : Site → Site) : (h.modSite k f).rsig = h.rsig := rfl
@[simp] theorem Hw.modSite_chron (h : Hw) (k : Nat) (f : Site → Site) : (h.modSite k f).chron = h.chron := rfl
@[simp] theorem Hw.modSite_tithe (h : Hw) (k : Nat) (f : Site → Site) : (h.modSite k f).tithe = h.tithe := rfl
@[simp] theorem Hw.modSite_errOut (h : Hw) (k : Nat) (f : Site → Site) : (h.modSite k f).errOut = h.errOut := rfl
@[simp] theorem Hw.modSite_bellNs (h : Hw) (k : Nat) (f : Site → Site) : (h.modSite k f).bellNs = h.bellNs := rfl
@[simp] theorem Hw.modSite_localNs (h : Hw) (k : Nat) (f : Site → Site) : (h.modSite k f).localNs = h.localNs := rfl
@[simp] theorem Hw.modSite_fab (h : Hw) (k : Nat) (f : Site → Site) : (h.modSite k f).fab = h.fab := rfl
@[simp] theorem Hw.modSite_repl (h : Hw) (k : Nat) (f : Site → Site) : (h.modSite k f).repl = h.repl := rfl
@[simp] theorem Hw.modSite_bell (h : Hw) (k : Nat) (f : Site → Site) : (h.modSite k f).bell = h.bell := rfl
@[simp] theorem Hw.modSite_mill (h : Hw) (k : Nat) (f : Site → Site) : (h.modSite k f).mill = h.mill := rfl
@[simp] theorem Hw.modSite_clerk (h : Hw) (k : Nat) (f : Site → Site) : (h.modSite k f).clerk = h.clerk := rfl
@[simp] theorem Hw.modSite_power (h : Hw) (k : Nat) (f : Site → Site) : (h.modSite k f).power = h.power := rfl
@[simp] theorem Hw.modSite_boot (h : Hw) (k : Nat) (f : Site → Site) : (h.modSite k f).boot = h.boot := rfl
@[simp] theorem Hw.modSite_obs (h : Hw) (k : Nat) (f : Site → Site) : (h.modSite k f).obs = h.obs := rfl
@[simp] theorem Hw.modSite_out (h : Hw) (k : Nat) (f : Site → Site) : (h.modSite k f).out = h.out := rfl
@[simp] theorem Hw.modSite_resp (h : Hw) (k : Nat) (f : Site → Site) : (h.modSite k f).resp = h.resp := rfl
@[simp] theorem Hw.modSite_wiped (h : Hw) (k : Nat) (f : Site → Site) : (h.modSite k f).wiped = h.wiped := rfl
@[simp] theorem Hw.modSite_free (h : Hw) (k : Nat) (f : Site → Site) : (h.modSite k f).free = h.free := rfl

@[simp] theorem Hw.modChute_memS (h : Hw) (c : Nat) (f : Chute → Chute) : (h.modChute c f).memS = h.memS := rfl
@[simp] theorem Hw.modChute_regs (h : Hw) (c : Nat) (f : Chute → Chute) : (h.modChute c f).regs = h.regs := rfl
@[simp] theorem Hw.modChute_shadow (h : Hw) (c : Nat) (f : Chute → Chute) : (h.modChute c f).shadow = h.shadow := rfl
@[simp] theorem Hw.modChute_tiles (h : Hw) (c : Nat) (f : Chute → Chute) : (h.modChute c f).tiles = h.tiles := rfl
@[simp] theorem Hw.modChute_dieSt (h : Hw) (c : Nat) (f : Chute → Chute) : (h.modChute c f).dieSt = h.dieSt := rfl
@[simp] theorem Hw.modChute_ctxs (h : Hw) (c : Nat) (f : Chute → Chute) : (h.modChute c f).ctxs = h.ctxs := rfl
@[simp] theorem Hw.modChute_models (h : Hw) (c : Nat) (f : Chute → Chute) : (h.modChute c f).models = h.models := rfl
@[simp] theorem Hw.modChute_wins (h : Hw) (c : Nat) (f : Chute → Chute) : (h.modChute c f).wins = h.wins := rfl
@[simp] theorem Hw.modChute_resid (h : Hw) (c : Nat) (f : Chute → Chute) : (h.modChute c f).resid = h.resid := rfl
@[simp] theorem Hw.modChute_work (h : Hw) (c : Nat) (f : Chute → Chute) : (h.modChute c f).work = h.work := rfl
@[simp] theorem Hw.modChute_swaps (h : Hw) (c : Nat) (f : Chute → Chute) : (h.modChute c f).swaps = h.swaps := rfl
@[simp] theorem Hw.modChute_bitmap (h : Hw) (c : Nat) (f : Chute → Chute) : (h.modChute c f).bitmap = h.bitmap := rfl
@[simp] theorem Hw.modChute_compl (h : Hw) (c : Nat) (f : Chute → Chute) : (h.modChute c f).compl = h.compl := rfl
@[simp] theorem Hw.modChute_rsig (h : Hw) (c : Nat) (f : Chute → Chute) : (h.modChute c f).rsig = h.rsig := rfl
@[simp] theorem Hw.modChute_chron (h : Hw) (c : Nat) (f : Chute → Chute) : (h.modChute c f).chron = h.chron := rfl
@[simp] theorem Hw.modChute_tithe (h : Hw) (c : Nat) (f : Chute → Chute) : (h.modChute c f).tithe = h.tithe := rfl
@[simp] theorem Hw.modChute_errOut (h : Hw) (c : Nat) (f : Chute → Chute) : (h.modChute c f).errOut = h.errOut := rfl
@[simp] theorem Hw.modChute_bellNs (h : Hw) (c : Nat) (f : Chute → Chute) : (h.modChute c f).bellNs = h.bellNs := rfl
@[simp] theorem Hw.modChute_localNs (h : Hw) (c : Nat) (f : Chute → Chute) : (h.modChute c f).localNs = h.localNs := rfl
@[simp] theorem Hw.modChute_fab (h : Hw) (c : Nat) (f : Chute → Chute) : (h.modChute c f).fab = h.fab := rfl
@[simp] theorem Hw.modChute_repl (h : Hw) (c : Nat) (f : Chute → Chute) : (h.modChute c f).repl = h.repl := rfl
@[simp] theorem Hw.modChute_sites (h : Hw) (c : Nat) (f : Chute → Chute) : (h.modChute c f).sites = h.sites := rfl
@[simp] theorem Hw.modChute_bell (h : Hw) (c : Nat) (f : Chute → Chute) : (h.modChute c f).bell = h.bell := rfl
@[simp] theorem Hw.modChute_clerk (h : Hw) (c : Nat) (f : Chute → Chute) : (h.modChute c f).clerk = h.clerk := rfl
@[simp] theorem Hw.modChute_power (h : Hw) (c : Nat) (f : Chute → Chute) : (h.modChute c f).power = h.power := rfl
@[simp] theorem Hw.modChute_boot (h : Hw) (c : Nat) (f : Chute → Chute) : (h.modChute c f).boot = h.boot := rfl
@[simp] theorem Hw.modChute_obs (h : Hw) (c : Nat) (f : Chute → Chute) : (h.modChute c f).obs = h.obs := rfl
@[simp] theorem Hw.modChute_out (h : Hw) (c : Nat) (f : Chute → Chute) : (h.modChute c f).out = h.out := rfl
@[simp] theorem Hw.modChute_resp (h : Hw) (c : Nat) (f : Chute → Chute) : (h.modChute c f).resp = h.resp := rfl
@[simp] theorem Hw.modChute_wiped (h : Hw) (c : Nat) (f : Chute → Chute) : (h.modChute c f).wiped = h.wiped := rfl
@[simp] theorem Hw.modChute_free (h : Hw) (c : Nat) (f : Chute → Chute) : (h.modChute c f).free = h.free := rfl

/-- An event changes the chronicle alone. -/
theorem Hw.event_eq (h : Hw) (type die unit : Nat) (ctx : Option Nat) (data : List (Nat × Nat × Nat)) :
    h.event type die unit ctx data = { h with chron := (h.event type die unit ctx data).chron } := by
  unfold Hw.event
  by_cases h1 : (h.chron.running && bitAt h.chron.dies die && bitAt h.chron.classes (chronClass type)) = true
  · by_cases h2 : (SMap.get [] h.chron.bufs die).length < (if die = 8 then 256 else 64)
    · simp only [h1, h2, if_true]
    · simp only [h1, h2, if_true, if_false]
  · simp only [h1, if_false, Bool.false_eq_true]

theorem Hw.count_eq (h : Hw) (d set i n : Nat) : h.count d set i n = { h with regs := (h.count d set i n).regs } := by
  unfold Hw.count
  by_cases h1 : h.regF (blkBase .dobs d + 0x800) 0 1 = set
  · simp only [h1, if_true, Hw.setReg]
  · simp only [h1, if_false]

theorem Hw.countHub_eq (h : Hw) (set i n : Nat) : h.countHub set i n = { h with regs := (h.countHub set i n).regs } := by
  unfold Hw.countHub
  by_cases h1 : h.regF (blkBase .hobs 0 + 0x1000) 0 1 = set
  · simp only [h1, if_true, Hw.setReg]
  · simp only [h1, if_false]

@[simp] theorem Hw.event_memS (h : Hw) (type die unit : Nat) (ctx : Option Nat) (data : List (Nat × Nat × Nat)) : (h.event type die unit ctx data).memS = h.memS :=
  (congrArg Hw.memS (h.event_eq type die unit ctx data) :)
@[simp] theorem Hw.event_regs (h : Hw) (type die unit : Nat) (ctx : Option Nat) (data : List (Nat × Nat × Nat)) : (h.event type die unit ctx data).regs = h.regs :=
  (congrArg Hw.regs (h.event_eq type die unit ctx data) :)
@[simp] theorem Hw.event_shadow (h : Hw) (type die unit : Nat) (ctx : Option Nat) (data : List (Nat × Nat × Nat)) : (h.event type die unit ctx data).shadow = h.shadow :=
  (congrArg Hw.shadow (h.event_eq type die unit ctx data) :)
@[simp] theorem Hw.event_tiles (h : Hw) (type die unit : Nat) (ctx : Option Nat) (data : List (Nat × Nat × Nat)) : (h.event type die unit ctx data).tiles = h.tiles :=
  (congrArg Hw.tiles (h.event_eq type die unit ctx data) :)
@[simp] theorem Hw.event_dieSt (h : Hw) (type die unit : Nat) (ctx : Option Nat) (data : List (Nat × Nat × Nat)) : (h.event type die unit ctx data).dieSt = h.dieSt :=
  (congrArg Hw.dieSt (h.event_eq type die unit ctx data) :)
@[simp] theorem Hw.event_ctxs (h : Hw) (type die unit : Nat) (ctx : Option Nat) (data : List (Nat × Nat × Nat)) : (h.event type die unit ctx data).ctxs = h.ctxs :=
  (congrArg Hw.ctxs (h.event_eq type die unit ctx data) :)
@[simp] theorem Hw.event_models (h : Hw) (type die unit : Nat) (ctx : Option Nat) (data : List (Nat × Nat × Nat)) : (h.event type die unit ctx data).models = h.models :=
  (congrArg Hw.models (h.event_eq type die unit ctx data) :)
@[simp] theorem Hw.event_wins (h : Hw) (type die unit : Nat) (ctx : Option Nat) (data : List (Nat × Nat × Nat)) : (h.event type die unit ctx data).wins = h.wins :=
  (congrArg Hw.wins (h.event_eq type die unit ctx data) :)
@[simp] theorem Hw.event_resid (h : Hw) (type die unit : Nat) (ctx : Option Nat) (data : List (Nat × Nat × Nat)) : (h.event type die unit ctx data).resid = h.resid :=
  (congrArg Hw.resid (h.event_eq type die unit ctx data) :)
@[simp] theorem Hw.event_work (h : Hw) (type die unit : Nat) (ctx : Option Nat) (data : List (Nat × Nat × Nat)) : (h.event type die unit ctx data).work = h.work :=
  (congrArg Hw.work (h.event_eq type die unit ctx data) :)
@[simp] theorem Hw.event_swaps (h : Hw) (type die unit : Nat) (ctx : Option Nat) (data : List (Nat × Nat × Nat)) : (h.event type die unit ctx data).swaps = h.swaps :=
  (congrArg Hw.swaps (h.event_eq type die unit ctx data) :)
@[simp] theorem Hw.event_bitmap (h : Hw) (type die unit : Nat) (ctx : Option Nat) (data : List (Nat × Nat × Nat)) : (h.event type die unit ctx data).bitmap = h.bitmap :=
  (congrArg Hw.bitmap (h.event_eq type die unit ctx data) :)
@[simp] theorem Hw.event_compl (h : Hw) (type die unit : Nat) (ctx : Option Nat) (data : List (Nat × Nat × Nat)) : (h.event type die unit ctx data).compl = h.compl :=
  (congrArg Hw.compl (h.event_eq type die unit ctx data) :)
@[simp] theorem Hw.event_rsig (h : Hw) (type die unit : Nat) (ctx : Option Nat) (data : List (Nat × Nat × Nat)) : (h.event type die unit ctx data).rsig = h.rsig :=
  (congrArg Hw.rsig (h.event_eq type die unit ctx data) :)
@[simp] theorem Hw.event_tithe (h : Hw) (type die unit : Nat) (ctx : Option Nat) (data : List (Nat × Nat × Nat)) : (h.event type die unit ctx data).tithe = h.tithe :=
  (congrArg Hw.tithe (h.event_eq type die unit ctx data) :)
@[simp] theorem Hw.event_errOut (h : Hw) (type die unit : Nat) (ctx : Option Nat) (data : List (Nat × Nat × Nat)) : (h.event type die unit ctx data).errOut = h.errOut :=
  (congrArg Hw.errOut (h.event_eq type die unit ctx data) :)
@[simp] theorem Hw.event_bellNs (h : Hw) (type die unit : Nat) (ctx : Option Nat) (data : List (Nat × Nat × Nat)) : (h.event type die unit ctx data).bellNs = h.bellNs :=
  (congrArg Hw.bellNs (h.event_eq type die unit ctx data) :)
@[simp] theorem Hw.event_localNs (h : Hw) (type die unit : Nat) (ctx : Option Nat) (data : List (Nat × Nat × Nat)) : (h.event type die unit ctx data).localNs = h.localNs :=
  (congrArg Hw.localNs (h.event_eq type die unit ctx data) :)
@[simp] theorem Hw.event_fab (h : Hw) (type die unit : Nat) (ctx : Option Nat) (data : List (Nat × Nat × Nat)) : (h.event type die unit ctx data).fab = h.fab :=
  (congrArg Hw.fab (h.event_eq type die unit ctx data) :)
@[simp] theorem Hw.event_repl (h : Hw) (type die unit : Nat) (ctx : Option Nat) (data : List (Nat × Nat × Nat)) : (h.event type die unit ctx data).repl = h.repl :=
  (congrArg Hw.repl (h.event_eq type die unit ctx data) :)
@[simp] theorem Hw.event_sites (h : Hw) (type die unit : Nat) (ctx : Option Nat) (data : List (Nat × Nat × Nat)) : (h.event type die unit ctx data).sites = h.sites :=
  (congrArg Hw.sites (h.event_eq type die unit ctx data) :)
@[simp] theorem Hw.event_bell (h : Hw) (type die unit : Nat) (ctx : Option Nat) (data : List (Nat × Nat × Nat)) : (h.event type die unit ctx data).bell = h.bell :=
  (congrArg Hw.bell (h.event_eq type die unit ctx data) :)
@[simp] theorem Hw.event_mill (h : Hw) (type die unit : Nat) (ctx : Option Nat) (data : List (Nat × Nat × Nat)) : (h.event type die unit ctx data).mill = h.mill :=
  (congrArg Hw.mill (h.event_eq type die unit ctx data) :)
@[simp] theorem Hw.event_clerk (h : Hw) (type die unit : Nat) (ctx : Option Nat) (data : List (Nat × Nat × Nat)) : (h.event type die unit ctx data).clerk = h.clerk :=
  (congrArg Hw.clerk (h.event_eq type die unit ctx data) :)
@[simp] theorem Hw.event_power (h : Hw) (type die unit : Nat) (ctx : Option Nat) (data : List (Nat × Nat × Nat)) : (h.event type die unit ctx data).power = h.power :=
  (congrArg Hw.power (h.event_eq type die unit ctx data) :)
@[simp] theorem Hw.event_boot (h : Hw) (type die unit : Nat) (ctx : Option Nat) (data : List (Nat × Nat × Nat)) : (h.event type die unit ctx data).boot = h.boot :=
  (congrArg Hw.boot (h.event_eq type die unit ctx data) :)
@[simp] theorem Hw.event_obs (h : Hw) (type die unit : Nat) (ctx : Option Nat) (data : List (Nat × Nat × Nat)) : (h.event type die unit ctx data).obs = h.obs :=
  (congrArg Hw.obs (h.event_eq type die unit ctx data) :)
@[simp] theorem Hw.event_out (h : Hw) (type die unit : Nat) (ctx : Option Nat) (data : List (Nat × Nat × Nat)) : (h.event type die unit ctx data).out = h.out :=
  (congrArg Hw.out (h.event_eq type die unit ctx data) :)
@[simp] theorem Hw.event_resp (h : Hw) (type die unit : Nat) (ctx : Option Nat) (data : List (Nat × Nat × Nat)) : (h.event type die unit ctx data).resp = h.resp :=
  (congrArg Hw.resp (h.event_eq type die unit ctx data) :)
@[simp] theorem Hw.event_wiped (h : Hw) (type die unit : Nat) (ctx : Option Nat) (data : List (Nat × Nat × Nat)) : (h.event type die unit ctx data).wiped = h.wiped :=
  (congrArg Hw.wiped (h.event_eq type die unit ctx data) :)
@[simp] theorem Hw.event_free (h : Hw) (type die unit : Nat) (ctx : Option Nat) (data : List (Nat × Nat × Nat)) : (h.event type die unit ctx data).free = h.free :=
  (congrArg Hw.free (h.event_eq type die unit ctx data) :)

@[simp] theorem Hw.count_memS (h : Hw) (d set i n : Nat) : (h.count d set i n).memS = h.memS :=
  (congrArg Hw.memS (h.count_eq d set i n) :)
@[simp] theorem Hw.count_shadow (h : Hw) (d set i n : Nat) : (h.count d set i n).shadow = h.shadow :=
  (congrArg Hw.shadow (h.count_eq d set i n) :)
@[simp] theorem Hw.count_tiles (h : Hw) (d set i n : Nat) : (h.count d set i n).tiles = h.tiles :=
  (congrArg Hw.tiles (h.count_eq d set i n) :)
@[simp] theorem Hw.count_dieSt (h : Hw) (d set i n : Nat) : (h.count d set i n).dieSt = h.dieSt :=
  (congrArg Hw.dieSt (h.count_eq d set i n) :)
@[simp] theorem Hw.count_ctxs (h : Hw) (d set i n : Nat) : (h.count d set i n).ctxs = h.ctxs :=
  (congrArg Hw.ctxs (h.count_eq d set i n) :)
@[simp] theorem Hw.count_models (h : Hw) (d set i n : Nat) : (h.count d set i n).models = h.models :=
  (congrArg Hw.models (h.count_eq d set i n) :)
@[simp] theorem Hw.count_wins (h : Hw) (d set i n : Nat) : (h.count d set i n).wins = h.wins :=
  (congrArg Hw.wins (h.count_eq d set i n) :)
@[simp] theorem Hw.count_resid (h : Hw) (d set i n : Nat) : (h.count d set i n).resid = h.resid :=
  (congrArg Hw.resid (h.count_eq d set i n) :)
@[simp] theorem Hw.count_work (h : Hw) (d set i n : Nat) : (h.count d set i n).work = h.work :=
  (congrArg Hw.work (h.count_eq d set i n) :)
@[simp] theorem Hw.count_swaps (h : Hw) (d set i n : Nat) : (h.count d set i n).swaps = h.swaps :=
  (congrArg Hw.swaps (h.count_eq d set i n) :)
@[simp] theorem Hw.count_bitmap (h : Hw) (d set i n : Nat) : (h.count d set i n).bitmap = h.bitmap :=
  (congrArg Hw.bitmap (h.count_eq d set i n) :)
@[simp] theorem Hw.count_compl (h : Hw) (d set i n : Nat) : (h.count d set i n).compl = h.compl :=
  (congrArg Hw.compl (h.count_eq d set i n) :)
@[simp] theorem Hw.count_rsig (h : Hw) (d set i n : Nat) : (h.count d set i n).rsig = h.rsig :=
  (congrArg Hw.rsig (h.count_eq d set i n) :)
@[simp] theorem Hw.count_chron (h : Hw) (d set i n : Nat) : (h.count d set i n).chron = h.chron :=
  (congrArg Hw.chron (h.count_eq d set i n) :)
@[simp] theorem Hw.count_tithe (h : Hw) (d set i n : Nat) : (h.count d set i n).tithe = h.tithe :=
  (congrArg Hw.tithe (h.count_eq d set i n) :)
@[simp] theorem Hw.count_errOut (h : Hw) (d set i n : Nat) : (h.count d set i n).errOut = h.errOut :=
  (congrArg Hw.errOut (h.count_eq d set i n) :)
@[simp] theorem Hw.count_bellNs (h : Hw) (d set i n : Nat) : (h.count d set i n).bellNs = h.bellNs :=
  (congrArg Hw.bellNs (h.count_eq d set i n) :)
@[simp] theorem Hw.count_localNs (h : Hw) (d set i n : Nat) : (h.count d set i n).localNs = h.localNs :=
  (congrArg Hw.localNs (h.count_eq d set i n) :)
@[simp] theorem Hw.count_fab (h : Hw) (d set i n : Nat) : (h.count d set i n).fab = h.fab :=
  (congrArg Hw.fab (h.count_eq d set i n) :)
@[simp] theorem Hw.count_repl (h : Hw) (d set i n : Nat) : (h.count d set i n).repl = h.repl :=
  (congrArg Hw.repl (h.count_eq d set i n) :)
@[simp] theorem Hw.count_sites (h : Hw) (d set i n : Nat) : (h.count d set i n).sites = h.sites :=
  (congrArg Hw.sites (h.count_eq d set i n) :)
@[simp] theorem Hw.count_bell (h : Hw) (d set i n : Nat) : (h.count d set i n).bell = h.bell :=
  (congrArg Hw.bell (h.count_eq d set i n) :)
@[simp] theorem Hw.count_mill (h : Hw) (d set i n : Nat) : (h.count d set i n).mill = h.mill :=
  (congrArg Hw.mill (h.count_eq d set i n) :)
@[simp] theorem Hw.count_clerk (h : Hw) (d set i n : Nat) : (h.count d set i n).clerk = h.clerk :=
  (congrArg Hw.clerk (h.count_eq d set i n) :)
@[simp] theorem Hw.count_power (h : Hw) (d set i n : Nat) : (h.count d set i n).power = h.power :=
  (congrArg Hw.power (h.count_eq d set i n) :)
@[simp] theorem Hw.count_boot (h : Hw) (d set i n : Nat) : (h.count d set i n).boot = h.boot :=
  (congrArg Hw.boot (h.count_eq d set i n) :)
@[simp] theorem Hw.count_obs (h : Hw) (d set i n : Nat) : (h.count d set i n).obs = h.obs :=
  (congrArg Hw.obs (h.count_eq d set i n) :)
@[simp] theorem Hw.count_out (h : Hw) (d set i n : Nat) : (h.count d set i n).out = h.out :=
  (congrArg Hw.out (h.count_eq d set i n) :)
@[simp] theorem Hw.count_resp (h : Hw) (d set i n : Nat) : (h.count d set i n).resp = h.resp :=
  (congrArg Hw.resp (h.count_eq d set i n) :)
@[simp] theorem Hw.count_wiped (h : Hw) (d set i n : Nat) : (h.count d set i n).wiped = h.wiped :=
  (congrArg Hw.wiped (h.count_eq d set i n) :)
@[simp] theorem Hw.count_free (h : Hw) (d set i n : Nat) : (h.count d set i n).free = h.free :=
  (congrArg Hw.free (h.count_eq d set i n) :)

@[simp] theorem Hw.countHub_memS (h : Hw) (set i n : Nat) : (h.countHub set i n).memS = h.memS :=
  (congrArg Hw.memS (h.countHub_eq set i n) :)
@[simp] theorem Hw.countHub_shadow (h : Hw) (set i n : Nat) : (h.countHub set i n).shadow = h.shadow :=
  (congrArg Hw.shadow (h.countHub_eq set i n) :)
@[simp] theorem Hw.countHub_tiles (h : Hw) (set i n : Nat) : (h.countHub set i n).tiles = h.tiles :=
  (congrArg Hw.tiles (h.countHub_eq set i n) :)
@[simp] theorem Hw.countHub_dieSt (h : Hw) (set i n : Nat) : (h.countHub set i n).dieSt = h.dieSt :=
  (congrArg Hw.dieSt (h.countHub_eq set i n) :)
@[simp] theorem Hw.countHub_ctxs (h : Hw) (set i n : Nat) : (h.countHub set i n).ctxs = h.ctxs :=
  (congrArg Hw.ctxs (h.countHub_eq set i n) :)
@[simp] theorem Hw.countHub_models (h : Hw) (set i n : Nat) : (h.countHub set i n).models = h.models :=
  (congrArg Hw.models (h.countHub_eq set i n) :)
@[simp] theorem Hw.countHub_wins (h : Hw) (set i n : Nat) : (h.countHub set i n).wins = h.wins :=
  (congrArg Hw.wins (h.countHub_eq set i n) :)
@[simp] theorem Hw.countHub_resid (h : Hw) (set i n : Nat) : (h.countHub set i n).resid = h.resid :=
  (congrArg Hw.resid (h.countHub_eq set i n) :)
@[simp] theorem Hw.countHub_work (h : Hw) (set i n : Nat) : (h.countHub set i n).work = h.work :=
  (congrArg Hw.work (h.countHub_eq set i n) :)
@[simp] theorem Hw.countHub_swaps (h : Hw) (set i n : Nat) : (h.countHub set i n).swaps = h.swaps :=
  (congrArg Hw.swaps (h.countHub_eq set i n) :)
@[simp] theorem Hw.countHub_bitmap (h : Hw) (set i n : Nat) : (h.countHub set i n).bitmap = h.bitmap :=
  (congrArg Hw.bitmap (h.countHub_eq set i n) :)
@[simp] theorem Hw.countHub_compl (h : Hw) (set i n : Nat) : (h.countHub set i n).compl = h.compl :=
  (congrArg Hw.compl (h.countHub_eq set i n) :)
@[simp] theorem Hw.countHub_rsig (h : Hw) (set i n : Nat) : (h.countHub set i n).rsig = h.rsig :=
  (congrArg Hw.rsig (h.countHub_eq set i n) :)
@[simp] theorem Hw.countHub_chron (h : Hw) (set i n : Nat) : (h.countHub set i n).chron = h.chron :=
  (congrArg Hw.chron (h.countHub_eq set i n) :)
@[simp] theorem Hw.countHub_tithe (h : Hw) (set i n : Nat) : (h.countHub set i n).tithe = h.tithe :=
  (congrArg Hw.tithe (h.countHub_eq set i n) :)
@[simp] theorem Hw.countHub_errOut (h : Hw) (set i n : Nat) : (h.countHub set i n).errOut = h.errOut :=
  (congrArg Hw.errOut (h.countHub_eq set i n) :)
@[simp] theorem Hw.countHub_bellNs (h : Hw) (set i n : Nat) : (h.countHub set i n).bellNs = h.bellNs :=
  (congrArg Hw.bellNs (h.countHub_eq set i n) :)
@[simp] theorem Hw.countHub_localNs (h : Hw) (set i n : Nat) : (h.countHub set i n).localNs = h.localNs :=
  (congrArg Hw.localNs (h.countHub_eq set i n) :)
@[simp] theorem Hw.countHub_fab (h : Hw) (set i n : Nat) : (h.countHub set i n).fab = h.fab :=
  (congrArg Hw.fab (h.countHub_eq set i n) :)
@[simp] theorem Hw.countHub_repl (h : Hw) (set i n : Nat) : (h.countHub set i n).repl = h.repl :=
  (congrArg Hw.repl (h.countHub_eq set i n) :)
@[simp] theorem Hw.countHub_sites (h : Hw) (set i n : Nat) : (h.countHub set i n).sites = h.sites :=
  (congrArg Hw.sites (h.countHub_eq set i n) :)
@[simp] theorem Hw.countHub_bell (h : Hw) (set i n : Nat) : (h.countHub set i n).bell = h.bell :=
  (congrArg Hw.bell (h.countHub_eq set i n) :)
@[simp] theorem Hw.countHub_mill (h : Hw) (set i n : Nat) : (h.countHub set i n).mill = h.mill :=
  (congrArg Hw.mill (h.countHub_eq set i n) :)
@[simp] theorem Hw.countHub_clerk (h : Hw) (set i n : Nat) : (h.countHub set i n).clerk = h.clerk :=
  (congrArg Hw.clerk (h.countHub_eq set i n) :)
@[simp] theorem Hw.countHub_power (h : Hw) (set i n : Nat) : (h.countHub set i n).power = h.power :=
  (congrArg Hw.power (h.countHub_eq set i n) :)
@[simp] theorem Hw.countHub_boot (h : Hw) (set i n : Nat) : (h.countHub set i n).boot = h.boot :=
  (congrArg Hw.boot (h.countHub_eq set i n) :)
@[simp] theorem Hw.countHub_obs (h : Hw) (set i n : Nat) : (h.countHub set i n).obs = h.obs :=
  (congrArg Hw.obs (h.countHub_eq set i n) :)
@[simp] theorem Hw.countHub_out (h : Hw) (set i n : Nat) : (h.countHub set i n).out = h.out :=
  (congrArg Hw.out (h.countHub_eq set i n) :)
@[simp] theorem Hw.countHub_resp (h : Hw) (set i n : Nat) : (h.countHub set i n).resp = h.resp :=
  (congrArg Hw.resp (h.countHub_eq set i n) :)
@[simp] theorem Hw.countHub_wiped (h : Hw) (set i n : Nat) : (h.countHub set i n).wiped = h.wiped :=
  (congrArg Hw.wiped (h.countHub_eq set i n) :)
@[simp] theorem Hw.countHub_free (h : Hw) (set i n : Nat) : (h.countHub set i n).free = h.free :=
  (congrArg Hw.free (h.countHub_eq set i n) :)

@[simp] theorem Hw.countTile_memS (h : Hw) (g set k n : Nat) : (h.countTile g set k n).memS = h.memS :=
  (congrArg Hw.memS (h.count_eq (g / 10) set (24 * (g % 10) + k) n) :)
@[simp] theorem Hw.countTile_shadow (h : Hw) (g set k n : Nat) : (h.countTile g set k n).shadow = h.shadow :=
  (congrArg Hw.shadow (h.count_eq (g / 10) set (24 * (g % 10) + k) n) :)
@[simp] theorem Hw.countTile_tiles (h : Hw) (g set k n : Nat) : (h.countTile g set k n).tiles = h.tiles :=
  (congrArg Hw.tiles (h.count_eq (g / 10) set (24 * (g % 10) + k) n) :)
@[simp] theorem Hw.countTile_dieSt (h : Hw) (g set k n : Nat) : (h.countTile g set k n).dieSt = h.dieSt :=
  (congrArg Hw.dieSt (h.count_eq (g / 10) set (24 * (g % 10) + k) n) :)
@[simp] theorem Hw.countTile_ctxs (h : Hw) (g set k n : Nat) : (h.countTile g set k n).ctxs = h.ctxs :=
  (congrArg Hw.ctxs (h.count_eq (g / 10) set (24 * (g % 10) + k) n) :)
@[simp] theorem Hw.countTile_models (h : Hw) (g set k n : Nat) : (h.countTile g set k n).models = h.models :=
  (congrArg Hw.models (h.count_eq (g / 10) set (24 * (g % 10) + k) n) :)
@[simp] theorem Hw.countTile_wins (h : Hw) (g set k n : Nat) : (h.countTile g set k n).wins = h.wins :=
  (congrArg Hw.wins (h.count_eq (g / 10) set (24 * (g % 10) + k) n) :)
@[simp] theorem Hw.countTile_resid (h : Hw) (g set k n : Nat) : (h.countTile g set k n).resid = h.resid :=
  (congrArg Hw.resid (h.count_eq (g / 10) set (24 * (g % 10) + k) n) :)
@[simp] theorem Hw.countTile_work (h : Hw) (g set k n : Nat) : (h.countTile g set k n).work = h.work :=
  (congrArg Hw.work (h.count_eq (g / 10) set (24 * (g % 10) + k) n) :)
@[simp] theorem Hw.countTile_swaps (h : Hw) (g set k n : Nat) : (h.countTile g set k n).swaps = h.swaps :=
  (congrArg Hw.swaps (h.count_eq (g / 10) set (24 * (g % 10) + k) n) :)
@[simp] theorem Hw.countTile_bitmap (h : Hw) (g set k n : Nat) : (h.countTile g set k n).bitmap = h.bitmap :=
  (congrArg Hw.bitmap (h.count_eq (g / 10) set (24 * (g % 10) + k) n) :)
@[simp] theorem Hw.countTile_compl (h : Hw) (g set k n : Nat) : (h.countTile g set k n).compl = h.compl :=
  (congrArg Hw.compl (h.count_eq (g / 10) set (24 * (g % 10) + k) n) :)
@[simp] theorem Hw.countTile_rsig (h : Hw) (g set k n : Nat) : (h.countTile g set k n).rsig = h.rsig :=
  (congrArg Hw.rsig (h.count_eq (g / 10) set (24 * (g % 10) + k) n) :)
@[simp] theorem Hw.countTile_chron (h : Hw) (g set k n : Nat) : (h.countTile g set k n).chron = h.chron :=
  (congrArg Hw.chron (h.count_eq (g / 10) set (24 * (g % 10) + k) n) :)
@[simp] theorem Hw.countTile_tithe (h : Hw) (g set k n : Nat) : (h.countTile g set k n).tithe = h.tithe :=
  (congrArg Hw.tithe (h.count_eq (g / 10) set (24 * (g % 10) + k) n) :)
@[simp] theorem Hw.countTile_errOut (h : Hw) (g set k n : Nat) : (h.countTile g set k n).errOut = h.errOut :=
  (congrArg Hw.errOut (h.count_eq (g / 10) set (24 * (g % 10) + k) n) :)
@[simp] theorem Hw.countTile_bellNs (h : Hw) (g set k n : Nat) : (h.countTile g set k n).bellNs = h.bellNs :=
  (congrArg Hw.bellNs (h.count_eq (g / 10) set (24 * (g % 10) + k) n) :)
@[simp] theorem Hw.countTile_localNs (h : Hw) (g set k n : Nat) : (h.countTile g set k n).localNs = h.localNs :=
  (congrArg Hw.localNs (h.count_eq (g / 10) set (24 * (g % 10) + k) n) :)
@[simp] theorem Hw.countTile_fab (h : Hw) (g set k n : Nat) : (h.countTile g set k n).fab = h.fab :=
  (congrArg Hw.fab (h.count_eq (g / 10) set (24 * (g % 10) + k) n) :)
@[simp] theorem Hw.countTile_repl (h : Hw) (g set k n : Nat) : (h.countTile g set k n).repl = h.repl :=
  (congrArg Hw.repl (h.count_eq (g / 10) set (24 * (g % 10) + k) n) :)
@[simp] theorem Hw.countTile_sites (h : Hw) (g set k n : Nat) : (h.countTile g set k n).sites = h.sites :=
  (congrArg Hw.sites (h.count_eq (g / 10) set (24 * (g % 10) + k) n) :)
@[simp] theorem Hw.countTile_bell (h : Hw) (g set k n : Nat) : (h.countTile g set k n).bell = h.bell :=
  (congrArg Hw.bell (h.count_eq (g / 10) set (24 * (g % 10) + k) n) :)
@[simp] theorem Hw.countTile_mill (h : Hw) (g set k n : Nat) : (h.countTile g set k n).mill = h.mill :=
  (congrArg Hw.mill (h.count_eq (g / 10) set (24 * (g % 10) + k) n) :)
@[simp] theorem Hw.countTile_clerk (h : Hw) (g set k n : Nat) : (h.countTile g set k n).clerk = h.clerk :=
  (congrArg Hw.clerk (h.count_eq (g / 10) set (24 * (g % 10) + k) n) :)
@[simp] theorem Hw.countTile_power (h : Hw) (g set k n : Nat) : (h.countTile g set k n).power = h.power :=
  (congrArg Hw.power (h.count_eq (g / 10) set (24 * (g % 10) + k) n) :)
@[simp] theorem Hw.countTile_boot (h : Hw) (g set k n : Nat) : (h.countTile g set k n).boot = h.boot :=
  (congrArg Hw.boot (h.count_eq (g / 10) set (24 * (g % 10) + k) n) :)
@[simp] theorem Hw.countTile_obs (h : Hw) (g set k n : Nat) : (h.countTile g set k n).obs = h.obs :=
  (congrArg Hw.obs (h.count_eq (g / 10) set (24 * (g % 10) + k) n) :)
@[simp] theorem Hw.countTile_out (h : Hw) (g set k n : Nat) : (h.countTile g set k n).out = h.out :=
  (congrArg Hw.out (h.count_eq (g / 10) set (24 * (g % 10) + k) n) :)
@[simp] theorem Hw.countTile_resp (h : Hw) (g set k n : Nat) : (h.countTile g set k n).resp = h.resp :=
  (congrArg Hw.resp (h.count_eq (g / 10) set (24 * (g % 10) + k) n) :)
@[simp] theorem Hw.countTile_wiped (h : Hw) (g set k n : Nat) : (h.countTile g set k n).wiped = h.wiped :=
  (congrArg Hw.wiped (h.count_eq (g / 10) set (24 * (g % 10) + k) n) :)
@[simp] theorem Hw.countTile_free (h : Hw) (g set k n : Nat) : (h.countTile g set k n).free = h.free :=
  (congrArg Hw.free (h.count_eq (g / 10) set (24 * (g % 10) + k) n) :)


/-! ## What an update reads as -/

@[simp] theorem Hw.tile_modTile_self (h : Hw) (g : Nat) (f : Tile → Tile) : (h.modTile g f).tile g = f (h.tile g) := by
  simp [Hw.tile, Hw.modTile]

theorem Hw.tile_modTile_ne (h : Hw) {g u : Nat} (f : Tile → Tile) (hne : u ≠ g) : (h.modTile g f).tile u = h.tile u := by
  simp [Hw.tile, Hw.modTile, SMap.get_mod_ne _ _ _ hne]

@[simp] theorem Tile.stream_modStream_self (t : Tile) (s : Nat) (f : Stream → Stream) :
    (t.modStream s f).stream s = f (t.stream s) := by simp [Tile.stream, Tile.modStream]

theorem Tile.stream_modStream_ne (t : Tile) {s u : Nat} (f : Stream → Stream) (hne : u ≠ s) :
    (t.modStream s f).stream u = t.stream u := by simp [Tile.stream, Tile.modStream, SMap.get_mod_ne _ _ _ hne]

@[simp] theorem Hw.tile_modStream_self (h : Hw) (g s : Nat) (f : Stream → Stream) :
    (h.modStream g s f).tile g = (h.tile g).modStream s f := by simp [Hw.modStream]

theorem Hw.tile_modStream_ne (h : Hw) {g u : Nat} (s : Nat) (f : Stream → Stream) (hne : u ≠ g) :
    (h.modStream g s f).tile u = h.tile u := Hw.tile_modTile_ne h _ hne

@[simp] theorem Hw.stream_modStream_self (h : Hw) (g s : Nat) (f : Stream → Stream) :
    (h.modStream g s f).stream g s = f (h.stream g s) := by simp [Hw.stream]

@[simp] theorem Tile.token_setToken_self (t : Tile) (i v : Nat) : (t.setToken i v).token i = v := by
  simp [Tile.setToken, Tile.token]

theorem Tile.token_setToken_ne (t : Tile) {i j : Nat} (v : Nat) (hne : j ≠ i) : (t.setToken i v).token j = t.token j := by
  simp [Tile.setToken, Tile.token, SMap.get_set_ne _ _ _ hne]

@[simp] theorem Tile.stream_setToken (t : Tile) (i v s : Nat) : (t.setToken i v).stream s = t.stream s := rfl
@[simp] theorem Tile.token_modStream (t : Tile) (s : Nat) (f : Stream → Stream) (i : Nat) :
    (t.modStream s f).token i = t.token i := rfl

@[simp] theorem Hw.tile_event (h : Hw) (type die unit : Nat) (ctx : Option Nat) (data : List (Nat × Nat × Nat)) (g : Nat) :
    (h.event type die unit ctx data).tile g = h.tile g := by simp [Hw.tile]

@[simp] theorem Hw.tile_fresh (h : Hw) (g : Nat) : h.fresh.tile g = h.tile g := rfl
@[simp] theorem Hw.stream_fresh (h : Hw) (g s : Nat) : h.fresh.stream g s = h.stream g s := rfl
@[simp] theorem Hw.reg_fresh (h : Hw) (pa : Nat) : h.fresh.reg pa = h.reg pa := rfl
@[simp] theorem Hw.ctx_fresh (h : Hw) (c : Nat) : h.fresh.ctx c = h.ctx c := rfl
@[simp] theorem Hw.present_fresh (id : Ident) (h : Hw) (g : Nat) : h.fresh.present id g = h.present id g := rfl

/-- A register written reads as its 64 bits. -/
@[simp] theorem Hw.reg_setReg_self (h : Hw) (pa v : Nat) : (h.setReg pa v).reg pa = v % 2 ^ 64 := by
  simp [Hw.reg, Hw.setReg]

theorem Hw.reg_setReg_ne (h : Hw) {pa q : Nat} (v : Nat) (hne : q ≠ pa) : (h.setReg pa v).reg q = h.reg q := by
  simp [Hw.reg, Hw.setReg, SMap.get_set_ne _ _ _ hne]

@[simp] theorem Hw.ctx_modCtx_self (h : Hw) (c : Nat) (f : Ctx → Ctx) : (h.modCtx c f).ctx c = f (h.ctx c) := by
  simp [Hw.ctx, Hw.modCtx]

theorem Hw.ctx_modCtx_ne (h : Hw) {c d : Nat} (f : Ctx → Ctx) (hne : d ≠ c) : (h.modCtx c f).ctx d = h.ctx d := by
  simp [Hw.ctx, Hw.modCtx, SMap.get_mod_ne _ _ _ hne]

/-- x0 reads zero and takes nothing (04 R80). -/
@[simp] theorem Stream.getX_zero (x : Stream) : x.getX 0 = 0 := rfl
@[simp] theorem Stream.setX_zero (x : Stream) (v : Word) : x.setX 0 v = x := rfl

@[simp] theorem Stream.getX_setX_self (x : Stream) (r : Nat) (v : Word) (hr : r % 32 ≠ 0) : (x.setX r v).getX r = v := by
  simp [Stream.getX, Stream.setX, hr]

theorem Stream.getX_setX_ne (x : Stream) {r q : Nat} (v : Word) (hne : q % 32 ≠ r % 32) : (x.setX r v).getX q = x.getX q := by
  unfold Stream.getX Stream.setX
  split
  · rfl
  · split
    · rfl
    · exact SMap.get_set_ne _ _ _ hne

/-! ## The memory system and the caches, field by field -/

@[simp] theorem Hw.modMem_mem (h : Hw) (f : Mem → Mem) : (h.modMem f).memS.mem = f h.memS.mem := rfl
@[simp] theorem Hw.modMem_roll (h : Hw) (f : Mem → Mem) : (h.modMem f).memS.roll = h.memS.roll := rfl
@[simp] theorem Hw.modMem_open (h : Hw) (f : Mem → Mem) : (h.modMem f).memS.open_ = h.memS.open_ := rfl
@[simp] theorem Hw.modMem_wait (h : Hw) (f : Mem → Mem) : (h.modMem f).memS.wait = h.memS.wait := rfl
@[simp] theorem Hw.modMem_cacheBad (h : Hw) (f : Mem → Mem) : (h.modMem f).memS.cacheBad = h.memS.cacheBad := rfl
@[simp] theorem Hw.setRoll_mem (h : Hw) (key : Nat) (r : RollLine) : (h.setRoll key r).memS.mem = h.memS.mem := rfl
@[simp] theorem Hw.setRoll_open (h : Hw) (key : Nat) (r : RollLine) : (h.setRoll key r).memS.open_ = h.memS.open_ := rfl
@[simp] theorem Hw.setRoll_cacheBad (h : Hw) (key : Nat) (r : RollLine) : (h.setRoll key r).memS.cacheBad = h.memS.cacheBad := rfl
@[simp] theorem Hw.cacheHurt_mem (h : Hw) (agent a : Nat) : (h.cacheHurt agent a).memS.mem = h.memS.mem := rfl
@[simp] theorem Hw.cacheHurt_roll (h : Hw) (agent a : Nat) : (h.cacheHurt agent a).memS.roll = h.memS.roll := rfl
@[simp] theorem Hw.cacheClean_mem (h : Hw) (agent a n : Nat) : (h.cacheClean agent a n).memS.mem = h.memS.mem := rfl
@[simp] theorem Hw.cacheClean_roll (h : Hw) (agent a n : Nat) : (h.cacheClean agent a n).memS.roll = h.memS.roll := rfl

/-- An entry written reads back. -/
@[simp] theorem Hw.rollLine_setRoll_self (h : Hw) (key : Nat) (r : RollLine) : (h.setRoll key r).rollLine key = r := by
  simp [Hw.rollLine, Hw.setRoll, Hw.modMemS]

theorem Hw.rollLine_setRoll_ne (h : Hw) {key k : Nat} (r : RollLine) (hne : k / 64 ≠ key / 64) :
    (h.setRoll key r).rollLine k = h.rollLine k := by
  simp [Hw.rollLine, Hw.setRoll, Hw.modMemS, SMap.get_set_ne _ _ _ hne]

/-- Words that an operation wholly writes are sound afterwards (18 R408). -/
theorem Hw.cacheClean_sound (h : Hw) (agent a n w : Nat) (hw : a ≤ w ∧ w + 8 ≤ a + n) :
    (agent, w) ∉ (h.cacheClean agent a n).memS.cacheBad := by
  simp [Hw.cacheClean, Hw.modMemS, hw]

@[simp] theorem Tile.haltCores_strm (t : Tile) (cs : List Nat) : (t.haltCores cs).strm = t.strm := by
  induction cs generalizing t with
  | nil => rfl
  | cons c cs ih => exact ih _
@[simp] theorem Tile.resumeCores_strm (t : Tile) : t.resumeCores.strm = t.strm := rfl
@[simp] theorem Ctx.recorded_st (x : Ctx) (seq : Nat) : (x.recorded seq).st = x.st := by unfold Ctx.recorded; split <;> rfl
@[simp] theorem Ctx.recorded_fwait (x : Ctx) (seq : Nat) : (x.recorded seq).fwait = false := by
  unfold Ctx.recorded; split <;> simp_all
@[simp] theorem Model.recorded_markWait (m : Model) (seq : Nat) : (m.recorded seq).markWait = false := by
  unfold Model.recorded; split <;> simp_all

end Sys2Proof.Machine
end

