-- ==== Sys2Proof/Laws/Frame.lean ====
section
/-!
SUPPORT. Laws/Frame.lean: which parts each shared operation may change. A frame of a command is a chain of these.
-/
namespace Sys2Proof.Machine

theorem Piece.same_refl (p : Piece) (a : Hw) : p.same a a := by cases p <;> rfl

theorem Piece.same_trans {p : Piece} {a b c : Hw} (h : p.same a b) (h' : p.same b c) : p.same a c := by
  cases p <;> exact Eq.trans h h'

theorem Hw.onlyChanges_refl (ps : List Piece) (a : Hw) : Hw.onlyChanges ps a a := fun p _ => p.same_refl a

theorem Hw.onlyChanges_trans {ps : List Piece} {a b c : Hw} (h : Hw.onlyChanges ps a b) (h' : Hw.onlyChanges ps b c) :
    Hw.onlyChanges ps a c := fun p hp => Piece.same_trans (h p hp) (h' p hp)

theorem Hw.onlyChanges_mono {ps qs : List Piece} {a b : Hw} (h : Hw.onlyChanges ps a b) (hs : ∀ p, p ∈ ps → p ∈ qs) :
    Hw.onlyChanges qs a b := fun p hp => h p (fun hm => hp (hs p hm))

theorem Hw.only_modTile {ps : List Piece} (h : Hw) (g : Nat) (f : Tile → Tile) (hp : Piece.tiles ∈ ps) : Hw.onlyChanges ps h (h.modTile g f) := by
  intro p hn; cases p <;> first | (exact absurd hp hn) | exact Eq.symm (by simp)

theorem Hw.only_modStream {ps : List Piece} (h : Hw) (g s : Nat) (f : Stream → Stream) (hp : Piece.tiles ∈ ps) : Hw.onlyChanges ps h (h.modStream g s f) := by
  intro p hn; cases p <;> first | (exact absurd hp hn) | exact Eq.symm (by simp)

theorem Hw.only_modCtx {ps : List Piece} (h : Hw) (c : Nat) (f : Ctx → Ctx) (hp : Piece.ctxs ∈ ps) : Hw.onlyChanges ps h (h.modCtx c f) := by
  intro p hn; cases p <;> first | (exact absurd hp hn) | exact Eq.symm (by simp)

theorem Hw.only_modRes {ps : List Piece} (h : Hw) (g : Nat) (f : Resid → Resid) (hp : Piece.resid ∈ ps) : Hw.onlyChanges ps h (h.modRes g f) := by
  intro p hn; cases p <;> first | (exact absurd hp hn) | exact Eq.symm (by simp)

theorem Hw.only_setWork {ps : List Piece} (h : Hw) (g : Nat) (w : Option Work) (hp : Piece.work ∈ ps) : Hw.onlyChanges ps h (h.setWork g w) := by
  intro p hn; cases p <;> first | (exact absurd hp hn) | exact Eq.symm (by simp)

theorem Hw.only_modMem {ps : List Piece} (h : Hw) (f : Mem → Mem) (hp : Piece.memS ∈ ps) : Hw.onlyChanges ps h (h.modMem f) := by
  intro p hn; cases p <;> first | (exact absurd hp hn) | exact Eq.symm (by simp)

theorem Hw.only_modMemS {ps : List Piece} (h : Hw) (f : MemSide → MemSide) (hp : Piece.memS ∈ ps) : Hw.onlyChanges ps h (h.modMemS f) := by
  intro p hn; cases p <;> first | (exact absurd hp hn) | exact Eq.symm (by simp)

theorem Hw.only_respond {ps : List Piece} (h : Hw) (r : Resp) (hp : Piece.resp ∈ ps) : Hw.onlyChanges ps h (h.respond r) := by
  intro p hn; cases p <;> first | (exact absurd hp hn) | exact Eq.symm (by simp)

theorem Hw.only_setReg {ps : List Piece} (h : Hw) (pa v : Nat) (hp : Piece.regs ∈ ps) : Hw.onlyChanges ps h (h.setReg pa v) := by
  intro p hn; cases p <;> first | (exact absurd hp hn) | exact Eq.symm (by simp)

theorem Hw.only_setRegF {ps : List Piece} (h : Hw) (pa lo len v : Nat) (hp : Piece.regs ∈ ps) : Hw.onlyChanges ps h (h.setRegF pa lo len v) := by
  intro p hn; cases p <;> first | (exact absurd hp hn) | exact Eq.symm (by simp)

theorem Hw.only_bump {ps : List Piece} (h : Hw) (pa lo len n : Nat) (hp : Piece.regs ∈ ps) : Hw.onlyChanges ps h (h.bump pa lo len n) := by
  intro p hn; cases p <;> first | (exact absurd hp hn) | exact Eq.symm (by simp)

theorem Hw.only_send {ps : List Piece} (h : Hw) (r : ErrRec) (hp : Piece.errOut ∈ ps) : Hw.onlyChanges ps h (h.send r) := by
  intro p hn; cases p <;> first | (exact absurd hp hn) | exact Eq.symm (by simp)

theorem Hw.only_modBell {ps : List Piece} (h : Hw) (f : Bell → Bell) (hp : Piece.bell ∈ ps) : Hw.onlyChanges ps h (h.modBell f) := by
  intro p hn; cases p <;> first | (exact absurd hp hn) | exact Eq.symm (by simp)

theorem Hw.only_modBoot {ps : List Piece} (h : Hw) (f : Boot → Boot) (hp : Piece.boot ∈ ps) : Hw.onlyChanges ps h (h.modBoot f) := by
  intro p hn; cases p <;> first | (exact absurd hp hn) | exact Eq.symm (by simp)

theorem Hw.only_modPower {ps : List Piece} (h : Hw) (f : Power → Power) (hp : Piece.power ∈ ps) : Hw.onlyChanges ps h (h.modPower f) := by
  intro p hn; cases p <;> first | (exact absurd hp hn) | exact Eq.symm (by simp)

theorem Hw.only_modClerk {ps : List Piece} (h : Hw) (f : Clerk → Clerk) (hp : Piece.clerk ∈ ps) : Hw.onlyChanges ps h (h.modClerk f) := by
  intro p hn; cases p <;> first | (exact absurd hp hn) | exact Eq.symm (by simp)

theorem Hw.only_modFab {ps : List Piece} (h : Hw) (f : Fab → Fab) (hp : Piece.fab ∈ ps) : Hw.onlyChanges ps h (h.modFab f) := by
  intro p hn; cases p <;> first | (exact absurd hp hn) | exact Eq.symm (by simp)

theorem Hw.only_modGrp {ps : List Piece} (h : Hw) (i : Nat) (f : Group → Group) (hp : Piece.repl ∈ ps) : Hw.onlyChanges ps h (h.modGrp i f) := by
  intro p hn; cases p <;> first | (exact absurd hp hn) | exact Eq.symm (by simp)

theorem Hw.only_modSite {ps : List Piece} (h : Hw) (k : Nat) (f : Site → Site) (hp : Piece.sites ∈ ps) : Hw.onlyChanges ps h (h.modSite k f) := by
  intro p hn; cases p <;> first | (exact absurd hp hn) | exact Eq.symm (by simp)

theorem Hw.only_modChute {ps : List Piece} (h : Hw) (c : Nat) (f : Chute → Chute) (hp : Piece.mill ∈ ps) : Hw.onlyChanges ps h (h.modChute c f) := by
  intro p hn; cases p <;> first | (exact absurd hp hn) | exact Eq.symm (by simp)

theorem Hw.only_event {ps : List Piece} (h : Hw) (type die unit : Nat) (ctx : Option Nat) (data : List (Nat × Nat × Nat)) (hp : Piece.chron ∈ ps) : Hw.onlyChanges ps h (h.event type die unit ctx data) := by
  intro p hn; cases p <;> first | (exact absurd hp hn) | exact Eq.symm (by simp)

theorem Hw.only_count {ps : List Piece} (h : Hw) (d set i n : Nat) (hp : Piece.regs ∈ ps) : Hw.onlyChanges ps h (h.count d set i n) := by
  intro p hn; cases p <;> first | (exact absurd hp hn) | exact Eq.symm (by simp)

theorem Hw.only_countHub {ps : List Piece} (h : Hw) (set i n : Nat) (hp : Piece.regs ∈ ps) : Hw.onlyChanges ps h (h.countHub set i n) := by
  intro p hn; cases p <;> first | (exact absurd hp hn) | exact Eq.symm (by simp)

theorem Hw.only_countTile {ps : List Piece} (h : Hw) (g set k n : Nat) (hp : Piece.regs ∈ ps) : Hw.onlyChanges ps h (h.countTile g set k n) := by
  intro p hn; cases p <;> first | (exact absurd hp hn) | exact Eq.symm (by simp)

theorem Hw.only_err {ps : List Piece} (h : Hw) (cls action source : Nat) (ctx addr : Option Nat) (detail : List (Nat × Nat × Nat))
    (hp : Piece.errOut ∈ ps) : Hw.onlyChanges ps h (h.err cls action source ctx addr detail) := h.only_send _ hp

/-- A completion entry formed, or not. -/
theorem Hw.only_compl {ps : List Piece} (h : Hw) (c : Prop) [Decidable c] (l : List Compl) (hp : Piece.compl ∈ ps) :
    Hw.onlyChanges ps h (if c then { h with compl := l } else h) := by
  split
  · intro p hn
    cases p <;> first | (exact absurd hp hn) | rfl
  · exact h.onlyChanges_refl ps

/-- The end of work on a tile. -/
theorem Hw.only_endWork {ps : List Piece} (h : Hw) (g status : Nat) (hp : ∀ p, p ∈ faultParts → p ∈ ps) :
    Hw.onlyChanges ps h (h.endWork g status) := by
  unfold Hw.endWork
  split
  · exact h.onlyChanges_refl ps
  · rename_i w _
    refine Hw.onlyChanges_trans ?_ (Hw.only_modRes _ _ _ (hp _ (by decide)))
    refine Hw.onlyChanges_trans ?_ (Hw.only_event _ _ _ _ _ _ (hp _ (by decide)))
    refine Hw.onlyChanges_trans ?_ (Hw.only_setWork _ _ _ (hp _ (by decide)))
    exact Hw.only_compl h (_ ∨ _) _ (hp _ (by decide))

/-- A stream's fault. -/
theorem Hw.only_faultWith {ps : List Piece} (h : Hw) (g s cause detail pc : Nat) (r : ErrRec) (hp : ∀ p, p ∈ faultParts → p ∈ ps) :
    Hw.onlyChanges ps h (h.faultWith g s cause detail pc r) := by
  unfold Hw.faultWith
  simp only
  split
  · split
    · exact Hw.only_send _ _ (hp _ (by decide))
    · exact Hw.onlyChanges_trans (Hw.only_send _ _ (hp _ (by decide))) (Hw.only_send _ _ (hp _ (by decide)))
  · have base : Hw.onlyChanges ps h (((h.send (h.blame (h.tileCtx g) r)).modTile g (fun t =>
        t.haltAll.modStream s (fun x => { x with st := .faulted, cause := cause, detail := detail, faultPc := pc }))).event
          0x02 (g / 10) (g % 10) (h.tileCtx g) [(16, 1, s), (17, 1, cause), (24, 8, pc)]) :=
      Hw.onlyChanges_trans (Hw.onlyChanges_trans (Hw.only_send _ _ (hp _ (by decide))) (Hw.only_modTile _ _ _ (hp _ (by decide))))
        (Hw.only_event _ _ _ _ _ _ (hp _ (by decide)))
    split
    · exact base
    · exact Hw.onlyChanges_trans (Hw.onlyChanges_trans base (Hw.only_endWork _ _ _ hp)) (Hw.only_modCtx _ _ _ (hp _ (by decide)))

theorem Hw.only_streamFault {ps : List Piece} (h : Hw) (g s cause detail pc : Nat) (hp : ∀ p, p ∈ faultParts → p ∈ ps) :
    Hw.onlyChanges ps h (h.streamFault g s cause detail pc) := Hw.only_faultWith _ _ _ _ _ _ _ hp

/-- The end of a command. -/
theorem Hw.only_endCmd {ps : List Piece} (h : Hw) (g s seq : Nat) (ht : Piece.tiles ∈ ps) (hr : Piece.regs ∈ ps) :
    Hw.onlyChanges ps h (h.endCmd g s seq) :=
  Hw.onlyChanges_trans (Hw.onlyChanges_trans (Hw.only_modTile _ _ _ ht) (Hw.only_modStream _ _ _ _ ht)) (Hw.only_countTile _ _ _ _ _ hr)

/-- A token signal. -/
theorem Hw.only_signal {ps : List Piece} (h : Hw) (src s pc g tok cnt : Nat) (hp : ∀ p, p ∈ faultParts → p ∈ ps) (hr : Piece.regs ∈ ps) :
    Hw.onlyChanges ps h (h.signal src s pc g tok cnt) := by
  have base : Hw.onlyChanges ps h ((h.modTile g (fun t => t.setToken tok (min ((h.tile g).token tok + cnt) 65535))).countTile src 1 19 1) :=
    Hw.onlyChanges_trans (Hw.only_modTile _ _ _ (hp _ (by decide))) (Hw.only_countTile _ _ _ _ _ hr)
  unfold Hw.signal
  simp only
  split
  · exact Hw.onlyChanges_trans base (Hw.only_streamFault _ _ _ _ _ _ hp)
  · exact base

/-- The issue of an instruction. -/
theorem Hw.only_issued {ps : List Piece} (h : Hw) (g s len : Nat) (ht : Piece.tiles ∈ ps) : Hw.onlyChanges ps h (h.issued g s len) :=
  Hw.onlyChanges_trans (Hw.only_modTile _ _ _ ht) (Hw.only_modStream _ _ _ _ ht)

/-- An instruction that issues, stalls or waits for its turn. -/
theorem Hw.only_issue {ps : List Piece} (h : Hw) (g s : Nat) (regs : List Nat) (k : Hw → Hw) (ht : Piece.tiles ∈ ps)
    (hk : Hw.onlyChanges ps h (k h)) : Hw.onlyChanges ps h (h.issue g s regs k) := by
  unfold Hw.issue
  split
  · exact hk
  · split
    · exact Hw.only_modStream _ _ _ _ ht
    · exact h.onlyChanges_refl ps

/-- The issue of a queued command: a fault, a stall or a place in the queue. -/
theorem Hw.only_queueCmd {ps : List Piece} (h : Hw) (g s : Nat) (regs : List Nat) (sy : Nat)
    (check : Stream → Except Nat (QOp × (Tile → Tile))) (hp : ∀ p, p ∈ faultParts → p ∈ ps) :
    Hw.onlyChanges ps h (h.queueCmd g s regs sy check) := by
  have ht : Piece.tiles ∈ ps := hp _ (by decide)
  refine Hw.only_issue _ _ _ _ _ ht ?_
  simp only
  split
  · exact Hw.only_streamFault _ _ _ _ _ _ hp
  · split
    · exact Hw.only_streamFault _ _ _ _ _ _ hp
    · split
      · exact Hw.only_modStream _ _ _ _ ht
      · exact Hw.onlyChanges_trans (Hw.only_modTile _ _ _ ht) (Hw.only_issued _ _ _ _ ht)

end Sys2Proof.Machine
end

