-- ==== Sys2Proof/Laws/Memory.lean ====
section
/-!
SUPPORT. Laws/Memory.lean: what an access to memory by the module's own units may change: `memoryParts`, and nothing else.
-/
namespace Sys2Proof.Machine
variable {ps : List Piece}

/-- A fold keeps a frame that each of its steps keeps. -/
theorem Hw.only_foldl {α : Type} (f : Hw → α → Hw) (hf : ∀ h x, Hw.onlyChanges ps h (f h x)) (l : List α) (h : Hw) :
    Hw.onlyChanges ps h (l.foldl f h) := by
  induction l generalizing h with
  | nil => exact h.onlyChanges_refl ps
  | cons x xs ih => exact Hw.onlyChanges_trans (hf h x) (ih _)

theorem Hw.only_ite {c : Prop} [Decidable c] {h a b : Hw} (ha : Hw.onlyChanges ps h a) (hb : Hw.onlyChanges ps h b) :
    Hw.onlyChanges ps h (if c then a else b) := by
  split <;> assumption

theorem Hw.only_markModel (h : Hw) (m : Nat) (hm : Piece.models ∈ ps) (hr : Piece.resid ∈ ps) : Hw.onlyChanges ps h (h.markModel m) := by
  unfold Hw.markModel
  split
  · exact h.onlyChanges_refl ps
  · intro p hn; cases p <;> first | (exact absurd hm hn) | (exact absurd hr hn) | rfl

theorem Hw.only_uncorrectable (h : Hw) (cls src : Nat) (c : Option Nat) (a : Nat) (detail : List (Nat × Nat × Nat)) (shard : Option Nat)
    (hm : Piece.models ∈ ps) (hr : Piece.resid ∈ ps) : Hw.onlyChanges ps h (h.uncorrectable cls src c a detail shard).2 := by
  unfold Hw.uncorrectable
  simp only
  split
  · exact Hw.only_markModel _ _ hm hr
  · exact h.onlyChanges_refl ps

theorem Hw.only_faultCtx (h : Hw) (c cls : Nat) (hc : Piece.ctxs ∈ ps) : Hw.onlyChanges ps h (h.faultCtx c cls) := Hw.only_modCtx _ _ _ hc

theorem Hw.only_faultCover (h : Hw) (a cls : Nat) (hc : Piece.ctxs ∈ ps) : Hw.onlyChanges ps h (h.faultCover a cls) :=
  Hw.only_foldl _ (fun h c => Hw.only_faultCtx h c cls hc) _ _

theorem Hw.only_coverFor (h : Hw) (r : ErrRec) (a : Nat) (hc : Piece.ctxs ∈ ps) : Hw.onlyChanges ps h (h.coverFor r a) :=
  Hw.only_ite (Hw.only_faultCover _ _ _ hc) (h.onlyChanges_refl ps)

section access
variable (hp : ∀ p, p ∈ memoryParts → p ∈ ps)
include hp

theorem hasMem : Piece.memS ∈ ps := hp _ (by decide)
theorem hasRegs : Piece.regs ∈ ps := hp _ (by decide)

theorem Hw.only_modSlice (h : Hw) (k : Nat) (f : Slice → Slice) : Hw.onlyChanges ps h (h.modSlice k f) := Hw.only_modMemS _ _ (hasMem hp)
theorem Hw.only_modStack (h : Hw) (k : Nat) (f : Stack → Stack) : Hw.onlyChanges ps h (h.modStack k f) := Hw.only_modMemS _ _ (hasMem hp)
theorem Hw.only_setLine (h : Hw) (k ln : Nat) (l : Option CellarLine) : Hw.onlyChanges ps h (h.setLine k ln l) :=
  Hw.only_modMemS _ _ (hasMem hp)
theorem Hw.only_setRoll (h : Hw) (key : Nat) (r : RollLine) : Hw.onlyChanges ps h (h.setRoll key r) := Hw.only_modMemS _ _ (hasMem hp)

theorem Hw.only_cellarMiss (h : Hw) (d k : Nat) : Hw.onlyChanges ps h (h.cellarMiss d k) :=
  Hw.onlyChanges_trans (Hw.onlyChanges_trans (Hw.only_bump _ _ _ _ _ (hasRegs hp)) (Hw.only_count _ _ _ _ _ (hasRegs hp)))
    (Hw.only_count _ _ _ _ _ (hasRegs hp))

theorem Hw.only_cellarHit (h : Hw) (d k : Nat) : Hw.onlyChanges ps h (h.cellarHit d k) :=
  Hw.onlyChanges_trans (Hw.onlyChanges_trans (Hw.only_bump _ _ _ _ _ (hasRegs hp)) (Hw.only_count _ _ _ _ _ (hasRegs hp)))
    (Hw.only_count _ _ _ _ _ (hasRegs hp))

theorem Hw.only_hbmFixed (h : Hw) (k n : Nat) : Hw.onlyChanges ps h (h.hbmFixed k n) :=
  Hw.only_ite (h.onlyChanges_refl ps) (Hw.onlyChanges_trans (Hw.only_bump _ _ _ _ _ (hasRegs hp)) (Hw.only_count _ _ _ _ _ (hasRegs hp)))

theorem Hw.only_dramWrite (h : Hw) (k ln o : Nat) (b : List Byte) : Hw.onlyChanges ps h (h.dramWrite k ln o b) :=
  Hw.onlyChanges_trans (Hw.only_count _ _ _ _ _ (hasRegs hp)) (Hw.only_modMem _ _ (hasMem hp))

theorem Hw.only_toDram (h : Hw) (k ln : Nat) (b : List Byte) : Hw.onlyChanges ps h (h.toDram k ln b) := Hw.only_dramWrite hp _ _ _ _ _

/-- A unit meets an uncorrectable error. -/
theorem Hw.only_unitBad (h : Hw) (cls src : Nat) (c : Option Nat) (a : Nat) (detail : List (Nat × Nat × Nat)) (shard : Option Nat) :
    Hw.onlyChanges ps h (h.unitBad cls src c a detail shard) := by
  have u := Hw.only_uncorrectable (ps := ps) h cls src c a detail shard (hp _ (by decide)) (hp _ (by decide))
  unfold Hw.unitBad
  generalize h.uncorrectable cls src c a detail shard = y at u ⊢
  obtain ⟨r, x⟩ := y
  refine Hw.onlyChanges_trans u (Hw.onlyChanges_trans (Hw.only_send x (x.blame c r) (hp _ (by decide))) ?_)
  refine Hw.onlyChanges_trans ?_ (Hw.only_coverFor _ _ _ (hp _ (by decide)))
  split
  · exact Hw.only_faultCtx _ _ _ (hp _ (by decide))
  · exact Hw.onlyChanges_refl ps _

/-- A stream meets one. -/
theorem Hw.only_streamUncorr (h : Hw) (g s pc cls src a : Nat) (detail : List (Nat × Nat × Nat)) (shard : Option Nat) :
    Hw.onlyChanges ps h (h.streamUncorr g s pc cls src a detail shard) :=
  Hw.onlyChanges_trans (Hw.onlyChanges_trans
    (Hw.only_uncorrectable (ps := ps) h cls src (h.tileCtx g) a detail shard (hp _ (by decide)) (hp _ (by decide)))
    (Hw.only_faultWith _ _ _ _ _ _ _ (fun p hm => hp p (List.mem_append_left _ hm)))) (Hw.only_coverFor _ _ _ (hp _ (by decide)))

theorem Hw.only_keepCopies (h : Hw) (key : Nat) (b : List Byte) : Hw.onlyChanges ps h (h.keepCopies key b) := by
  unfold Hw.keepCopies
  simp only
  split
  · exact h.onlyChanges_refl ps
  · exact Hw.only_setRoll hp _ _ _

theorem Hw.only_dropBad (h : Hw) (k ln : Nat) (d : List Byte) : Hw.onlyChanges ps h (h.dropBad k ln d) :=
  Hw.onlyChanges_trans (Hw.onlyChanges_trans (Hw.only_keepCopies hp _ _ _) (Hw.only_setLine hp _ _ _ _)) (Hw.only_bump _ _ _ _ _ (hasRegs hp))

theorem Hw.only_cellarLost (h : Hw) (k ln : Nat) : Hw.onlyChanges ps h (h.cellarLost k ln) :=
   Hw.onlyChanges_trans (Hw.only_dropBad hp _ _ _ _) (Hw.only_unitBad hp _ _ _ _ _ _ _)

theorem Hw.only_evict (h : Hw) (k ln : Nat) : Hw.onlyChanges ps h (h.evict k ln) := by
  unfold Hw.evict
  split
  · exact h.onlyChanges_refl ps
  · split
    · exact Hw.only_cellarLost hp _ _ _
    · exact Hw.onlyChanges_trans (Hw.only_ite (Hw.only_toDram hp _ _ _ _) (h.onlyChanges_refl ps)) (Hw.only_setLine hp _ _ _ _)

theorem Hw.only_makeRoom (h h' : Hw) (k ln : Nat) (keep : Bool) (e : h.makeRoom k ln keep = some h') : Hw.onlyChanges ps h h' := by
  have lru : ∀ l : List (Nat × CellarLine), (lruOf l).map (fun e => h.evict k e.1) = some h' → Hw.onlyChanges ps h h' := by
    intro l hl
    obtain ⟨x, -, rfl⟩ := Option.map_eq_some_iff.mp hl
    exact Hw.only_evict hp _ _ _
  unfold Hw.makeRoom at e
  simp only at e
  split at e
  · exact lru _ e
  · split at e
    · exact (Option.some.inj e) ▸ h.onlyChanges_refl ps
    · split at e
      · rename_i he
        exact lru _ (he.trans e)
      · split at e
        · exact lru _ e
        · cases e

theorem Hw.only_alloc (h : Hw) (k ln : Nat) (keep dirty : Bool) (b : List Byte) : Hw.onlyChanges ps h (h.alloc k ln keep dirty b) := by
  unfold Hw.alloc
  split
  · exact Hw.only_ite (Hw.only_toDram hp _ _ _ _) (h.onlyChanges_refl ps)
  · rename_i h' e
    exact Hw.onlyChanges_trans (Hw.only_makeRoom hp _ _ _ _ _ e) (Hw.onlyChanges_trans (Hw.only_modSlice hp _ _ _) (Hw.only_setLine hp _ _ _ _))

theorem Hw.only_dramRead (h : Hw) (hint d k ln o n : Nat) : Hw.onlyChanges ps h (h.dramRead hint d k ln o n).2 := by
  have a := Hw.only_cellarMiss hp h d k
  unfold Hw.dramRead
  simp only
  split
  · exact Hw.onlyChanges_trans a (Hw.only_bump _ _ _ _ _ (hasRegs hp))
  · have m : ∀ (x : Hw) (c n j : Nat) (f : Mem → Mem), Hw.onlyChanges ps x (((x.count d 0 c n).hbmFixed k j).modMem f) := fun x c n j f =>
      Hw.onlyChanges_trans (Hw.onlyChanges_trans (Hw.only_count _ _ _ _ _ (hasRegs hp)) (Hw.only_hbmFixed hp _ _ _)) (Hw.only_modMem _ _ (hasMem hp))
    exact Hw.onlyChanges_trans a (Hw.only_ite (Hw.onlyChanges_trans (m _ _ _ _ _) (Hw.only_alloc hp _ _ _ _ _ _)) (m _ _ _ _ _))

theorem Hw.only_cellarFix (h : Hw) (k ln : Nat) (l : CellarLine) : Hw.onlyChanges ps h (h.cellarFix k ln l) :=
  Hw.only_ite (Hw.onlyChanges_trans (Hw.onlyChanges_trans (Hw.only_setLine hp _ _ _ _) (Hw.only_bump _ _ _ _ _ (hasRegs hp)))
    (Hw.only_count _ _ _ _ _ (hasRegs hp))) (h.onlyChanges_refl ps)

theorem Hw.only_cellarRead (h : Hw) (hint d a n : Nat) : Hw.onlyChanges ps h (h.cellarRead hint d a n).2 := by
  unfold Hw.cellarRead
  simp only
  split
  · exact Hw.only_dramRead hp _ _ _ _ _ _ _
  · split
    · split
      · exact Hw.only_dropBad hp _ _ _ _
      · exact Hw.onlyChanges_trans (Hw.onlyChanges_trans (Hw.only_setLine hp _ _ _ _) (Hw.only_bump _ _ _ _ _ (hasRegs hp)))
          (Hw.only_dramRead hp _ _ _ _ _ _ _)
    · rename_i l _ _
      have c := Hw.onlyChanges_trans (Hw.only_cellarHit hp h d (stackOf d a)) (Hw.only_cellarFix hp _ (stackOf d a) (lineInStack a) l)
      split
      · exact Hw.onlyChanges_trans c (Hw.onlyChanges_trans (Hw.only_modSlice hp _ _ _) (Hw.only_setLine hp _ _ _ _))
      · split
        · exact Hw.onlyChanges_trans c (Hw.only_evict hp _ _ _)
        · exact c

theorem Hw.only_cellarPast (h : Hw) (hint : Nat) (thru : Bool) (k ln o : Nat) (b : List Byte) :
    Hw.onlyChanges ps h (h.cellarPast hint thru k ln o b) := Hw.only_ite (Hw.only_alloc hp _ _ _ _ _ _) (Hw.only_dramWrite hp _ _ _ _ _)

theorem Hw.only_cellarIn (h : Hw) (hint : Nat) (thru : Bool) (k ln o : Nat) (l : CellarLine) (b : List Byte) :
    Hw.onlyChanges ps h (h.cellarIn hint thru k ln o l b) :=
  Hw.only_ite (Hw.onlyChanges_trans (Hw.only_ite (Hw.only_toDram hp _ _ _ _) (Hw.only_dramWrite hp _ _ _ _ _)) (Hw.only_setLine hp _ _ _ _))
    (Hw.only_ite (Hw.onlyChanges_trans (Hw.only_setLine hp _ _ _ _) (Hw.only_evict hp _ _ _)) (Hw.only_setLine hp _ _ _ _))

theorem Hw.only_cellarWrite (h : Hw) (hint : Nat) (thru : Bool) (d a : Nat) (b : List Byte) :
    Hw.onlyChanges ps h (h.cellarWrite hint thru d a b) := by
  unfold Hw.cellarWrite
  simp only
  split
  · exact Hw.onlyChanges_trans (Hw.only_cellarMiss hp _ _ _) (Hw.only_cellarPast hp _ _ _ _ _ _ _)
  · refine Hw.onlyChanges_trans (Hw.only_cellarHit hp h d (stackOf d a)) ?_
    split
    · exact Hw.onlyChanges_trans (Hw.onlyChanges_trans (Hw.only_setLine hp _ _ _ _) (Hw.only_bump _ _ _ _ _ (hasRegs hp)))
        (Hw.only_dramWrite hp _ _ _ _ _)
    · split
      · exact Hw.onlyChanges_trans (Hw.only_cellarLost hp _ _ _) (Hw.only_dramWrite hp _ _ _ _ _)
      · exact Hw.only_cellarIn hp _ _ _ _ _ _ _ _

theorem Hw.only_ddrRead (h : Hw) (j a n : Nat) : Hw.onlyChanges ps h (h.ddrRead j a n).2 := by
  unfold Hw.ddrRead
  simp only
  split
  · exact Hw.onlyChanges_trans (Hw.only_countHub _ _ _ _ (hasRegs hp)) (Hw.only_bump _ _ _ _ _ (hasRegs hp))
  · exact Hw.onlyChanges_trans (Hw.only_countHub h 0 (128 + ddrChan j) n (hasRegs hp)) (Hw.only_ite (Hw.onlyChanges_refl ps _)
      (Hw.onlyChanges_trans (Hw.only_bump _ _ _ _ _ (hasRegs hp)) (Hw.only_modMem _ _ (hasMem hp))))

theorem Hw.only_homeRead (id : Ident) (h : Hw) (hint a n : Nat) : Hw.onlyChanges ps h (h.homeRead id hint a n).2 := by
  unfold Hw.homeRead
  split
  · exact Hw.only_cellarRead hp _ _ _ _ _
  · exact Hw.only_ddrRead hp _ _ _ _
  · exact h.onlyChanges_refl ps

theorem Hw.only_homeWrite (id : Ident) (h : Hw) (hint : Nat) (thru : Bool) (a : Nat) (b : List Byte) :
    Hw.onlyChanges ps h (h.homeWrite id hint thru a b) := by
  unfold Hw.homeWrite
  split
  · exact Hw.only_cellarWrite hp _ _ _ _ _ _
  · exact Hw.onlyChanges_trans (Hw.only_countHub _ _ _ _ (hasRegs hp)) (Hw.only_modMem _ _ (hasMem hp))
  · exact h.onlyChanges_refl ps

theorem Hw.only_stackReq (id : Ident) (h : Hw) (a n : Nat) : Hw.onlyChanges ps h (h.stackReq id a n) := by
  unfold Hw.stackReq
  split
  · exact Hw.only_count _ _ _ _ _ (hasRegs hp)
  · exact h.onlyChanges_refl ps

theorem Hw.only_cacheLost (h : Hw) (agent a : Nat) : Hw.onlyChanges ps h (h.cacheLost agent a) :=
  Hw.onlyChanges_trans (Hw.onlyChanges_trans
    (Hw.only_uncorrectable (ps := ps) h 0x05 (h.agentSrc agent) none a [] none (hp _ (by decide)) (hp _ (by decide)))
    (Hw.only_send _ _ (hp _ (by decide)))) (Hw.only_coverFor _ _ _ (hp _ (by decide)))

theorem Hw.only_writeBackLine (id : Ident) (h : Hw) (key : Nat) : Hw.onlyChanges ps h (h.writeBackLine id key) := by
  unfold Hw.writeBackLine
  simp only
  split
  · exact h.onlyChanges_refl ps
  split
  · exact Hw.onlyChanges_trans (Hw.only_cacheLost hp _ _ _) (Hw.only_setRoll hp _ _ _)
  · exact Hw.onlyChanges_trans (Hw.onlyChanges_trans (Hw.only_stackReq hp _ _ _ _) (Hw.only_homeWrite hp _ _ _ _ _ _)) (Hw.only_setRoll hp _ _ _)

theorem Hw.only_snooped (h : Hw) (line n : Nat) : Hw.onlyChanges ps h (h.snooped line n) :=
  Hw.only_ite (h.onlyChanges_refl ps) (Hw.only_countHub _ _ _ _ (hasRegs hp))
theorem Hw.only_crierFwd (h : Hw) (line : Nat) : Hw.onlyChanges ps h (h.crierFwd line) :=
  Hw.onlyChanges_trans (Hw.only_bump _ _ _ _ _ (hasRegs hp)) (Hw.only_countHub _ _ _ _ (hasRegs hp))
theorem Hw.only_homeAnswer (h : Hw) (line : Nat) : Hw.onlyChanges ps h (h.homeAnswer line) :=
  Hw.onlyChanges_trans (Hw.only_bump _ _ _ _ _ (hasRegs hp)) (Hw.only_countHub _ _ _ _ (hasRegs hp))

theorem Hw.only_rollLost (id : Ident) (h : Hw) (line : Nat) : Hw.onlyChanges ps h (h.rollLost id line) :=
  Hw.onlyChanges_trans (Hw.onlyChanges_trans (Hw.onlyChanges_trans (Hw.only_writeBackLine hp id h line) (Hw.only_setRoll hp _ _ _))
    (Hw.only_snooped hp _ _ _)) (Hw.only_err _ _ _ _ _ _ _ (hp _ (by decide)))

theorem Hw.only_readRoll (id : Ident) (h : Hw) (lines : List Nat) : Hw.onlyChanges ps h (h.readRoll id lines) :=
  Hw.only_foldl _ (fun h l => Hw.only_rollLost hp id h l) _ _

end access

/-! ## Open transactions -/

section transactions
variable (hp : ∀ p, p ∈ memoryParts → p ∈ ps) (hr : Piece.resp ∈ ps)
include hp

theorem Hw.only_toShared (h : Hw) (a line : Nat) : Hw.onlyChanges ps h (h.toShared a line) := Hw.only_setRoll hp _ _ _

theorem Hw.only_answer (id : Ident) (h : Hw) (t : Txn) (a line : Nat) : Hw.onlyChanges ps h (h.answer id t a line).2 := by
  unfold Hw.answer
  simp only
  split
  · exact h.onlyChanges_refl ps
  · rename_i s _
    split
    · exact h.onlyChanges_refl ps
    have c : ∀ b : Bool, Hw.onlyChanges ps h (if b = true then h.crierFwd line else h) :=
      fun b => Hw.only_ite (Hw.only_crierFwd hp _ _) (h.onlyChanges_refl ps)
    refine Hw.onlyChanges_trans (c (decide (s = .cri) && t.crier && (decide (t.kind = 0) || decide (t.kind = 1) || decide (t.kind = 6)))) ?_
    generalize (if (decide (s = LineSt.cri) && t.crier && (decide (t.kind = 0) || decide (t.kind = 1) || decide (t.kind = 6))) = true
      then h.crierFwd line else h) = x
    have w : ∀ x : Hw, Hw.onlyChanges ps x (x.writeBackLine id line) := fun x => Hw.only_writeBackLine hp _ _ _
    have r : ∀ (x : Hw) (l : RollLine), Hw.onlyChanges ps x (x.setRoll line l) := fun x l => Hw.only_setRoll hp _ _ _
    have e : ∀ x : Hw, Hw.onlyChanges ps x x := fun x => x.onlyChanges_refl ps
    split
    · exact Hw.onlyChanges_trans (Hw.only_ite (w _) (e _)) (Hw.only_toShared hp _ _ _)
    · exact r _ _
    · exact Hw.onlyChanges_trans (Hw.only_ite (w _) (e _)) (Hw.only_ite (Hw.only_toShared hp _ _ _) (e _))
    · exact Hw.onlyChanges_trans (Hw.only_ite (w _) (e _)) (r _ _)
    · exact r _ _
    · exact Hw.onlyChanges_trans (Hw.only_ite (w _) (e _)) (r _ _)

theorem Hw.only_lineData (id : Ident) (h : Hw) (t : Txn) (hint line n : Nat) : Hw.onlyChanges ps h (h.lineData id t hint line n).2 := by
  unfold Hw.lineData
  split
  · exact h.onlyChanges_refl ps
  split
  · exact h.onlyChanges_refl ps
  · exact Hw.onlyChanges_trans (Hw.only_homeAnswer hp _ _) (Hw.only_homeRead hp _ _ _ _ _)

theorem Hw.only_install (id : Ident) (h : Hw) (agent line : Nat) (s : LineSt) (d : List Byte) : Hw.onlyChanges ps h (h.install id agent line s d) :=
  Hw.onlyChanges_trans (Hw.only_setRoll hp _ _ _) (Hw.only_modMemS _ _ (hasMem hp))

theorem Hw.only_dropResv (h : Hw) (op : CacheOp) (line : Nat) : Hw.onlyChanges ps h (h.dropResv op line) := by
  unfold Hw.dropResv
  simp only
  split
  · exact Hw.only_modMemS _ _ (hasMem hp)
  · exact Hw.only_modMemS _ _ (hasMem hp)
  · exact h.onlyChanges_refl ps

theorem only_ncCollect (id : Ident) (t : Txn) (l : List (Nat × Nat)) (h : Hw) : Hw.onlyChanges ps h (ncCollect id t l h).2 := by
  induction l generalizing h with
  | nil => exact h.onlyChanges_refl ps
  | cons c cs ih =>
    obtain ⟨a, n⟩ := c
    have one := Hw.only_lineData hp id h t (ncHint t.agent t.op false) a n
    unfold ncCollect
    split
    · rename_i b h₁ e
      rw [e] at one
      have rest := ih h₁
      split
      · rename_i b' h₂ e'
        rw [e'] at rest
        exact Hw.onlyChanges_trans one rest
      · exact Hw.onlyChanges_trans one rest
    · exact one

theorem Hw.only_cacheClean (h : Hw) (agent a n : Nat) : Hw.onlyChanges ps h (h.cacheClean agent a n) := Hw.only_modMemS _ _ (hasMem hp)

theorem Hw.only_opCleans (h : Hw) (agent key : Nat) (op : CacheOp) : Hw.onlyChanges ps h (h.opCleans agent key op) := by
  unfold Hw.opCleans
  split
  · exact Hw.only_modMemS _ _ (hasMem hp)
  · exact h.onlyChanges_refl ps

theorem Hw.only_homeAtomic (id : Ident) (h : Hw) (hint : Nat) (thru : Bool) (key size op : Nat) (opnd : List Byte) :
    Hw.onlyChanges ps h (h.homeAtomic id hint thru key size op opnd).2 := by
  have d := Hw.onlyChanges_trans (Hw.only_stackReq hp id h key size) (Hw.only_homeRead hp id (h.stackReq id key size) hint key size)
  unfold Hw.homeAtomic
  split
  · rename_i e; rw [e] at d
    exact Hw.onlyChanges_trans d (Hw.only_homeWrite hp _ _ _ _ _ _)
  · exact d

include hr

theorem Hw.only_performOp (h : Hw) (key : Nat) (op : CacheOp) (d : List Byte) : Hw.onlyChanges ps h (h.performOp key op d) :=
  Hw.onlyChanges_trans (Hw.onlyChanges_trans (Hw.only_dropResv hp _ _ _) (Hw.only_setRoll hp _ _ _)) (Hw.only_respond _ _ hr)

theorem Hw.only_agentBad (h : Hw) (agent cls a : Nat) : Hw.onlyChanges ps h (h.agentBad agent cls a) := by
  unfold Hw.agentBad
  refine Hw.onlyChanges_trans ?_ (Hw.only_respond _ _ hr)
  generalize (if agent < 0x50 then h.coreStream agent else none) = o
  cases o
  · exact Hw.only_unitBad hp _ _ _ _ _ _ _
  · exact Hw.only_streamUncorr hp _ _ _ _ _ _ _ _ _

theorem Hw.only_agentFault (h : Hw) (agent kind a : Nat) : Hw.onlyChanges ps h (h.agentFault agent kind a) := by
  unfold Hw.agentFault
  refine Hw.onlyChanges_trans ?_ (Hw.only_respond _ _ hr)
  generalize (if agent < 0x50 then h.coreStream agent else none) = o
  cases o
  · exact Hw.only_err _ _ _ _ _ _ _ (hp _ (by decide))
  · exact Hw.only_faultWith _ _ _ _ _ _ _ (fun p hm => hp p (List.mem_append_left _ hm))

theorem Hw.only_finish (id : Ident) (h : Hw) (t : Txn) : Hw.onlyChanges ps h (h.finish id t) := by
  have req : ∀ (x : Hw) (a n : Nat), Hw.onlyChanges ps x (x.stackReq id a n) := fun x a n => Hw.only_stackReq hp _ _ _ _
  have resp : ∀ (x : Hw) (r : Resp), Hw.onlyChanges ps x (x.respond r) := fun x r => Hw.only_respond _ _ hr
  have roll : ∀ (x : Hw) (k : Nat) (l : RollLine), Hw.onlyChanges ps x (x.setRoll k l) := fun x k l => Hw.only_setRoll hp _ _ _
  have fill : ∀ (x : Hw) (ag l : Nat) (s : LineSt) (d : List Byte), Hw.onlyChanges ps x ((x.cacheClean ag l 64).install id ag l s d) :=
    fun x ag l s d => Hw.onlyChanges_trans (Hw.only_cacheClean hp _ _ _ _) (Hw.only_install hp _ _ _ _ _ _)
  unfold Hw.finish
  simp only
  split
  · have d := Hw.onlyChanges_trans (req h (lineAt t.key) 64)
      (Hw.only_lineData hp id (h.stackReq id (lineAt t.key) 64) t (h.lineHint id (lineAt t.key)) (lineAt t.key) 64)
    split
    · rename_i e; rw [e] at d
      exact Hw.onlyChanges_trans d (Hw.onlyChanges_trans (Hw.onlyChanges_trans (roll _ _ _) (fill _ _ _ _ _)) (resp _ _))
    · rename_i e; rw [e] at d
      exact Hw.onlyChanges_trans d (Hw.only_agentFault hp hr _ _ _ _)
    · rename_i e; rw [e] at d
      exact Hw.onlyChanges_trans d (Hw.only_agentBad hp hr _ _ _ _)
  · have d := Hw.onlyChanges_trans (req h (lineAt t.key) 64)
      (Hw.only_lineData hp id (h.stackReq id (lineAt t.key) 64) t (h.lineHint id (lineAt t.key)) (lineAt t.key) 64)
    split
    · rename_i e; rw [e] at d
      refine Hw.onlyChanges_trans d (Hw.only_ite (Hw.onlyChanges_trans ?_ (resp _ _)) ?_)
      · exact Hw.onlyChanges_trans (fill _ _ _ _ _) (Hw.only_performOp hp hr _ _ _ _)
      · exact Hw.onlyChanges_trans (fill _ _ _ _ _) (Hw.only_performOp hp hr _ _ _ _)
    · rename_i e; rw [e] at d
      exact Hw.onlyChanges_trans d (Hw.only_agentFault hp hr _ _ _ _)
    · rename_i e; rw [e] at d
      exact Hw.onlyChanges_trans d (Hw.only_agentBad hp hr _ _ _ _)
  · refine Hw.onlyChanges_trans (Hw.only_install hp id h t.agent (lineAt t.key) .mod (h.copyOf id t.agent (lineAt t.key))) ?_
    split
    · exact Hw.only_agentBad hp hr _ _ _ _
    · exact Hw.onlyChanges_trans (Hw.only_opCleans hp _ _ _ _) (Hw.only_performOp hp hr _ _ _ _)
  · exact Hw.only_ite (Hw.onlyChanges_trans (Hw.onlyChanges_trans (Hw.only_writeBackLine hp _ _ _) (roll _ _ _)) (resp _ _)) (resp _ _)
  · split
    · exact Hw.onlyChanges_trans (roll _ _ _) (resp _ _)
    · exact Hw.onlyChanges_trans (roll _ _ _) (resp _ _)
    · exact resp _ _
  · split
    · exact Hw.onlyChanges_trans (Hw.onlyChanges_trans (Hw.only_modMemS _ _ (hasMem hp)) (roll _ _ _)) (resp _ _)
    · exact resp _ _
  · have d := Hw.onlyChanges_trans (req h t.key t.len) (only_ncCollect hp id t (cutsOf t.key t.len) (h.stackReq id t.key t.len))
    split
    · rename_i e; rw [e] at d
      exact Hw.onlyChanges_trans d (resp _ _)
    · rename_i e; rw [e] at d
      exact Hw.onlyChanges_trans d (Hw.only_agentFault hp hr _ _ _ _)
    · rename_i e; rw [e] at d
      exact Hw.onlyChanges_trans d (Hw.only_agentBad hp hr _ _ _ _)
  · refine Hw.onlyChanges_trans ?_ (resp _ _)
    have : ∀ (l : List (Nat × Nat)) (x : Hw × List Byte), Hw.onlyChanges ps x.1 (l.foldl (fun (x : Hw × List Byte) c =>
        ((x.1.setRoll (lineAt c.1) RollLine.init).homeWrite id (ncHint t.agent t.op true) (t.agent % 4 == 1) c.1 (x.2.take c.2), x.2.drop c.2)) x).1 := by
      intro l
      induction l with
      | nil => intro x; exact Hw.onlyChanges_refl ps _
      | cons c cs ih =>
        intro x
        rw [List.foldl_cons]
        exact Hw.onlyChanges_trans (Hw.onlyChanges_trans (roll x.1 (lineAt c.1) .init) (Hw.only_homeWrite hp id _ (ncHint t.agent t.op true)
          (t.agent % 4 == 1) c.1 (x.2.take c.2))) (ih (_, _))
    exact Hw.onlyChanges_trans (req h t.key t.len) (this _ (_, _))
  · have d := Hw.only_homeAtomic hp id h (if 2 ≤ t.agent % 4 then ncHint t.agent 0 true else h.lineHint id (lineAt t.key)) (t.agent % 4 == 1)
      t.key t.len t.op t.data
    split
    · rename_i e; rw [e] at d
      exact Hw.onlyChanges_trans d (resp _ _)
    · rename_i e; rw [e] at d
      exact Hw.onlyChanges_trans d (Hw.only_agentFault hp hr _ _ _ _)
    · rename_i e; rw [e] at d
      exact Hw.onlyChanges_trans d (Hw.only_agentBad hp hr _ _ _ _)
  · exact roll _ _ _

theorem Hw.only_conclude (id : Ident) (h : Hw) (t : Txn) : Hw.onlyChanges ps h (h.conclude id t) := by
  unfold Hw.conclude
  refine Hw.onlyChanges_trans (Hw.only_finish hp hr id h t) ?_
  simp only
  split
  · exact Hw.onlyChanges_refl ps _
  · intro p hn
    have : Piece.out ∈ ps := hp _ (by decide)
    cases p <;> first | (exact absurd this hn) | rfl

theorem Hw.only_order (id : Ident) (h : Hw) (t : Txn) : Hw.onlyChanges ps h (h.order id t) := by
  have mm : ∀ (x : Hw) (f : MemSide → MemSide), Hw.onlyChanges ps x (x.modMemS f) := fun x f => Hw.only_modMemS _ _ (hasMem hp)
  unfold Hw.order
  simp only
  split
  · exact mm _ _
  · refine Hw.onlyChanges_trans (Hw.only_readRoll hp id h t.lines) ?_
    split
    · split
      · exact mm _ _
      · split
        · exact mm _ _
        · exact Hw.onlyChanges_trans (Hw.onlyChanges_trans (Hw.onlyChanges_trans (Hw.only_bump _ _ _ _ _ (hasRegs hp)) (Hw.only_snooped hp _ _ _)) (mm _ _))
            (mm _ _)
    · have c : ∀ (x : Hw) (i n k m : Nat), Hw.onlyChanges ps x ((x.countHub 0 i n).snooped k m) := fun x i n k m =>
        Hw.onlyChanges_trans (Hw.only_countHub _ _ _ _ (hasRegs hp)) (Hw.only_snooped hp _ _ _)
      exact Hw.only_ite (Hw.onlyChanges_trans (c _ _ _ _ _) (Hw.only_conclude hp hr _ _ _)) (Hw.onlyChanges_trans (c _ _ _ _ _) (mm _ _))

theorem Hw.only_drainWaits (id : Ident) (h : Hw) : Hw.onlyChanges ps h (h.drainWaits id) :=
  Hw.onlyChanges_trans (Hw.only_modMemS _ _ (hasMem hp)) (Hw.only_foldl _ (fun h t => Hw.only_order hp hr id h t) _ _)

theorem Hw.only_release (id : Ident) (h : Hw) (t : Txn) : Hw.onlyChanges ps h (h.release id t) := by
  have snoops : ∀ (l : List (Nat × Nat)) (x : Txn × Hw), Hw.onlyChanges ps x.2 (l.foldl (fun (x : Txn × Hw) s => x.2.answer id x.1 s.1 s.2) x).2 := by
    intro l
    induction l with
    | nil => intro x; exact Hw.onlyChanges_refl ps _
    | cons c cs ih => intro x; exact Hw.onlyChanges_trans (Hw.only_answer hp id x.2 x.1 c.1 c.2) (ih _)
  unfold Hw.release
  refine Hw.onlyChanges_trans ?_ (Hw.only_drainWaits hp hr _ _)
  refine Hw.onlyChanges_trans ?_ (Hw.only_conclude hp hr _ _ _)
  exact Hw.onlyChanges_trans (Hw.only_modMemS h (fun m => { m with open_ := m.open_.filter (· != t) }) (hasMem hp)) (snoops t.snoops (t, _))

theorem only_settleLoop (id : Ident) (line n : Nat) (h : Hw) : Hw.onlyChanges ps h (settleLoop id line n h) := by
  induction n generalizing h with
  | zero => exact h.onlyChanges_refl ps
  | succ n ih =>
    unfold settleLoop
    split
    · exact Hw.onlyChanges_trans (Hw.only_release hp hr _ _ _) (ih _)
    · split
      · split
        · exact Hw.onlyChanges_trans (Hw.only_release hp hr _ _ _) (ih _)
        · exact h.onlyChanges_refl ps
      · exact h.onlyChanges_refl ps

end transactions

/-! ## Whole accesses -/

section whole
variable (hp : ∀ p, p ∈ memoryParts → p ∈ ps)
include hp

/-- A claim of a line keeps what the agent was last answered. -/
theorem Hw.only_claim (id : Ident) (h : Hw) (line : Nat) : Hw.onlyChanges ps h (h.claim id line) := by
  have wide : Hw.onlyChanges (.resp :: ps) h (h.claim id line) := by
    have hp' : ∀ p, p ∈ memoryParts → p ∈ Piece.resp :: ps := fun p hm => List.mem_cons_of_mem _ (hp p hm)
    have hr : Piece.resp ∈ Piece.resp :: ps := List.mem_cons_self
    exact Hw.onlyChanges_trans (Hw.onlyChanges_trans (only_settleLoop hp' hr id line _ h) (Hw.only_readRoll hp' _ _ _)) (Hw.only_respond _ _ hr)
  intro p hn
  by_cases e : p = .resp
  · subst e; rfl
  · exact wide p (by simp [e, hn])

theorem Hw.only_ncReadLine (id : Ident) (h : Hw) (hint key n : Nat) : Hw.onlyChanges ps h (h.ncReadLine id hint key n).2 := by
  have c := Hw.only_claim hp id h (lineAt key)
  unfold Hw.ncReadLine
  simp only
  split
  · rename_i e _
    have f : ∀ x : Hw, Hw.onlyChanges ps x (if e.2 = .cri then x.crierFwd (lineAt key) else x) :=
      fun x => Hw.only_ite (Hw.only_crierFwd hp _ _) (x.onlyChanges_refl ps)
    have b := Hw.onlyChanges_trans c (Hw.only_snooped hp _ (lineAt key) 1)
    split
    · exact b
    · exact Hw.onlyChanges_trans (Hw.onlyChanges_trans b (f _))
        (Hw.only_ite (Hw.onlyChanges_trans (Hw.only_writeBackLine hp _ _ _) (Hw.only_toShared hp _ _ _)) (Hw.onlyChanges_refl ps _))
  · exact Hw.onlyChanges_trans c (Hw.onlyChanges_trans (Hw.only_homeAnswer hp _ _) (Hw.only_homeRead hp _ _ _ _ _))

theorem Hw.only_ncWriteLine (id : Ident) (h : Hw) (hint : Nat) (thru : Bool) (key : Nat) (b : List Byte) :
    Hw.onlyChanges ps h (h.ncWriteLine id hint thru key b) :=
  Hw.onlyChanges_trans (Hw.onlyChanges_trans (Hw.onlyChanges_trans (Hw.onlyChanges_trans (Hw.only_claim hp id h (lineAt key)) (Hw.only_snooped hp _ _ _))
    (Hw.only_ite (Hw.onlyChanges_refl ps _) (Hw.only_writeBackLine hp _ _ _))) (Hw.only_setRoll hp _ _ _)) (Hw.only_homeWrite hp _ _ _ _ _ _)

theorem Hw.only_ordered (id : Ident) (h : Hw) (a n : Nat) : Hw.onlyChanges ps h (h.ordered id a n) :=
  Hw.only_foldl _ (fun h _ => Hw.only_ite (Hw.onlyChanges_trans (Hw.only_countHub _ _ _ _ (hasRegs hp)) (Hw.only_stackReq hp _ _ _ _))
    (h.onlyChanges_refl ps)) _ _

theorem only_ncReadCuts (id : Ident) (hint : Nat) (l : List (Nat × Nat)) (h : Hw) : Hw.onlyChanges ps h (ncReadCuts id hint l h).2 := by
  induction l generalizing h with
  | nil => exact h.onlyChanges_refl ps
  | cons c cs ih =>
    obtain ⟨a, n⟩ := c
    have one := Hw.only_ncReadLine hp id h hint (keyOf a) n
    unfold ncReadCuts
    split
    · exact h.onlyChanges_refl ps
    · split
      · rename_i b h₁ e
        rw [e] at one
        have rest := ih h₁
        split
        · rename_i b' h₂ e'
          rw [e'] at rest
          exact Hw.onlyChanges_trans one rest
        · exact Hw.onlyChanges_trans one rest
      · exact one

theorem only_ncWriteCuts (id : Ident) (hint : Nat) (thru : Bool) (l : List (Nat × Nat)) (b : List Byte) (h : Hw) :
    Hw.onlyChanges ps h (ncWriteCuts id hint thru l b h).2 := by
  induction l generalizing h b with
  | nil => exact h.onlyChanges_refl ps
  | cons c cs ih =>
    obtain ⟨a, n⟩ := c
    unfold ncWriteCuts
    split
    · exact h.onlyChanges_refl ps
    · exact Hw.onlyChanges_trans (Hw.only_ncWriteLine hp _ _ _ _ _ _) (ih _ _)

theorem Hw.only_guardTag (g off n : Nat) (h : Hw) (i : Nat) : Hw.onlyChanges ps h (guardTag g off n h i) := by
  unfold guardTag
  simp only
  split
  · exact Hw.onlyChanges_trans (Hw.only_setRegF _ _ _ _ _ (hasRegs hp)) (Hw.only_bump _ _ _ _ _ (hasRegs hp))
  · exact h.onlyChanges_refl ps

theorem Hw.only_granGrants (h : Hw) (g off n : Nat) : Hw.onlyChanges ps h (h.granGrants g off n) := by
  unfold Hw.granGrants
  split
  · exact h.onlyChanges_refl ps
  · exact Hw.only_countTile _ _ _ _ _ (hasRegs hp)

theorem Hw.only_granWrite (h : Hw) (g off : Nat) (b : List Byte) : Hw.onlyChanges ps h (h.granWrite g off b) := by
  unfold Hw.granWrite
  split
  · exact h.onlyChanges_refl ps
  · exact Hw.onlyChanges_trans (Hw.onlyChanges_trans (Hw.only_modMem _ _ (hasMem hp)) (Hw.only_granGrants hp _ _ _ _))
      (Hw.only_foldl _ (fun h i => Hw.only_guardTag hp _ _ _ h i) _ _)

theorem Hw.only_granMend (h : Hw) (g off n : Nat) : Hw.onlyChanges ps h (h.granMend g off n) := by
  unfold Hw.granMend
  simp only
  split
  · exact h.onlyChanges_refl ps
  · exact Hw.onlyChanges_trans (Hw.onlyChanges_trans (Hw.only_modMem _ _ (hasMem hp)) (Hw.only_bump _ _ _ _ _ (hasRegs hp)))
      (Hw.only_count _ _ _ _ _ (hasRegs hp))

theorem Hw.only_granFix (h : Hw) (g off n : Nat) : Hw.onlyChanges ps h (h.granFix g off n) :=
  Hw.onlyChanges_trans (Hw.only_granMend hp _ _ _ _) (Hw.only_granGrants hp _ _ _ _)

/-- A unit's read, granted or refused. -/
theorem Hw.only_ncRead (id : Ident) (h : Hw) (hint a n : Nat) : Hw.onlyChanges ps h (h.ncRead id hint a n).2 := by
  unfold Hw.ncRead
  split
  · split
    · split
      · exact Hw.only_granFix hp _ _ _ _
      · exact Hw.only_bump _ _ _ _ _ (hasRegs hp)
    · exact h.onlyChanges_refl ps
  · exact Hw.onlyChanges_trans (Hw.only_ordered hp _ _ _ _) (only_ncReadCuts hp _ _ _ _)

/-- A unit's write, done or refused. -/
theorem Hw.only_ncWrite (id : Ident) (h : Hw) (hint : Nat) (thru : Bool) (a : Nat) (b : List Byte) :
    Hw.onlyChanges ps h (h.ncWrite id hint thru a b).2 := by
  unfold Hw.ncWrite
  split
  · split
    · exact Hw.only_granWrite hp _ _ _ _
    · exact h.onlyChanges_refl ps
  · exact Hw.onlyChanges_trans (Hw.only_ordered hp _ _ _ _) (only_ncWriteCuts hp _ _ _ _ _ _)

end whole

end Sys2Proof.Machine
end

