-- ==== Sys2Proof/Laws/Streams.lean ====
section
/-!
SUPPORT. Laws/Streams.lean: what queueing a command, faulting a stream, waiting on a token and issuing an instruction do.
-/
namespace Sys2Proof.Machine

/-- A read of a written table. -/
theorem SMap.get_set_ite {α : Type} [DecidableEq α] (d : α) (m : SMap α) (j k : Nat) (v : α) : SMap.get d (SMap.set d m j v) k = if k = j then v else SMap.get d m k := by
  by_cases h : k = j
  · subst h; simp
  · rw [SMap.get_set_ne _ _ _ h, if_neg h]
/-- A read of a changed table. -/
theorem SMap.get_mod_ite {α : Type} [DecidableEq α] (d : α) (m : SMap α) (j k : Nat) (f : α → α) : SMap.get d (SMap.mod d m j f) k = if k = j then f (SMap.get d m j) else SMap.get d m k := by
  by_cases h : k = j
  · subst h; simp
  · rw [SMap.get_mod_ne _ _ _ h, if_neg h]

theorem Hw.tile_modTile (h : Hw) (g u : Nat) (f : Tile → Tile) : (h.modTile g f).tile u = if u = g then f (h.tile g) else h.tile u := by
  simp [Hw.tile, Hw.modTile, SMap.get_mod_ite]
theorem Tile.stream_modStream (t : Tile) (s k : Nat) (f) : (t.modStream s f).stream k = if k = s then f (t.stream s) else t.stream k := by
  simp [Tile.stream, Tile.modStream, SMap.get_mod_ite]
theorem Tile.token_setToken (t : Tile) (i j v : Nat) : (t.setToken i v).token j = if j = i then v else t.token j := by
  simp [Tile.token, Tile.setToken, SMap.get_set_ite]
theorem Hw.tile_countTile (h : Hw) (a b c d g : Nat) : (h.countTile a b c d).tile g = h.tile g := by simp [Hw.tile]

/-- An instruction issues when its stream has its turn and its registers are free (04 R80, R110). -/
theorem Hw.issue_go (h : Hw) (g s : Nat) (regs : List Nat) (k : Hw → Hw) (hr : h.mayIssue g s regs = true) : h.issue g s regs k = k h := by
  simp [Hw.issue, hr]
/-- A stream without its turn, or that waits, issues nothing (04 R80). -/
theorem Hw.issue_wait (h : Hw) (g s : Nat) (regs : List Nat) (k : Hw → Hw) (hr : h.mayIssue g s regs = false) (hn : h.mayIssue g s [] = false) :
    h.issue g s regs k = h := by
  simp [Hw.issue, hr, hn]
/-- An instruction that touches a pending register stalls (04 R110). -/
theorem Hw.issue_stall (h : Hw) (g s : Nat) (regs : List Nat) (k : Hw → Hw) (hr : h.mayIssue g s regs = false) (hn : h.mayIssue g s [] = true) :
    h.issue g s regs k = h.modStream g s (fun x => { x with stall := x.waitsOn regs }) := by
  simp [Hw.issue, hr, hn]

/-- Reserved bits of the sync word fault the stream (04 R92). -/
theorem Hw.queueCmd_reserved (h : Hw) (g s : Nat) (regs : List Nat) (sy : Nat) (check) (hr : h.mayIssue g s (sy :: regs) = true)
    (hw : 2 ^ 39 ≤ ((h.stream g s).getX sy).toNat) :
    h.queueCmd g s regs sy check = h.streamFault g s 0x02 0x0E (h.stream g s).pc := by
  have : 0 < ((h.stream g s).getX sy).toNat / 2 ^ 39 := Nat.div_pos hw (by decide)
  unfold Hw.queueCmd; simp only; rw [Hw.issue_go _ _ _ _ _ hr, if_pos (by omega)]

/-- A check that fails faults the stream with its reason (04 R84, R109). -/
theorem Hw.queueCmd_error (h : Hw) (g s : Nat) (regs : List Nat) (sy : Nat) (check) (r : Nat) (hr : h.mayIssue g s (sy :: regs) = true)
    (hw : ((h.stream g s).getX sy).toNat < 2 ^ 39) (hk : check (h.stream g s) = .error r) :
    h.queueCmd g s regs sy check = h.streamFault g s 0x02 r (h.stream g s).pc := by
  have : ((h.stream g s).getX sy).toNat / 2 ^ 39 = 0 := Nat.div_eq_of_lt hw
  unfold Hw.queueCmd; simp only; rw [Hw.issue_go _ _ _ _ _ hr]; simp only [this, hk]; simp

/-- A full queue stalls the stream (04 R84). -/
theorem Hw.queueCmd_full (h : Hw) (g s : Nat) (regs : List Nat) (sy : Nat) (check) (o) (hr : h.mayIssue g s (sy :: regs) = true)
    (hw : ((h.stream g s).getX sy).toNat < 2 ^ 39) (hk : check (h.stream g s) = .ok o) (hl : (h.stream g s).queue.length = 32) :
    h.queueCmd g s regs sy check = h.modStream g s (fun x => { x with full := true }) := by
  have : ((h.stream g s).getX sy).toNat / 2 ^ 39 = 0 := Nat.div_eq_of_lt hw
  unfold Hw.queueCmd; simp only; rw [Hw.issue_go _ _ _ _ _ hr]; simp only [this, hk, hl]; simp

/-- A command that passes its checks takes the next place in the queue (04 R84). -/
theorem Hw.queueCmd_ok (h : Hw) (g s : Nat) (regs : List Nat) (sy : Nat) (check) (op : QOp) (upd : Tile → Tile) (hr : h.mayIssue g s (sy :: regs) = true)
    (hw : ((h.stream g s).getX sy).toNat < 2 ^ 39) (hk : check (h.stream g s) = .ok (op, upd)) (hl : (h.stream g s).queue.length < 32) :
    h.queueCmd g s regs sy check = (h.modTile g (fun t => (upd t).modStream s (fun x =>
            { x with queue := x.queue ++ [⟨x.issued, x.pc, ((h.stream g s).getX sy).toNat, op⟩], issued := x.issued + 1
                     pend := if op.rd = 0 then x.pend else op.rd :: x.pend }))).issued g s 4 := by
  have : ((h.stream g s).getX sy).toNat / 2 ^ 39 = 0 := Nat.div_eq_of_lt hw
  have hl' : ¬ (h.stream g s).queue.length = 32 := by omega
  unfold Hw.queueCmd; simp only; rw [Hw.issue_go _ _ _ _ _ hr]; simp only [this, hk, hl']; simp

/-- What a stream fault leaves in its tile (04 R83). -/
theorem Hw.faultWith_tile (h : Hw) (g s cause detail pc : Nat) (r : ErrRec) (hf : (h.tile g).faulted = false) :
    (h.faultWith g s cause detail pc r).tiles = (h.modTile g (fun t =>
        t.haltAll.modStream s (fun x => { x with st := .faulted, cause := cause, detail := detail, faultPc := pc }))).tiles := by
  have : ((h.send (h.blame (h.tileCtx g) r)).tile g).faulted = false := by rw [show (h.send (h.blame (h.tileCtx g) r)).tile g = h.tile g from rfl]; exact hf
  unfold Hw.faultWith
  simp only [this]
  simp only [Bool.false_eq_true, if_false]
  split
  · simp; rfl
  · simp only [Hw.faultCtx, Hw.modCtx_tiles, Hw.endWork]
    split
    · simp; rfl
    · simp; rfl

/-- What it leaves in the stream. -/
theorem Hw.faultWith_stream (h : Hw) (g s cause detail pc : Nat) (r : ErrRec) (hf : (h.tile g).faulted = false) :
    (h.faultWith g s cause detail pc r).stream g s = { (h.tile g).haltAll.stream s with st := .faulted, cause := cause, detail := detail, faultPc := pc } := by
  simp only [Hw.stream, Hw.tile, Hw.faultWith_tile _ _ _ _ _ _ _ hf]
  simp [Hw.modTile, Tile.modStream, Tile.stream]

theorem Hw.streamFault_stream (h : Hw) (g s cause detail pc : Nat) (hf : (h.tile g).faulted = false) :
    (h.streamFault g s cause detail pc).stream g s = { (h.tile g).haltAll.stream s with st := .faulted, cause := cause, detail := detail, faultPc := pc } :=
  Hw.faultWith_stream _ _ _ _ _ _ _ hf

/-- A wait whose token is enough ends, and subtracts its count unless it peeks (04 R89). -/
theorem Hw.tryWait_ok (h : Hw) (g s tok cnt : Nat) (peek : Bool) (hc : cnt ≤ (h.tile g).token tok) (he : h.earlierWait g s tok false = false) :
   ((h.tryWait g s tok cnt peek).tile g).token tok = (h.tile g).token tok - (if peek then 0 else cnt) ∧ ((h.tryWait g s tok cnt peek).stream g s) = { h.stream g s with twait := none } := by
  unfold Hw.tryWait; simp only [hc, he]; cases peek <;> simp [Hw.stream]
/-- A wait whose token is not enough stalls (04 R89). -/
theorem Hw.tryWait_wait (h : Hw) (g s tok cnt : Nat) (peek : Bool) (hc : (h.tile g).token tok < cnt) :
   ((h.tryWait g s tok cnt peek).tile g).token tok = (h.tile g).token tok ∧ ((h.tryWait g s tok cnt peek).stream g s) = { h.stream g s with twait := some (tok, cnt, peek) } := by
  have : ¬ cnt ≤ (h.tile g).token tok := by omega
  unfold Hw.tryWait; simp [this, Hw.stream]
/-- A wait that an earlier one comes before stalls (04 R90). -/
theorem Hw.tryWait_behind (h : Hw) (g s tok cnt : Nat) (peek : Bool) (he : h.earlierWait g s tok false = true) :
   ((h.tryWait g s tok cnt peek).tile g).token tok = (h.tile g).token tok ∧ ((h.tryWait g s tok cnt peek).stream g s) = { h.stream g s with twait := some (tok, cnt, peek) } := by
  unfold Hw.tryWait; simp [he, Hw.stream]
/-- An instruction that issues moves its stream on (04 R80). -/
theorem Hw.issued_stream (h : Hw) (g s n : Nat) : (h.issued g s n).stream g s = { h.stream g s with pc := ((h.stream g s).pc + n) % 2 ^ 64, instret := ((h.stream g s).instret + 1) % 2 ^ 64, progress := h.localNs, stall := [], full := false } := by
  simp [Hw.issued, Hw.stream]; and_intros <;> rfl
theorem Hw.issued_token (h : Hw) (g s n : Nat) (t) : ((h.issued g s n).tile g).token t = (h.tile g).token t := by
  simp [Hw.issued]; rfl

end Sys2Proof.Machine
end

