-- ==== Sys2Proof/WellFormed.lean ====
section
/-!
DEFINITION. WellFormed.lean: the operands a command may carry.
-/
namespace Sys2Proof

/-- Register numbers of an issued command (04 R80). -/
def Phase.wf : Phase → Bool
  | .issue rs1 rs2 rs3 sy => decide (rs1 < 32 ∧ rs2 < 32 ∧ rs3 < 32 ∧ sy < 32)
  | .run => true

/-- A packet's fields fit their widths (12 Tables 12-3, 12-4); a frame too long for R283 or R284 is a packet that is dropped. -/
def Machine.Pkt.wf (p : Machine.Pkt) : Bool :=
  decide (p.frame ≤ 5 ∧ p.op < 256 ∧ p.dqpn < 2 ^ 20 ∧ p.psn < 2 ^ 24 ∧ p.ts < 2 ^ 32 ∧ p.payload.length < 2 ^ 16)

/-- Each operand lies in the range of what it names. -/
def Instr.wf : Instr → Bool
  | .registerWrite hart a width _ => decide (hart < 64 ∧ a < 2 ^ 48) && [1, 2, 4, 8, 16, 32, 64].contains width
  | .readClear hart a width => decide (hart < 64 ∧ a < 2 ^ 48) && [1, 2, 4, 8, 16, 32, 64].contains width
  | .streamStart g s => decide (g < 80 ∧ s < 3)
  | .streamStartGranted g s => decide (g < 80 ∧ s < 3)
  | .tileStop g => decide (g < 80)
  | .streamInstruction g s => decide (g < 80 ∧ s < 3)
  | .csrCounterRead g s rd csr => decide (g < 80 ∧ s < 3 ∧ rd < 32 ∧ (0xC00 ≤ csr ∧ csr ≤ 0xC02))
  | .fenceI g s => decide (g < 80 ∧ s < 3)
  | .mma g s rs1 rs2 rs3 sy => decide (g < 80 ∧ s < 3 ∧ rs1 < 32 ∧ rs2 < 32 ∧ rs3 < 32 ∧ sy < 32)
  | .mdrain g s rs1 rs2 rs3 sy => decide (g < 80 ∧ s < 3 ∧ rs1 < 32 ∧ rs2 < 32 ∧ rs3 < 32 ∧ sy < 32)
  | .cart g s rs1 rs2 sy => decide (g < 80 ∧ s < 3 ∧ rs1 < 32 ∧ rs2 < 32 ∧ sy < 32)
  | .talloc g s rs1 sy => decide (g < 80 ∧ s < 3 ∧ rs1 < 32 ∧ sy < 32)
  | .tallocGrant g s => decide (g < 80 ∧ s < 3)
  | .gfence g s sy => decide (g < 80 ∧ s < 3 ∧ sy < 32)
  | .gfenceComplete g s _ => decide (g < 80 ∧ s < 3)
  | .tstep g s p => decide (g < 80 ∧ s < 3) && p.wf
  | .tnop g s p => decide (g < 80 ∧ s < 3) && p.wf
  | .twaitConsume g s rs1 rs2 => decide (g < 80 ∧ s < 3 ∧ rs1 < 32 ∧ rs2 < 32)
  | .twaitPeek g s rs1 rs2 => decide (g < 80 ∧ s < 3 ∧ rs1 < 32 ∧ rs2 < 32)
  | .twaitRelease g s => decide (g < 80 ∧ s < 3)
  | .tsig g s rs1 rs2 => decide (g < 80 ∧ s < 3 ∧ rs1 < 32 ∧ rs2 < 32)
  | .tsigRemote g s rs1 rs2 rs3 => decide (g < 80 ∧ s < 3 ∧ rs1 < 32 ∧ rs2 < 32 ∧ rs3 < 32)
  | .tend g s => decide (g < 80 ∧ s < 3)
  | .tendRetire g s => decide (g < 80 ∧ s < 3)
  | .commandDispatch g s => decide (g < 80 ∧ s < 3)
  | .commandComplete g s _ => decide (g < 80 ∧ s < 3)
  | .remoteTokenSignal _ dst => decide (dst < 80)
  | .watchdogExpiry g s => decide (g < 80 ∧ s < 3)
  | .tokenWrite g tok _ => decide (g < 80 ∧ tok < 64)
  | .penLoad g s _ nr _ _ nc _ => decide (g < 80 ∧ s < 3 ∧ nr ≤ 32 ∧ nc ≤ 32)
  | .troughFill g s e _ nr _ _ nc _ => decide (g < 80 ∧ s < 3 ∧ e < 16 ∧ nr ≤ 32 ∧ nc ≤ 32)
  | .kStep g s c => decide (g < 80 ∧ s < 3 ∧ c < 1024)
  | .slotDrain g s c => decide (g < 80 ∧ s < 3 ∧ c < 1024)
  | .vmap g s p => decide (g < 80 ∧ s < 3) && p.wf
  | .vred g s p => decide (g < 80 ∧ s < 3) && p.wf
  | .vsoftmax g s p => decide (g < 80 ∧ s < 3) && p.wf
  | .vlnorm g s p => decide (g < 80 ∧ s < 3) && p.wf
  | .vrmsnorm g s p => decide (g < 80 ∧ s < 3) && p.wf
  | .vgather g s p => decide (g < 80 ∧ s < 3) && p.wf
  | .vscatter g s p => decide (g < 80 ∧ s < 3) && p.wf
  | .vscatadd g s p => decide (g < 80 ∧ s < 3) && p.wf
  | .vrandUniform g s p => decide (g < 80 ∧ s < 3) && p.wf
  | .vrandNormal g s p => decide (g < 80 ∧ s < 3) && p.wf
  | .vrandBernoulli g s p => decide (g < 80 ∧ s < 3) && p.wf
  | .vmxpackPen g s p => decide (g < 80 ∧ s < 3) && p.wf
  | .vmxpackChunk g s p => decide (g < 80 ∧ s < 3) && p.wf
  | .vecRngSeedWrite hart g _ => decide (hart < 64 ∧ g < 80)
  | .cartPieceComplete g ct _ => decide (g < 80 ∧ ct < 4)
  | .granaryWindowAccess hart a size _ => decide (hart < 64 ∧ a < 2 ^ 48) && [1, 2, 4, 8, 16, 32, 64].contains size
  | .update g s rs1 rs2 rs3 sy => decide (g < 80 ∧ s < 3 ∧ rs1 < 32 ∧ rs2 < 32 ∧ rs3 < 32 ∧ sy < 32)
  | .tallyRestoreFree g j => decide (g < 80 ∧ j < 4)
  | .updateSheafStart g => decide (g < 80)
  | .updateOpenRecord g j => decide (g < 80 ∧ j < 4)
  | .updateWriteMoments g j => decide (g < 80 ∧ j < 4)
  | .updateWriteWeights g j => decide (g < 80 ∧ j < 4)
  | .updateCommit g j => decide (g < 80 ∧ j < 4)
  | .replGroupEnable hart grp _ => decide (hart < 64 ∧ grp < 64)
  | .replGroupDisable hart grp _ => decide (hart < 64 ∧ grp < 64)
  | .shardReadySend grp _ => decide (grp < 64)
  | .digestTableReceive grp _ _ _ _ _ => decide (grp < 64)
  | .refetchStart grp _ _ => decide (grp < 64)
  | .refetchServe grp _ _ _ _ => decide (grp < 64)
  | .refetchDeliver grp _ _ answer _ => decide (grp < 64 ∧ answer ≤ 2)
  | .exchangeCloseGate grp => decide (grp < 64)
  | .xchgTimeout grp => decide (grp < 64)
  | .replRelease grp => decide (grp < 64)
  | .replAbort grp => decide (grp < 64)
  | .cellarRead a _ hint found => decide (a < 2 ^ 48 ∧ hint < 8 ∧ found ≤ 2)
  | .cellarWrite a hint _ _ => decide (a < 2 ^ 48 ∧ hint < 8)
  | .cellarFlush k => decide (k < 16)
  | .cellarFlushDone k => decide (k < 16)
  | .stackSelfRefreshEntry k => decide (k < 16)
  | .patrolScrubStep t found => decide (t < 32 ∧ found ≤ 4)
  | .sramScrubStep kind _ _ found => decide (kind < 8 ∧ found ≤ 4)
  | .thermSample d stk rs => decide (d < 8 ∧ stk < 2 ∧ rs.length = 4)
  | .readShared agent a found => decide (agent ≤ 0x61 ∧ a < 2 ^ 48 ∧ found ≤ 2)
  | .readUnique agent a op => decide (agent ≤ 0x61 ∧ a < 2 ^ 48 ∧ op.len ≤ 64)
  | .upgrade agent a op => decide (agent ≤ 0x61 ∧ a < 2 ^ 48 ∧ op.len ≤ 64)
  | .writeBack agent a => decide (agent ≤ 0x61 ∧ a < 2 ^ 48)
  | .evictClean agent a => decide (agent ≤ 0x61 ∧ a < 2 ^ 48)
  | .transfer agent a => decide (agent ≤ 0x61 ∧ a < 2 ^ 48)
  | .snoopWithoutAllocate nc a len hint found => ncOk nc && decide (a < 2 ^ 48 ∧ len ≤ 2048 ∧ hint < 8 ∧ found ≤ 2)
  | .writeInvalidate nc a hint _ => ncOk nc && decide (a < 2 ^ 48 ∧ hint < 8)
  | .noncachingAtomic nc a size op _ => ncOk nc && decide (a < 2 ^ 48 ∧ (size = 4 ∨ size = 8) ∧ op < 2)
  | .snoop agent a => decide (agent ≤ 0x61 ∧ a < 2 ^ 48)
  | .lineRelease slice a => decide (slice < 16 ∧ a < 2 ^ 48)
  | .flitReceive site seq _ _ => decide (site < 40 ∧ seq < 512)
  | .retrainAttemptEnd site _ sp sq => decide (site < 40 ∧ sp ≤ 16 ∧ sq ≤ 16)
  | .bgCalibration site _ _ => decide (site < 40)
  | .calMaxExpiry site _ => decide (site < 40)
  | .send port link _ pk => decide (port < 16 ∧ link < 8) && pk.wf
  | .write port link _ pk => decide (port < 16 ∧ link < 8) && pk.wf
  | .readReq port link _ pk => decide (port < 16 ∧ link < 8) && pk.wf
  | .readResp port link _ pk => decide (port < 16 ∧ link < 8) && pk.wf
  | .fadd port link _ pk => decide (port < 16 ∧ link < 8) && pk.wf
  | .cas port link _ pk => decide (port < 16 ∧ link < 8) && pk.wf
  | .atomicResp port link _ pk => decide (port < 16 ∧ link < 8) && pk.wf
  | .rfence port link _ pk => decide (port < 16 ∧ link < 8) && pk.wf
  | .rfenceAcknowledge qpn => decide (qpn < 2 ^ 20)
  | .ack port link _ pk => decide (port < 16 ∧ link < 8) && pk.wf
  | .nak port link _ pk => decide (port < 16 ∧ link < 8) && pk.wf
  | .close port link _ pk => decide (port < 16 ∧ link < 8) && pk.wf
  | .lease port link _ pk => decide (port < 16 ∧ link < 8) && pk.wf
  | .reduce port link _ pk => decide (port < 16 ∧ link < 8) && pk.wf
  | .gather port link _ pk => decide (port < 16 ∧ link < 8) && pk.wf
  | .linkControlFrame port link _ _ _ => decide (port < 16 ∧ link < 8)
  | .linkControlSend port link => decide (port < 16 ∧ link < 8)
  | .blacklistExpiry _ => true
  | .lastPacketWrite qpn => decide (qpn < 2 ^ 20)
  | .linkDown port link => decide (port < 16 ∧ link < 8)
  | .linkUp port link => decide (port < 16 ∧ link < 8)
  | .linkHoldExpiry port link => decide (port < 16 ∧ link < 8)
  | .ackTimer qpn => decide (qpn < 2 ^ 20)
  | .retransmitTimeout qpn => decide (qpn < 2 ^ 20)
  | .rnrRetry qpn => decide (qpn < 2 ^ 20)
  | .sendWorkRequest qpn => decide (qpn < 2 ^ 20)
  | .writeWorkRequest qpn => decide (qpn < 2 ^ 20)
  | .readWorkRequest qpn => decide (qpn < 2 ^ 20)
  | .faddWorkRequest qpn => decide (qpn < 2 ^ 20)
  | .casWorkRequest qpn => decide (qpn < 2 ^ 20)
  | .rfenceWorkRequest qpn => decide (qpn < 2 ^ 20)
  | .recvWorkRequest qpn => decide (qpn < 2 ^ 20)
  | .collWorkRequest qpn => decide (qpn < 2 ^ 20)
  | .collectiveCombine _ _ _ _ _ => true
  | .completionWrite q => decide (q < 2 ^ 20)
  | .leaseEnable _ => true
  | .leaseLapse => true
  | .bellEntryIssue e => decide (e < 4096)
  | .lateFiring e => decide (e < 4096)
  | .bellEntryArm hart e _ => decide (hart < 64 ∧ e < 4096)
  | .bellOffsetWrite _ => true
  | .bellStepTo _ => true
  | .slewDone => true
  | .ppsPulse => true
  | .holdoverEntry _ => true
  | .ptpRx port link _ => decide (port < 16 ∧ link < 8)
  | .ptpTx => true
  | .chuteEnable hart ch _ => decide (hart < 64 ∧ ch < 16)
  | .chuteDisable hart ch _ => decide (hart < 64 ∧ ch < 16)
  | .ringTailWrite ch _ => decide (ch < 16)
  | .batchStart ch => decide (ch < 16)
  | .sampleTake ch => decide (ch < 16)
  | .sampleDone ch _ _ => decide (ch < 16)
  | .sampleForward ch _ => decide (ch < 16)
  | .batchRelease ch => decide (ch < 16)
  | .droughtExpiry ch => decide (ch < 16)
  | .hopperFreedWrite ch _ => decide (ch < 16)
  | .mailboxGo mb _ => decide (mb < 64)
  | .commandAccept => true
  | .mailboxFree mb => decide (mb < 64)
  | .managementRequest _ _ rcd pay => decide (rcd.length = 64 ∧ pay.length ≤ 8192)
  | .backgroundCommandDone _ => true
  | .idGet => true
  | .attest => true
  | .certGet => true
  | .ctxCreate => true
  | .ctxDestroy => true
  | .ctxStatus => true
  | .ctxHint => true
  | .winSet => true
  | .winRevoke => true
  | .winGet => true
  | .qCreate => true
  | .qDestroy => true
  | .qQuery => true
  | .qRestart => true
  | .qpCreate => true
  | .qpClose => true
  | .modelReg => true
  | .modelUnreg => true
  | .modelStatus => true
  | .modelClear => true
  | .bellArm => true
  | .bellDisarm => true
  | .opPref => true
  | .powerCap => true
  | .fallowEnter => true
  | .fallowExit _ => true
  | .obsSelect => true
  | .chronCtrlStop => true
  | .chronCtrlStart => true
  | .chronCtrlConfigure => true
  | .censusTake => true
  | .titheCtrl => true
  | .gaugeCtrl => true
  | .errRead => true
  | .errAck => true
  | .ckptExport => true
  | .stackOffline => true
  | .stackOnline _ => true
  | .stackTestPatrol _ _ => true
  | .stackTestMarch _ _ => true
  | .stackRepair _ _ => true
  | .leaseSet => true
  | .leaseRenew => true
  | .resetModule => true
  | .resetHost => true
  | .resetFallow => true
  | .resetTile => true
  | .patchList => true
  | .patchInstall _ => true
  | .patchErase _ => true
  | .mbScope => true
  | .mgmtScope => true
  | .doorbellWrite q width off _ => decide (q < 2 ^ 20 ∧ (width = 4 ∨ width = 8) ∧ off < 8)
  | .stewardDecision => true
  | .swapOutBody g => decide (g < 80)
  | .swapOutFinalHeader g => decide (g < 80)
  | .swapComplete g => decide (g < 80)
  | .teardown ctx => decide (ctx < 4096)
  | .opRequestUpdate => true
  | .powerCeilingRevision _ _ _ => true
  | .pointChangeSettle g => decide (g < 80)
  | .sagStretch d _ => decide (d < 8)
  | .sagRelease d => decide (d < 8)
  | .energyMeasure die9 _ _ => decide (die9 ≤ 8)
  | .watchmanSample inp vs => decide (inp < 15) && vs.length == (if inp < 8 then 16 else if inp = 8 then 8 else 1)
  | .graceExpiry => true
  | .autoRestart => true
  | .watchCrashClear _ => true
  | .errorRecordArrival _ => true
  | .clerkHandlerError hkind opcode _ => decide (hkind ≤ 3 ∧ opcode < 2 ^ 16)
  | .chronicleWrite => true
  | .chronMark hart _ => decide (hart < 64)
  | .censusComplete => true
  | .gaugeSample gau _ => decide (gau < 32)
  | .powerOn => true
  | .mrstNAssert => true
  | .mrstNRelease => true
  | .bootClerkStart dimms => decide (dimms < 2 ^ 16)
  | .bootVerifyImages => true
  | .bootDiesUp _ _ _ _ => true
  | .bootHbm _ _ => true
  | .bootOptics => true
  | .bootReleaseHarts => true
  | .hostResetRelease => true
  | .hartStart _ => true
  | .flashProgram hart _ => decide (hart < 64)
  | .flashErase hart _ => decide (hart < 64)
  | .flashOpDone _ => true
  | .unlockChallenge => true
  | .unlockToken _ => true
  | .extestEntry => true
  | .holdupBankFull => true
  | .lampLatchOpen bay => decide (bay < 4)
  | .lampLatchClose bay kind _ _ => decide (bay < 4 ∧ kind ≤ 2)
  | .lampWarmed bay => decide (bay < 4)
  | .lampCalibrated bay => decide (bay < 4)
  | .lampReady bay => decide (bay < 4)
  | .forwardedClockLockLoss site => decide (site < 40)
  | .extestExit => true
  | .fallowResetEnd _ _ _ => true
  | .pacingIntervalExpiry qpn => decide (qpn < 2 ^ 20)

end Sys2Proof
end

