-- ==== Sys2Proof/Tests/Slice0.lean ====
section
/-!
SUPPORT. Slice0.lean: ill-formed commands that the check refuses, one named theorem witness_<Statement> for each statement of
Obligations.lean with hypotheses (a state and operands that meet them together, clause by clause, at the boundaries of their ranges),
and small tests whose expected values are hand calculations from the tables of spec/.
-/
namespace Sys2Proof.Tests
open Sys2Proof Sys2Proof.Machine

set_option Elab.async false   -- one theorem at a time, to keep the compile's memory small

/-- The machine after reset with its module changed by `f`. -/
def at_ (f : Hw → Hw) : State := { State.reset with hw := f State.reset.hw }
/-- The module after a command. -/
def after (c : Instr) (s : State) : Hw :=
  match exec c s with
  | .next t => t.hw
  | _ => s.hw
/-- Stream 0 of tile 0 runs at 0x1000. -/
def running (f : Stream → Stream) : State := at_ (fun h => h.modStream 0 0 (fun x => f { x with st := .running, pc := 0x1000 }))
def xset (n v : Nat) (x : Stream) : Stream := x.setX n (BitVec.ofNat 64 v)

/-! ## Well-formed and ill-formed commands -/

/-- An acknowledgement with everything zero. -/
def pk0 : Pkt := Pkt.mk0 8 0 0 0

/-- Commands with operands in range. -/
theorem test_wellFormed1 : ∀ c ∈ (
  [.registerWrite 0 0 8 0, .readClear 0 0 8, .streamStart 0 0, .streamStartGranted 0 0, .tileStop 0, .streamInstruction 0 0,
    .csrCounterRead 0 0 0 0xC00, .fenceI 0 0, .mma 0 0 0 0 0 0, .mdrain 0 0 0 0 0 0, .cart 0 0 0 0 0, .talloc 0 0 0 0, .tallocGrant 0 0,
    .gfence 0 0 0, .gfenceComplete 0 0 0, .tstep 0 0 .run, .tnop 0 0 .run, .twaitConsume 0 0 0 0, .twaitPeek 0 0 0 0, .twaitRelease 0 0,
    .tsig 0 0 0 0, .tsigRemote 0 0 0 0 0, .tend 0 0, .tendRetire 0 0, .commandDispatch 0 0, .commandComplete 0 0 0,
    .remoteTokenSignal 0 0, .watchdogExpiry 0 0, .tokenWrite 0 0 0, .penLoad 0 0 0 32 0 0 32 0, .troughFill 0 0 15 0 32 0 0 32 0, .kStep 0 0 0,
    .slotDrain 0 0 0, .vmap 0 0 .run, .vred 0 0 .run, .vsoftmax 0 0 .run, .vlnorm 0 0 .run, .vrmsnorm 0 0 .run, .vgather 0 0 .run,
    .vscatter 0 0 .run, .vscatadd 0 0 .run, .vrandUniform 0 0 .run, .vrandNormal 0 0 .run, .vrandBernoulli 0 0 .run,
    .vmxpackPen 0 0 .run, .vmxpackChunk 0 0 .run, .vecRngSeedWrite 0 0 0, .cartPieceComplete 0 0 0, .granaryWindowAccess 0 0 8 none,
    .update 0 0 0 0 0 0, .tallyRestoreFree 0 0, .updateSheafStart 0, .updateOpenRecord 0 0, .updateWriteMoments 0 0,
    .updateWriteWeights 0 0, .updateCommit 0 0, .replGroupEnable 0 0 0, .replGroupDisable 0 0 0, .shardReadySend 0 0,
    .digestTableReceive 0 0 0 0 0 0] :
    List Instr), c.wf = true := by decide +kernel

/-- Commands with operands in range. -/
theorem test_wellFormed2 : ∀ c ∈ (
  [.refetchStart 0 0 0, .refetchServe 0 0 0 0 0, .refetchDeliver 0 0 0 0 [], .exchangeCloseGate 0, .xchgTimeout 0, .replRelease 0,
    .replAbort 0, .cellarRead 0 0 0 0, .cellarWrite 0 0 true [], .cellarFlush 0, .cellarFlushDone 0, .stackSelfRefreshEntry 0,
    .patrolScrubStep 31 4, .sramScrubStep 7 0 0 4, .thermSample 0 0 [none, none, none, none], .readShared 0 0 2, .readUnique 0 0 (.lr 0 8),
    .upgrade 0 0 (.store []), .writeBack 0 0, .evictClean 0 0, .transfer 0 0, .snoopWithoutAllocate (4 * 319) 0 2048 7 2, .writeInvalidate (1 + 4 * 79) 0 0 [],
    .noncachingAtomic (3 + 4 * (2 ^ 20 - 1)) 0 4 0 [], .snoop 0 0, .lineRelease 0 0, .flitReceive 39 511 true [], .retrainAttemptEnd 0 true 16 16,
    .bgCalibration 0 0 true, .calMaxExpiry 0 0, .send 0 0 0 pk0, .write 0 0 0 pk0, .readReq 0 0 0 pk0, .readResp 0 0 0 pk0,
    .fadd 0 0 0 pk0, .cas 0 0 0 pk0, .atomicResp 0 0 0 pk0, .rfence 0 0 0 pk0, .rfenceAcknowledge 0, .ack 0 0 0 pk0, .nak 0 0 0 pk0,
    .close 0 0 0 pk0, .lease 0 0 0 pk0, .reduce 0 0 0 pk0, .gather 0 0 0 pk0, .linkControlFrame 0 0 0 0 0, .linkControlSend 0 0,
    .blacklistExpiry 0, .lastPacketWrite 0, .linkDown 0 0, .linkUp 0 0, .linkHoldExpiry 0 0, .ackTimer 0, .retransmitTimeout 0,
    .rnrRetry 0, .sendWorkRequest 0, .writeWorkRequest 0, .readWorkRequest 0, .faddWorkRequest 0, .casWorkRequest 0] :
    List Instr), c.wf = true := by decide +kernel

/-- Commands with operands in range. -/
theorem test_wellFormed3 : ∀ c ∈ (
  [.rfenceWorkRequest 0, .recvWorkRequest 0, .collWorkRequest 0, .collectiveCombine 0 0 0 0 0, .completionWrite 0, .leaseEnable 0,
    .leaseLapse, .bellEntryIssue 0, .lateFiring 0, .bellEntryArm 0 0 0, .bellOffsetWrite 0, .bellStepTo 0, .slewDone, .ppsPulse,
    .holdoverEntry true, .ptpRx 0 0 (⟨false, false, [], []⟩), .ptpTx, .chuteEnable 0 0 0, .chuteDisable 0 0 0, .ringTailWrite 0 0,
    .batchStart 0, .sampleTake 0, .sampleDone 0 0 true, .sampleForward 0 0, .batchRelease 0, .droughtExpiry 0, .hopperFreedWrite 0 0,
    .mailboxGo 0 0, .commandAccept, .mailboxFree 0, .managementRequest 0 0 (List.replicate 64 0) [], .backgroundCommandDone 0, .idGet,
    .attest, .certGet, .ctxCreate, .ctxDestroy, .ctxStatus, .ctxHint, .winSet, .winRevoke, .winGet, .qCreate, .qDestroy, .qQuery,
    .qRestart, .qpCreate, .qpClose, .modelReg, .modelUnreg, .modelStatus, .modelClear, .bellArm, .bellDisarm, .opPref, .powerCap,
    .fallowEnter, .fallowExit 0, .obsSelect, .chronCtrlStop] :
    List Instr), c.wf = true := by decide +kernel

/-- Commands with operands in range. -/
theorem test_wellFormed4 : ∀ c ∈ (
  [.chronCtrlStart, .chronCtrlConfigure, .censusTake, .titheCtrl, .gaugeCtrl, .errRead, .errAck, .ckptExport, .stackOffline,
    .stackOnline true, .stackTestPatrol [] [], .stackTestMarch [] [], .stackRepair 0 true, .leaseSet, .leaseRenew, .resetModule,
    .resetHost, .resetFallow, .resetTile, .patchList, .patchInstall true, .patchErase true, .mbScope, .mgmtScope, .doorbellWrite 0 4 0 0,
    .stewardDecision, .swapOutBody 0, .swapOutFinalHeader 0, .swapComplete 0, .teardown 0, .opRequestUpdate,
    .powerCeilingRevision [] 0 0, .pointChangeSettle 0, .sagStretch 0 0, .sagRelease 0, .energyMeasure 0 [] [], .watchmanSample 0 (List.replicate 16 0),
    .watchmanSample 8 (List.replicate 8 0), .watchmanSample 14 [0],
    .graceExpiry, .autoRestart, .watchCrashClear 0, .errorRecordArrival 0, .clerkHandlerError 0 0 0, .chronicleWrite, .chronMark 0 0,
    .censusComplete, .gaugeSample 0 0, .powerOn, .mrstNAssert, .mrstNRelease, .bootClerkStart 0, .bootVerifyImages, .bootDiesUp 0 0 0 [],
    .bootHbm 0 [], .bootOptics, .bootReleaseHarts, .hostResetRelease, .hartStart 0, .flashProgram 0 0, .flashErase 0 0,
    .flashOpDone true] :
    List Instr), c.wf = true := by decide +kernel

/-- Commands with operands in range. -/
theorem test_wellFormed5 : ∀ c ∈ (
  [.unlockChallenge, .unlockToken [], .extestEntry, .holdupBankFull, .lampLatchOpen 0, .lampLatchClose 0 0 0 0, .lampWarmed 0,
    .lampCalibrated 0, .lampReady 0, .forwardedClockLockLoss 0, .extestExit, .fallowResetEnd 0 0 [], .pacingIntervalExpiry 0] :
    List Instr), c.wf = true := by decide +kernel

/-- Commands with one operand beyond the range of what it names. -/
theorem test_illFormed1 : ∀ c ∈ (
  [.registerWrite 64 0 8 0, .registerWrite 0 (2 ^ 48) 8 0, .registerWrite 0 0 3 0, .readClear 64 0 8, .readClear 0 (2 ^ 48) 8,
    .readClear 0 0 3, .streamStart 80 0, .streamStart 0 3, .streamStartGranted 80 0, .streamStartGranted 0 3, .tileStop 80,
    .streamInstruction 80 0, .streamInstruction 0 3, .csrCounterRead 80 0 0 0xC00, .csrCounterRead 0 3 0 0xC00,
    .csrCounterRead 0 0 32 0xC00, .csrCounterRead 0 0 0 (0xC02 + 1), .csrCounterRead 0 0 0 0xBFF, .fenceI 80 0, .fenceI 0 3,
    .mma 80 0 0 0 0 0, .mma 0 3 0 0 0 0, .mma 0 0 32 0 0 0, .mma 0 0 0 32 0 0, .mma 0 0 0 0 32 0, .mma 0 0 0 0 0 32,
    .mdrain 80 0 0 0 0 0, .mdrain 0 3 0 0 0 0, .mdrain 0 0 32 0 0 0, .mdrain 0 0 0 32 0 0, .mdrain 0 0 0 0 32 0, .mdrain 0 0 0 0 0 32,
    .cart 80 0 0 0 0, .cart 0 3 0 0 0, .cart 0 0 32 0 0, .cart 0 0 0 32 0, .cart 0 0 0 0 32, .talloc 80 0 0 0, .talloc 0 3 0 0,
    .talloc 0 0 32 0, .talloc 0 0 0 32, .tallocGrant 80 0, .tallocGrant 0 3, .gfence 80 0 0, .gfence 0 3 0, .gfence 0 0 32,
    .gfenceComplete 80 0 0, .gfenceComplete 0 3 0, .tstep 80 0 .run, .tstep 0 3 .run, .tstep 0 0 (.issue 32 0 0 0),
    .tstep 0 0 (.issue 0 32 0 0), .tstep 0 0 (.issue 0 0 32 0), .tstep 0 0 (.issue 0 0 0 32), .tnop 80 0 .run, .tnop 0 3 .run,
    .tnop 0 0 (.issue 32 0 0 0), .tnop 0 0 (.issue 0 32 0 0), .tnop 0 0 (.issue 0 0 32 0), .tnop 0 0 (.issue 0 0 0 32)] :
    List Instr), c.wf = false := by decide +kernel

/-- Commands with one operand beyond the range of what it names. -/
theorem test_illFormed2 : ∀ c ∈ (
  [.twaitConsume 80 0 0 0, .twaitConsume 0 3 0 0, .twaitConsume 0 0 32 0, .twaitConsume 0 0 0 32, .twaitPeek 80 0 0 0,
    .twaitPeek 0 3 0 0, .twaitPeek 0 0 32 0, .twaitPeek 0 0 0 32, .twaitRelease 80 0, .twaitRelease 0 3, .tsig 80 0 0 0, .tsig 0 3 0 0,
    .tsig 0 0 32 0, .tsig 0 0 0 32, .tsigRemote 80 0 0 0 0, .tsigRemote 0 3 0 0 0, .tsigRemote 0 0 32 0 0, .tsigRemote 0 0 0 32 0,
    .tsigRemote 0 0 0 0 32, .tend 80 0, .tend 0 3, .tendRetire 80 0, .tendRetire 0 3, .commandDispatch 80 0, .commandDispatch 0 3,
    .commandComplete 80 0 0, .commandComplete 0 3 0, .remoteTokenSignal 0 80, .watchdogExpiry 80 0, .watchdogExpiry 0 3,
    .tokenWrite 80 0 0, .tokenWrite 0 64 0, .penLoad 80 0 0 0 0 0 0 0, .penLoad 0 3 0 0 0 0 0 0, .penLoad 0 0 0 33 0 0 0 0, .penLoad 0 0 0 0 0 0 33 0,
    .troughFill 80 0 0 0 0 0 0 0 0, .troughFill 0 3 0 0 0 0 0 0 0,
    .troughFill 0 0 16 0 0 0 0 0 0, .troughFill 0 0 0 0 33 0 0 0 0, .troughFill 0 0 0 0 0 0 0 33 0, .kStep 80 0 0, .kStep 0 3 0, .kStep 0 0 1024,
    .slotDrain 80 0 0, .slotDrain 0 3 0, .slotDrain 0 0 1024, .vmap 80 0 .run, .vmap 0 3 .run, .vmap 0 0 (.issue 32 0 0 0),
    .vmap 0 0 (.issue 0 32 0 0), .vmap 0 0 (.issue 0 0 32 0), .vmap 0 0 (.issue 0 0 0 32), .vred 80 0 .run, .vred 0 3 .run,
    .vred 0 0 (.issue 32 0 0 0), .vred 0 0 (.issue 0 32 0 0), .vred 0 0 (.issue 0 0 32 0), .vred 0 0 (.issue 0 0 0 32),
    .vsoftmax 80 0 .run, .vsoftmax 0 3 .run, .vsoftmax 0 0 (.issue 32 0 0 0), .vsoftmax 0 0 (.issue 0 32 0 0)] :
    List Instr), c.wf = false := by decide +kernel

/-- Commands with one operand beyond the range of what it names. -/
theorem test_illFormed3 : ∀ c ∈ (
  [.vsoftmax 0 0 (.issue 0 0 32 0), .vsoftmax 0 0 (.issue 0 0 0 32), .vlnorm 80 0 .run, .vlnorm 0 3 .run, .vlnorm 0 0 (.issue 32 0 0 0),
    .vlnorm 0 0 (.issue 0 32 0 0), .vlnorm 0 0 (.issue 0 0 32 0), .vlnorm 0 0 (.issue 0 0 0 32), .vrmsnorm 80 0 .run, .vrmsnorm 0 3 .run,
    .vrmsnorm 0 0 (.issue 32 0 0 0), .vrmsnorm 0 0 (.issue 0 32 0 0), .vrmsnorm 0 0 (.issue 0 0 32 0), .vrmsnorm 0 0 (.issue 0 0 0 32),
    .vgather 80 0 .run, .vgather 0 3 .run, .vgather 0 0 (.issue 32 0 0 0), .vgather 0 0 (.issue 0 32 0 0),
    .vgather 0 0 (.issue 0 0 32 0), .vgather 0 0 (.issue 0 0 0 32), .vscatter 80 0 .run, .vscatter 0 3 .run,
    .vscatter 0 0 (.issue 32 0 0 0), .vscatter 0 0 (.issue 0 32 0 0), .vscatter 0 0 (.issue 0 0 32 0), .vscatter 0 0 (.issue 0 0 0 32),
    .vscatadd 80 0 .run, .vscatadd 0 3 .run, .vscatadd 0 0 (.issue 32 0 0 0), .vscatadd 0 0 (.issue 0 32 0 0),
    .vscatadd 0 0 (.issue 0 0 32 0), .vscatadd 0 0 (.issue 0 0 0 32), .vrandUniform 80 0 .run, .vrandUniform 0 3 .run,
    .vrandUniform 0 0 (.issue 32 0 0 0), .vrandUniform 0 0 (.issue 0 32 0 0), .vrandUniform 0 0 (.issue 0 0 32 0),
    .vrandUniform 0 0 (.issue 0 0 0 32), .vrandNormal 80 0 .run, .vrandNormal 0 3 .run, .vrandNormal 0 0 (.issue 32 0 0 0),
    .vrandNormal 0 0 (.issue 0 32 0 0), .vrandNormal 0 0 (.issue 0 0 32 0), .vrandNormal 0 0 (.issue 0 0 0 32),
    .vrandBernoulli 80 0 .run, .vrandBernoulli 0 3 .run, .vrandBernoulli 0 0 (.issue 32 0 0 0), .vrandBernoulli 0 0 (.issue 0 32 0 0),
    .vrandBernoulli 0 0 (.issue 0 0 32 0), .vrandBernoulli 0 0 (.issue 0 0 0 32), .vmxpackPen 80 0 .run, .vmxpackPen 0 3 .run,
    .vmxpackPen 0 0 (.issue 32 0 0 0), .vmxpackPen 0 0 (.issue 0 32 0 0), .vmxpackPen 0 0 (.issue 0 0 32 0),
    .vmxpackPen 0 0 (.issue 0 0 0 32), .vmxpackChunk 80 0 .run, .vmxpackChunk 0 3 .run, .vmxpackChunk 0 0 (.issue 32 0 0 0),
    .vmxpackChunk 0 0 (.issue 0 32 0 0)] :
    List Instr), c.wf = false := by decide +kernel

/-- Commands with one operand beyond the range of what it names. -/
theorem test_illFormed4 : ∀ c ∈ (
  [.vmxpackChunk 0 0 (.issue 0 0 32 0), .vmxpackChunk 0 0 (.issue 0 0 0 32), .vecRngSeedWrite 64 0 0, .vecRngSeedWrite 0 80 0,
    .cartPieceComplete 80 0 0, .cartPieceComplete 0 4 0, .granaryWindowAccess 64 0 8 none, .granaryWindowAccess 0 (2 ^ 48) 8 none,
    .granaryWindowAccess 0 0 3 none, .update 80 0 0 0 0 0, .update 0 3 0 0 0 0, .update 0 0 32 0 0 0, .update 0 0 0 32 0 0,
    .update 0 0 0 0 32 0, .update 0 0 0 0 0 32, .tallyRestoreFree 80 0, .tallyRestoreFree 0 4, .updateSheafStart 80,
    .updateOpenRecord 80 0, .updateOpenRecord 0 4, .updateWriteMoments 80 0, .updateWriteMoments 0 4, .updateWriteWeights 80 0,
    .updateWriteWeights 0 4, .updateCommit 80 0, .updateCommit 0 4, .replGroupEnable 64 0 0, .replGroupEnable 0 64 0,
    .replGroupDisable 64 0 0, .replGroupDisable 0 64 0, .shardReadySend 64 0, .digestTableReceive 64 0 0 0 0 0, .refetchStart 64 0 0,
    .refetchServe 64 0 0 0 0, .refetchDeliver 64 0 0 0 [], .refetchDeliver 0 0 0 (2 + 1) [], .exchangeCloseGate 64, .xchgTimeout 64,
    .replRelease 64, .replAbort 64, .cellarRead (2 ^ 48) 0 0 0, .cellarRead 0 0 8 0, .cellarRead 0 0 0 (2 + 1),
    .cellarWrite (2 ^ 48) 0 true [], .cellarWrite 0 8 true [], .cellarFlush 16, .cellarFlushDone 16, .stackSelfRefreshEntry 16,
    .patrolScrubStep 32 0, .patrolScrubStep 0 5, .sramScrubStep 8 0 0 0, .sramScrubStep 0 0 0 5,
    .thermSample 8 0 [none, none, none, none], .thermSample 0 2 [none, none, none, none], .thermSample 0 0 (List.replicate 3 none),
    .readShared (0x61 + 1) 0 0, .readShared 0 (2 ^ 48) 0, .readShared 0 0 3, .readUnique (0x61 + 1) 0 (.store []),
    .readUnique 0 (2 ^ 48) (.store []), .readUnique 0 0 (.lr 0 65), .upgrade (0x61 + 1) 0 (.store []), .upgrade 0 0 (.lr 0 65)] :
    List Instr), c.wf = false := by decide +kernel

/-- Commands with one operand beyond the range of what it names. -/
theorem test_illFormed5 : ∀ c ∈ (
  [.upgrade 0 (2 ^ 48) (.store []), .writeBack (0x61 + 1) 0, .writeBack 0 (2 ^ 48), .evictClean (0x61 + 1) 0, .evictClean 0 (2 ^ 48),
    .transfer (0x61 + 1) 0, .transfer 0 (2 ^ 48), .snoopWithoutAllocate (4 * 320) 0 0 0 0,
    .snoopWithoutAllocate 0 (2 ^ 48) 0 0 0, .snoopWithoutAllocate 0 0 2049 0 0, .snoopWithoutAllocate 0 0 0 8 0,
    .snoopWithoutAllocate 0 0 0 0 3, .writeInvalidate (1 + 4 * 80) 0 0 [], .writeInvalidate (2 + 4 * 16) 0 0 [], .writeInvalidate 0 (2 ^ 48) 0 [], .writeInvalidate 0 0 8 [],
    .noncachingAtomic (3 + 4 * 2 ^ 20) 0 4 0 [], .noncachingAtomic 0 (2 ^ 48) 4 0 [], .noncachingAtomic 0 0 4 2 [], .noncachingAtomic 0 0 16 0 [],
    .snoop (0x61 + 1) 0, .snoop 0 (2 ^ 48), .lineRelease 16 0, .lineRelease 0 (2 ^ 48), .flitReceive 40 0 true [],
    .flitReceive 0 512 true [], .retrainAttemptEnd 40 true 0 0, .retrainAttemptEnd 0 true 17 0, .retrainAttemptEnd 0 true 0 17, .bgCalibration 40 0 true, .calMaxExpiry 40 0, .send 16 0 0 pk0, .send 0 8 0 pk0,
    .send 0 0 0 (Pkt.mk0 256 0 0 0), .write 16 0 0 pk0, .write 0 8 0 pk0, .write 0 0 0 (Pkt.mk0 256 0 0 0), .readReq 16 0 0 pk0,
    .readReq 0 8 0 pk0, .readReq 0 0 0 (Pkt.mk0 256 0 0 0), .readResp 16 0 0 pk0, .readResp 0 8 0 pk0,
    .readResp 0 0 0 (Pkt.mk0 256 0 0 0), .fadd 16 0 0 pk0, .fadd 0 8 0 pk0, .fadd 0 0 0 (Pkt.mk0 256 0 0 0), .cas 16 0 0 pk0,
    .cas 0 8 0 pk0, .cas 0 0 0 (Pkt.mk0 256 0 0 0), .atomicResp 16 0 0 pk0, .atomicResp 0 8 0 pk0, .atomicResp 0 0 0 (Pkt.mk0 256 0 0 0),
    .rfence 16 0 0 pk0, .rfence 0 8 0 pk0, .rfence 0 0 0 (Pkt.mk0 256 0 0 0), .rfenceAcknowledge (2 ^ 20), .ack 16 0 0 pk0,
    .ack 0 8 0 pk0, .ack 0 0 0 (Pkt.mk0 256 0 0 0), .nak 16 0 0 pk0, .nak 0 8 0 pk0, .nak 0 0 0 (Pkt.mk0 256 0 0 0), .close 16 0 0 pk0,
    .close 0 8 0 pk0, .close 0 0 0 (Pkt.mk0 256 0 0 0), .lease 16 0 0 pk0] :
    List Instr), c.wf = false := by decide +kernel

/-- Commands with one operand beyond the range of what it names. -/
theorem test_illFormed6 : ∀ c ∈ (
  [.lease 0 8 0 pk0, .lease 0 0 0 (Pkt.mk0 256 0 0 0), .reduce 16 0 0 pk0, .reduce 0 8 0 pk0, .reduce 0 0 0 (Pkt.mk0 256 0 0 0),
    .gather 16 0 0 pk0, .gather 0 8 0 pk0, .gather 0 0 0 (Pkt.mk0 256 0 0 0), .linkControlFrame 16 0 0 0 0, .linkControlFrame 0 8 0 0 0,
    .linkControlSend 16 0, .linkControlSend 0 8, .lastPacketWrite (2 ^ 20), .linkDown 16 0, .linkDown 0 8, .linkUp 16 0, .linkUp 0 8,
    .linkHoldExpiry 16 0, .linkHoldExpiry 0 8, .ackTimer (2 ^ 20), .retransmitTimeout (2 ^ 20), .rnrRetry (2 ^ 20),
    .sendWorkRequest (2 ^ 20), .writeWorkRequest (2 ^ 20), .readWorkRequest (2 ^ 20), .faddWorkRequest (2 ^ 20),
    .casWorkRequest (2 ^ 20), .rfenceWorkRequest (2 ^ 20), .recvWorkRequest (2 ^ 20), .collWorkRequest (2 ^ 20),
    .completionWrite (2 ^ 20), .bellEntryIssue 4096, .lateFiring 4096, .bellEntryArm 64 0 0, .bellEntryArm 0 4096 0,
    .ptpRx 16 0 (⟨false, false, [], []⟩), .ptpRx 0 8 (⟨false, false, [], []⟩), .chuteEnable 64 0 0, .chuteEnable 0 16 0,
    .chuteDisable 64 0 0, .chuteDisable 0 16 0, .ringTailWrite 16 0, .batchStart 16, .sampleTake 16, .sampleDone 16 0 true,
    .sampleForward 16 0, .batchRelease 16, .droughtExpiry 16, .hopperFreedWrite 16 0, .mailboxGo 64 0, .mailboxFree 64,
    .managementRequest 0 0 (List.replicate 63 0) [], .managementRequest 0 0 (List.replicate 64 0) (List.replicate 8193 0),
    .doorbellWrite (2 ^ 20) 4 0 0, .doorbellWrite 0 4 8 0, .doorbellWrite 0 2 0 0, .swapOutBody 80, .swapOutFinalHeader 80,
    .swapComplete 80, .teardown 4096] :
    List Instr), c.wf = false := by decide +kernel

/-- Commands with one operand beyond the range of what it names. -/
theorem test_illFormed7 : ∀ c ∈ (
  [.pointChangeSettle 80, .sagStretch 8 0, .sagRelease 8, .energyMeasure (8 + 1) [] [], .watchmanSample 15 [0], .watchmanSample 0 [0], .watchmanSample 8 [0],
    .watchmanSample 14 [],
    .clerkHandlerError (3 + 1) 0 0, .clerkHandlerError 0 (2 ^ 16) 0, .chronMark 64 0, .gaugeSample 32 0, .bootClerkStart (2 ^ 16),
    .flashProgram 64 0, .flashErase 64 0, .lampLatchOpen 4, .lampLatchClose 4 0 0 0, .lampLatchClose 0 (2 + 1) 0 0, .lampWarmed 4,
    .lampCalibrated 4, .lampReady 4, .forwardedClockLockLoss 40, .pacingIntervalExpiry (2 ^ 20), .send 0 0 0 { pk0 with frame := 6 },
    .send 0 0 0 { pk0 with dqpn := 2 ^ 20 }, .send 0 0 0 { pk0 with psn := 2 ^ 24 }, .send 0 0 0 { pk0 with ts := 2 ^ 32 },
    .send 0 0 0 { pk0 with payload := List.replicate 65536 0 }] :
    List Instr), c.wf = false := by decide +kernel

/-! ## The clerk -/

/-- A command record: its opcode and its fields, with a payload of `n` bytes at 0x9000 of the DDR5 memory. -/
def cmdRec (op n : Nat) (fs : List (Nat × Nat × Nat)) : List Byte :=
  mkRec 64 ([(0, 2, op), (2, 1, 1), (8, 6, ddrBase + 0x9000), (16, 4, n)] ++ fs)
/-- The module runs, and the command `r` is the clerk's current one, from `box`; context 1 has windows 1 and 2. -/
def clk (box : Nat) (r pay : List Byte) (g : Hw → Hw) : State :=
  let wins := SMap.set Window.init (SMap.set Window.init [] 65 ⟨true, 0x7F, 0x100000000, 0x100000, 0⟩) 66 ⟨true, 0x7F, ddrBase, 0x10000, 0⟩
  at_ (fun h => g (({ h with localNs := 5 * 10 ^ 9, bellNs := 777, wins := wins,
                             ctxs := SMap.set Ctx.init [] 1 { Ctx.init with st := 1 } }.modClerk (fun k =>
    { k with cur := some ⟨1, box, r, pay, 2, 9, 5 * 10 ^ 9, false, 0, [], none⟩, nextId := 2 })).modBox box (fun b => { b with req := r, busy := true })))
def clkCmd (box : Nat) (r pay : List Byte) : ClerkCmd := ⟨1, box, r, pay, 2, 9, 5 * 10 ^ 9, false, 0, [], none⟩
/-- The module's boot is complete. -/
def up (h : Hw) : Hw := { h with boot := { h.boot with phase := 8 }, power := { h.power with mainSw := true } }

/-! ## Witnesses: the queue, completion, the error ring, registers -/

theorem witness_StepRunsTheFrontCommand : ({ State.reset with pending := [.idGet, .ppsPulse] }).pending = .idGet :: [.ppsPulse] := rfl

theorem witness_IdleStepLetsTimePass :
    (State.reset.pending = [] ∧ State.reset.hw.boot.resetAt = [] ∧ State.reset.hw.inReset = false ∧ State.reset.hw.bell.slew = 0 ∧
      State.reset.hw.regF (bellReg 0x20) 0 32 = 0 ∧ State.reset.hw.bell.frac < 2 ^ 48 ∧ State.reset.hw.held 79 = false) ∧
    (at_ (fun h => h.modBoot (fun b => { b with mrst := true }))).hw.inReset = true ∧
    (let h := (State.reset.hw.modStack 1 (fun k => { k with level := 2 })).modStream 7 1 (fun x => { x with st := .running })
     (h.stream 7 1).st = .running ∧ h.held 7 = true ∧ h.inReset = false ∧ h.boot.resetAt = []) := by
  decide +kernel

theorem witness_EveryCommandCompletes : usesRing .idGet = false := rfl

/-- A record of class 0x01, and a ring that holds it, read or not, as SEQ 1. -/
def rec1 : ErrRec := ⟨0, 0x01, 0, srcHart 0, none, some 0x400000, false, false, 0, [], false, [], [], none, 0⟩
def ring1 (read : Bool) : ErrRing := ⟨[⟨1, rec1, read, false⟩], 2, 0, [(srcHart 0, 1)]⟩
theorem witness_EveryStepKeepsTheErrorRingSound :
    ({ State.reset with err := ring1 false }).err.Sound ∧ ∃ t, step { State.reset with err := ring1 false } = .next t :=
  ⟨⟨by decide, ⟨by decide, by decide, trivial⟩, by decide, by decide⟩, ⟨_, rfl⟩⟩

theorem witness_RegistersReadTheirResetValues : (63 : Nat) < 64 ∧ (0x400000, 0) ∈ [(0x20100008, 1), (0x400000, 0)] := by decide

/-- ERR_READ of one record, and ERR_ACK up to SEQ `n`, from mailbox 5, with a read record in the ring. -/
def errRead1 : State := { clk 5 (cmdRec 0x0801 64 [(20, 2, 1)]) [] id with err := ring1 true }
def errAck1 (n : Nat) : State := { clk 5 (cmdRec 0x0802 0 [(24, 8, n)]) [] id with err := ring1 true }
theorem witness_ErrorRecordsAreKeptReadAndAcknowledged :
    (State.reset.hw.awaiting rec1 = false ∧ ∃ h : Hw, h.awaiting { rec1 with awaits := some 3 } = true) ∧
    (takeRec (srcHart 0) [rec1] = some (rec1, []) ∧ (ring1 true).repeats rec1 = none ∧ (ring1 false).repeats rec1 = some 1 ∧
      (⟨List.replicate 4096 ⟨1, rec1, true, false⟩, 2, 0, []⟩ : ErrRing).recs.length = 4096 ∧
      (⟨List.replicate 4096 ⟨1, rec1, true, false⟩, 2, 0, []⟩ : ErrRing).repeats rec1 = none) ∧
    (errRead1.hw.clerk.cur = some (clkCmd 5 (cmdRec 0x0801 64 [(20, 2, 1)]) []) ∧ cOp (cmdRec 0x0801 64 [(20, 2, 1)]) = 0x0801 ∧
      (errRead1.hw.fresh.payAddr errRead1.ident (clkCmd 5 (cmdRec 0x0801 64 [(20, 2, 1)]) []) rWrite 64).isOk = true) ∧
    (∀ n ∈ [0, 1, 2], (errAck1 n).hw.clerk.cur = some (clkCmd 5 (cmdRec 0x0802 0 [(24, 8, n)]) []) ∧
      cOp (cmdRec 0x0802 0 [(24, 8, n)]) = 0x0802) := by
  refine ⟨⟨by decide +kernel, { State.reset.hw with errOut := [{ rec1 with ctx := some 3, faults := true }] }, by decide +kernel⟩, ?_⟩
  decide +kernel

theorem witness_AccessesThatReachNoRegisterFault :
    (∀ a ∈ [0xFFFFFFF, 0x3FFFFFFF], a < 0x40000000 ∧ locReg a = .hole) ∧ (∃ b i off, locReg 0x20100008 = .reg b i off) ∧
      (∀ e ∈ [(2, 0x20100008), (4, 0x2010000A), (8, 0x2010000C), (16, 0x20100010)], ¬ ((e.1 = 4 ∨ e.1 = 8) ∧ e.2 % e.1 = 0)) :=
  ⟨by decide +kernel, ⟨_, _, _, rfl⟩, by decide⟩

theorem witness_RegisterFieldsFollowTheirAttributes :
    State.reset.hw.accelHeld = false ∧ ∀ g ∈ [0, 79], State.reset.hw.dieUp (g / 10) = true ∧
      State.reset.hw.present State.reset.ident g = true ∧ ∀ k < 3, (State.reset.hw.stream g k).st = .idle := by decide +kernel

/-! ## Witnesses: tiles -/

/-- x1 = 5, x2 = 3, x3 = 7. -/
def ready3 : State := running (fun x => xset 1 5 (xset 2 3 (xset 3 7 x)))
/-- Stream 0 of tile 0 runs with `op` and the sync word `sy` at the head of its queue; tokens 3 and 5 hold 7. -/
def headOf (op : QOp) (sy : Nat) (g : Hw → Hw) : State :=
  at_ (fun h => g ((h.modTile 0 (fun t => (t.setToken 3 7).setToken 5 7)).modStream 0 0 (fun x =>
    { x with st := .running, issued := 1, queue := [⟨0, 0x1000, sy, op⟩] })))
/-- A consuming wait of `n` on token 3; a signal of 1 to token 5, here or on tile 2. -/
def syWait (n : Nat) : Nat := 3 + 2 ^ 6 + n * 2 ^ 8
def sySig (far : Nat) : Nat := 5 * 2 ^ 16 + 2 ^ 22 + far * 2 ^ 23 + 2 ^ 24 + 2 * 2 ^ 32
/-- Stream 1 of tile 0 runs and has the turn; token 5 of the tile holds `v`; `f` changes the stream, `h0` is stream 0's queue head. -/
def tokSt (v : Nat) (f : Stream → Stream) (q0 : List QCmd) : State :=
  at_ (fun h => ((h.modTile 0 (fun t => t.setToken 5 v)).modStream 0 1 (fun x =>
    f (xset 1 5 (xset 2 3 (xset 3 7 { x with st := .running, pc := 0x1000 }))))).modStream 0 0 (fun x => { x with queue := q0 }))
/-- A queue head that waits for 1 on token 5. -/
def wait5 : List QCmd := [⟨0, 0x1000, 5 + 2 ^ 6 + 2 ^ 8, .tnop⟩]
theorem witness_TokensAreCountingSemaphores :
    (State.reset.hw.present State.reset.ident 79 = true ∧ State.reset.hw.accelHeld = false ∧
      (at_ (fun h => { h with dieSt := [(0, 3)] })).hw.present State.reset.ident 0 = false ∧
      (at_ (fun h => { h with boot := { h.boot with fallow := 1 } })).hw.accelHeld = true) ∧
    (∀ v ∈ [2, 3, 65532, 65533], let st := tokSt v id [];
      st.hw.mayIssue 0 1 [1, 2] = true ∧ (st.hw.stream 0 1).tokOf 1 = 5 ∧ (st.hw.stream 0 1).cntOf 2 = 3 ∧ (st.hw.tile 0).token 5 = v ∧
        st.hw.earlierWait 0 1 5 false = false ∧ (st.hw.tile 0).faulted = false) ∧
    ((tokSt 3 id wait5).hw.mayIssue 0 1 [1, 2] = true ∧ (tokSt 3 id wait5).hw.earlierWait 0 1 5 false = true) ∧
    (∀ v ∈ [2, 3], ∀ peek ∈ [true, false], let st := tokSt v (fun x => { x with twait := some (5, 3, peek) }) [];
      (st.hw.stream 0 1).twait = some (5, 3, peek) ∧ (st.hw.tile 0).token 5 = v ∧ st.hw.earlierWait 0 1 5 false = false ∧
        ((tokSt v (fun x => { x with twait := some (5, 3, peek) }) wait5).hw.earlierWait 0 1 5 false = true) ∧
        (st.hw.stream 0 0).twait = none) ∧
    (∀ sy ∈ [0, syWait 0, syWait 7, sySig 0, sySig 1, syWait 7 + sySig 0],
      ((headOf .tnop sy id).hw.stream 0 0).queue = [⟨0, 0x1000, sy, .tnop⟩] ∧
        (syWen sy = true → syWCnt sy ≤ ((headOf .tnop sy id).hw.tile 0).token (syWTok sy) ∧
          (headOf .tnop sy id).hw.earlierWait 0 0 (syWTok sy) true = false) ∧
        (headOf .tnop sy id).hw.earlierWait 0 0 3 true = false ∧ ((headOf .tnop sy id).hw.tile 0).token (sySTok sy) + sySCnt sy ≤ 65535) ∧
    (syWen (syWait 7) = true ∧ sySen (sySig 1) = true ∧ syRemote (sySig 1) = true ∧ syRemote (sySig 0) = false) := by
  decide +kernel

/-- A signal to token 5 of tile 7 is on the mesh from a stream of context 4, whose tile is now in context `c0`; tile 7 is in context `c`, its
residency in state `r`. -/
def flying (c0 c r : Nat) : State :=
  at_ (fun h => ({ h with rsig := [⟨0, 0, 0x1000, 4, 7, 5, 3⟩] }.modRes 7 (fun x => { x with st := r, ctx := c })).modRes 0 (fun x => { x with st := 3, ctx := c0 }))

theorem witness_RemoteSignalIsAddedOrFaultsItsSender :
    ready3.hw.mayIssue 0 0 [1, 2, 3] = true ∧
    (∀ e ∈ [(4, 4, 3), (4, 4, 2), (4, 5, 3), (5, 5, 3)], let st := flying e.1 e.2.1 e.2.2;
      takeSig 0 7 st.hw.rsig = some (⟨0, 0, 0x1000, 4, 7, 5, 3⟩, []) ∧ st.hw.present State.reset.ident 7 = true ∧
        st.hw.swapping 7 = decide (e.2.2 = 2) ∧ st.hw.tileCtx 7 = some e.2.1 ∧ st.hw.tileCtx 0 = some e.1 ∧ (st.hw.tile 0).faulted = false) ∧
    (let st := flying 5 4 3; let h := st.hw.modTile 7 (fun t => t.setToken 5 65533);
      h.rsig = st.hw.rsig ∧ h.tileCtx 7 = some 4 ∧ h.swapping 7 = false ∧ 65535 < (h.tile 7).token 5 + 3 ∧ h.tileCtx 0 ≠ some 4) := by
  decide +kernel

/-- Stream 1 of tile 3 has an entry and the rows 4 to 7, and stream 0 holds `rows`. -/
def startable (rows : Nat) : State :=
  at_ (fun h => ((h.setRegF (tileReg 3 0x48) 1 47 0x800).setRegF (tileReg 3 0xE8) 0 32 0xF0).modStream 3 0 (fun x =>
    { x with granted := rows, st := .running }))
theorem witness_StreamsStartAndStop :
    (∀ rows ∈ [0, 0x0F, 0x80], ((startable rows).hw.stream 3 1).st = .idle ∧ ((startable rows).hw.stream 3 0).st ≠ .idle ∧
      (startable rows).hw.present State.reset.ident 3 = true ∧ (startable rows).hw.accelHeld = false ∧
      (startable rows).hw.regF (tileReg 3 0xE8) 0 32 = 0xF0 ∧ (startable rows).hw.rowsFree 3 1 0xF0 = decide (rows ≠ 0x80)) ∧
    (∀ rows ∈ [0, 0x80], let st := { startable rows with hw := (startable rows).hw.modStream 3 1 (fun x => { x with startReq := true, request := 0xF0 }) };
      (st.hw.stream 3 1).startReq = true ∧ st.hw.rowsFree 3 1 (st.hw.stream 3 1).request = decide (rows = 0)) ∧
    (at_ (fun h => { h with boot := { h.boot with fallow := 1 } })).hw.accelHeld = true ∧
    (at_ (fun h => { h with dieSt := [(0, 3)] })).hw.present State.reset.ident 3 = false := by
  decide +kernel

theorem witness_CommandsAreQueuedInOrder :
    let st (n : Nat) : State := running (fun x => { xset 1 0x5FFFE0 (xset 2 7 x) with queue := List.replicate n ⟨0, 0x1000, 0, .tnop⟩ })
    (∀ n ∈ [0, 31, 32], (st n).hw.mayIssue 0 0 [4, 1, 2, 3] = true ∧ (((st n).hw.stream 0 0).getX 4).toNat < 2 ^ 39 ∧
      ((st n).hw.stream 0 0).queue.length = n ∧ ((st n).hw.tile 0).faulted = false) ∧
    (2 ^ 39 ≤ (((running (xset 4 (2 ^ 39))).hw.stream 0 0).getX 4).toNat ∧ (running (xset 4 (2 ^ 39))).hw.mayIssue 0 0 [4, 1, 2, 3] = true) ∧
    ((((st 0).hw.stream 0 0).getX 1).toNat = 0x5FFFE0 ∧ 0x5FFFE0 < 2 ^ 23 ∧ 0x5FFFE0 % 32 = 0 ∧ 7 < 8 ∧ granSize - 160 < 0x5FFFE0 ∧
      granSize - 128 < 0x5FFFE0 ∧ (((st 0).hw.stream 0 0).getX 2).toNat = 7) ∧
    (∀ a ∈ [granSize - 160, granSize - 128, 0x5FFFE1], (((running (xset 1 a)).hw.stream 0 0).getX 1).toNat = a ∧
      (a % 32 ≠ 0 ↔ a = 0x5FFFE1) ∧ (running (xset 1 a)).hw.mayIssue 0 0 [4, 1, 2, 3] = true) := by
  decide +kernel

/-- The operand words of a matrix command (03): A at 0, B at 64, Y at 128; M × N × K; formats; DRAIN, one core of row 0. -/
def mmaRs1 : Word := BitVec.ofNat 64 (64 * 2 ^ 18 + 128 * 2 ^ 36)
def mmaRs2 (m n k afmt bfmt : Nat) : Word := BitVec.ofNat 64 (m + n * 2 ^ 16 + k * 2 ^ 32 + afmt * 2 ^ 50 + bfmt * 2 ^ 54)
def mmaRs3 (md : Bool) (row0 : Nat) : Word := BitVec.ofNat 64 (row0 + if md then 0 else 2 ^ 32)
def mmaSt (m n k afmt : Nat) (md : Bool) (row0 : Nat) : State :=
  let s := running (fun x => ((({ x with granted := 0xFFFFFFFF, request := 0xFFFFFFFF }.setX 1 mmaRs1).setX 2 (mmaRs2 m n k afmt 0)).setX 3 (mmaRs3 md row0)))
  { s with hw := s.hw.modTile 0 (fun t => { t with recKind := [(0, .float)] }) }

def mmaChecks (m n k afmt : Nat) (md : Bool) (row0 : Nat) : List (Prop × Nat) :=
  issueChecks ((mmaSt m n k afmt md row0).hw.tile 0) ((mmaSt m n k afmt md row0).hw.stream 0 0).request mmaRs1.toNat (mmaRs2 m n k afmt 0).toNat
    (mmaRs3 md row0).toNat md

/-- Checks that all pass. -/
theorem mmaChecks_pass (md : Bool) (h : md = false ∨ md = true) : ∀ e ∈ mmaChecks 8 16 64 0 md 0, ¬ e.1 := by
  rcases h with rfl | rfl <;> simp only [mmaChecks, issueChecks, List.forall_mem_cons] <;>
    (repeat (refine And.intro ?_ ?_; · decide +kernel)) <;> simp
/-- The first check fails with M = 0, the second with formats of different rows. -/
theorem mmaChecks_first (md : Bool) : ∃ e post, mmaChecks 0 16 64 0 md 0 = [] ++ e :: post ∧ e.1 ∧ e.2 = 0x01 := by
  refine ⟨_, _, rfl, Or.inl ?_, rfl⟩
  cases md <;> decide +kernel
theorem mmaChecks_second (md : Bool) :
    ∃ e₁ e post, mmaChecks 16 16 64 9 md 0 = [e₁] ++ e :: post ∧ ¬ e₁.1 ∧ e.1 ∧ e.2 = 0x02 := by
  refine ⟨_, _, _, rfl, ?_, Or.inl ?_, rfl⟩ <;> cases md <;> decide +kernel
theorem witness_MatrixCommandsAreCheckedAtIssue :
    ∀ m ∈ [0, 8, 16], ∀ fmt ∈ [0, 9], ∀ md ∈ [true, false], let st := mmaSt m 16 64 fmt md 0;
      st.hw.mayIssue 0 0 [4, 1, 2, 3] = true ∧ ((st.hw.stream 0 0).getX 4).toNat < 2 ^ 39 ∧ (st.hw.tile 0).faulted = false ∧
        (st.hw.stream 0 0).getX 1 = mmaRs1 ∧ (st.hw.stream 0 0).getX 2 = mmaRs2 m 16 64 fmt 0 ∧ (st.hw.stream 0 0).getX 3 = mmaRs3 md 0 := by
  decide +kernel

/-- Context 1 is active. -/
def ctx1 : SMap Ctx := SMap.set Ctx.init [] 1 { Ctx.init with st := 1 }
/-- A cart descriptor: GET of one row of 64 bytes from window 2 to granary offset 0x40. -/
def cartDesc : List Byte := mkRec 32 [(0, 4, 0x200), (4, 4, 0x40), (16, 4, 64), (20, 2, 1), (24, 4, 64), (28, 4, 64)]
/-- A CART for `sel` is at the head, and `busy` of the tile's carts are busy. -/
def cartHead (sel busy : Nat) : State :=
  headOf (.cart 0x100 sel) 0 (fun h => ((({ h with wins := SMap.set Window.init [] 66 ⟨true, 0x7F, ddrBase, 0x20000, 0⟩, ctxs := ctx1 }).modMem (fun m =>
    m.puts (granBase 0 + 0x100) cartDesc)).modRes 0 (fun _ => ⟨3, 1, 0, 0⟩)).modTile 0 (fun t =>
      (List.range busy).foldl (fun t i => t.modCart i (fun x => { x with busy := true })) t))
theorem witness_CartIssueChecksAndCartChoice :
    (∀ e ∈ [(2 ^ 23, 3), (0x5FFFE1, 3), (0x600000, 3), (0x40, 8)],
      let st := running (fun x => xset 1 e.1 (xset 2 e.2 x));
      let x := st.hw.stream 0 0;
      st.hw.mayIssue 0 0 [4, 1, 2] = true ∧ (st.hw.tile 0).faulted = false ∧ (x.getX 4).toNat < 2 ^ 39 ∧ (x.getX 1).toNat = e.1 ∧ (x.getX 2).toNat = e.2 ∧
        (e.1 / 2 ^ 23 ≠ 0 ∨ e.1 % 2 ^ 23 % 32 ≠ 0 ∨ 0x5FFFE0 < e.1 % 2 ^ 23 ∨ e.2 / 8 ≠ 0)) ∧
    (((cartHead 7 4).hw.tile 0).cartFor 7 = none ∧ ((cartHead 7 3).hw.tile 0).cartFor 7 = some 3 ∧ ((cartHead 0 1).hw.tile 0).cartFor 0 = none ∧
      ((cartHead 1 1).hw.tile 0).cartFor 1 = some 1) ∧
    (∀ e ∈ [(7, 4), (0, 1)], let st := cartHead e.1 e.2;
      (st.hw.tile 0).cartFor e.1 = none ∧ (st.hw.stream 0 0).queue = [⟨0, 0x1000, 0, .cart 0x100 e.1⟩] ∧ (st.hw.stream 0 0).st = .running ∧
        (st.hw.stream 0 0).startReq = false ∧ (st.hw.stream 0 0).twait = none ∧ (st.hw.stream 0 0).full = false ∧ (st.hw.stream 0 0).stall = []) ∧
    (let st := cartHead 7 3;
      (st.hw.granRead 0 0x100 32).toOption = some cartDesc ∧ cartDescOk cartDesc = true ∧ (st.hw.cartBase st.ident 0 cartDesc).isSome = true ∧
        (st.hw.stream 0 0).queue = [⟨0, 0x1000, 0, .cart 0x100 7⟩] ∧ syWen 0 = false) := by
  decide +kernel

/-- Stream 0 of tile 0 has `op` dispatched with the sync word `sy`; `f` puts it on its unit. -/
def liveSt (op : QOp) (sy : Nat) (f : Tile → Tile) : State :=
  at_ (fun h => (h.modTile 0 f).modStream 0 0 (fun x => { x with live := [⟨0, 0x1000, sy, op⟩] }))
/-- An array command on one core, with the K-steps and drains it has had there. -/
def arr1 (steps drains : SMap Nat) : ArrayCmd :=
  { stream := 0, seq := 0, md := false, rs1 := mmaRs1, rs2 := mmaRs2 16 16 64 0 0, rs3 := mmaRs3 false 0, epi := [], step := 0
    steps, drains, tithe := [], outs := [] }
def mmaOp : QOp := .mma mmaRs1 (mmaRs2 16 16 64 0 0) (mmaRs3 false 0)
/-- A command that may complete: live, its signal within its token. -/
def maySettle (st : State) (op : QOp) (sy : Nat) : Bool :=
  st.hw.liveCmd 0 0 0 == some ⟨0, 0x1000, sy, op⟩ && (!(sySen sy && !syRemote sy) || decide ((st.hw.tile 0).token (sySTok sy) + sySCnt sy ≤ 65535))
theorem witness_QueueHeadsDispatchWhenTheyMay :
    (∀ sy ∈ [0, sySig 0, sySig 1], ∀ e ∈ [(arr1 [(0, 16)] [(0, 2)], true), (arr1 [(0, 16)] [(0, 1)], false)], let st := liveSt mmaOp sy (fun t => { t with arr := [e.1] });
        maySettle st mmaOp sy = true ∧ (st.hw.tile 0).arr.find? (fun a => a.stream == 0 && a.seq == 0) = some e.1 ∧ e.1.done = e.2) ∧
    (∀ sy ∈ [0, sySig 0, sySig 1], ∀ d ∈ [true, false], let st := liveSt (.cart 0x100 7) sy (fun t => t.modCart 3 (fun x => { x with busy := true, done := d }));
        maySettle st (.cart 0x100 7) sy = true ∧ (∀ j < 4, ((st.hw.tile 0).cart j).busy = true → j = 3) ∧ ((st.hw.tile 0).cart 3).busy = true ∧
          ((st.hw.tile 0).cart 3).stream = 0 ∧ ((st.hw.tile 0).cart 3).seq = 0 ∧ ((st.hw.tile 0).cart 3).done = d) ∧
    (∀ sy ∈ [0, sySig 0, sySig 1], ∀ d ∈ [true, false], let r : VecRun := ⟨0, 0, 1, 0, List.replicate 160 0, 0, 0, 9, 0, 0, d, 42⟩;
        let st := liveSt (.vec 1 0 0x100 0 0 9) sy (fun t => { t with vec := some r });
        maySettle st (.vec 1 0 0x100 0 0 9) sy = true ∧ (st.hw.tile 0).vec = some r ∧ r.done = d) ∧
    (∀ sy ∈ [0, sySig 0, sySig 1], ∀ n ∈ [0, 1], let u : UpdRun := ⟨0, 0, 9, List.replicate 128 0, 1, none, 0, 1, 4, List.replicate 64 0, [], n, [], 0, 0⟩;
        let st := liveSt (.update 0x100 0 0 9) sy (fun t => { t with upd := some u });
        maySettle st (.update 0x100 0 0 9) sy = true ∧ (st.hw.tile 0).upd = some u ∧ u.finished = decide (n = 1)) ∧
    (∀ op ∈ [QOp.talloc 0xFF, .tstep 77, .tnop], ((headOf op 0 id).hw.stream 0 0).queue = [⟨0, 0x1000, 0, op⟩]) ∧ syWen 0 = false ∧ sySen 0 = false ∧
    (((headOf (.talloc 0xFF) 0 id).hw.tile 0).tallocOk 0 0xFF = true ∧
      ((headOf (.talloc 0xFF) 0 (fun h => h.modStream 0 1 (fun x => { x with granted := 0x80 }))).hw.tile 0).tallocOk 0 0xFF = false) ∧
    (syWen (syWait 8) = true ∧ ((headOf .tnop (syWait 8) id).hw.tile 0).token (syWTok (syWait 8)) < syWCnt (syWait 8)) ∧
    (let st := headOf .tnop (syWait 1) (fun h => h.modStream 0 1 (fun x => { x with queue := [⟨0, 0x1000, syWait 1, .tnop⟩] }));
      (st.hw.stream 0 1).queue = [⟨0, 0x1000, syWait 1, .tnop⟩] ∧ st.hw.earlierWait 0 1 (syWTok (syWait 1)) true = true) ∧
    (let st (n : Nat) := at_ (fun h => h.modStream 0 0 (fun x => { x with live := [⟨n, 0x1000, 0, .gfence⟩] }));
      ∀ n ∈ [0, 1], (st n).hw.liveCmd 0 0 n = some ⟨n, 0x1000, 0, .gfence⟩ ∧ (n = 0 ↔ n ≤ ((st n).hw.stream 0 0).retired)) ∧
    (let st := at_ (fun h => h.modStream 0 0 (fun x => { x with live := [⟨3, 0x1000, 0, .gfence⟩], retired := 3, failed := some 2 }));
      st.hw.liveCmd 0 0 3 = some ⟨3, 0x1000, 0, .gfence⟩ ∧ 3 ≤ (st.hw.stream 0 0).retired ∧ (st.hw.stream 0 0).failedBefore 3 = true) := by
  refine ⟨?_, ?_, ?_, ?_, ?_⟩ <;> decide +kernel

/-- A stream without progress for 1,000 µs, or one nanosecond less. -/
def lateBy (ns : Nat) : State :=
  let s := running (fun x => { x with progress := 5 })
  { s with hw := ({ s.hw with localNs := ns }).setReg (tileReg 0 0x100) 1000 }
theorem witness_StreamsEndOrExpire :
    (running id).hw.mayIssue 0 0 [] = true ∧
    ((running (fun x => { x with issued := 1, tend := true })).hw.stream 0 0).retired ≠ ((running (fun x => { x with issued := 1, tend := true })).hw.stream 0 0).issued ∧
    (let x := (running (fun x => { x with tend := true })).hw.stream 0 0;
      x.tend = true ∧ x.retired = x.issued ∧ ((running id).hw.stream 0 0).tend = false) ∧
    (∀ n ∈ [1000004, 1000005], let st := lateBy n;
      st.hw.present st.ident 0 = true ∧ (st.hw.stream 0 0).st = .running ∧ st.hw.obs.census = none ∧ st.hw.held 0 = false ∧
        st.hw.regF (tileReg 0 0x100) 0 16 = 1000 ∧ st.hw.regF (tileReg 0 0x100) 16 1 = 0 ∧ (st.hw.tile 0).faulted = false ∧
        (st.hw.localNs < (st.hw.stream 0 0).progress + 1000 * 1000 ↔ n = 1000004)) := by
  decide +kernel

/-- Stream 0 of tile 0 runs in context 1, with the words `ws` at the start of its window 0. -/
def strm (ws : List Nat) : State :=
  at_ (fun h => ((({ h with wins := SMap.set Window.init h.wins 64 ⟨true, 0x7F, ddrBase, 0x10000, 3⟩, ctxs := ctx1 }).modMem
    (fun m => m.puts ddrBase (ws.flatMap (toLE 4)))).modRes 0 (fun _ => ⟨3, 1, 0, 0⟩)).modStream 0 0 (fun x => { x with st := .running }))
/-- What the stream fetches, and whether the fetch leaves the tiles. -/
def fetched (s : State) : Option (List Byte) × Bool :=
  match s.hw.fresh.fetchInstr s.ident 0 (s.hw.stream 0 0).pc with
  | (.ok b, h) => (some b, h.tiles == s.hw.tiles)
  | _ => (none, false)
/-- Stream 0 of tile 0 in context 1 with the instruction `w` at its pc, and x1 = `a`. -/
def accSt (w a : Nat) : State := { strm [w] with hw := (strm [w]).hw.modStream 0 0 (fun x => xset 1 a (xset 2 7 x)) }
/-- What the access of `n` bytes at window address `a` after the fetch answers: its physical address, and whether the access goes and leaves the tiles. -/
def accessed (w a n : Nat) (store : Bool) : Option Nat × Bool :=
  let s := accSt w a
  match s.hw.fresh.fetchInstr s.ident 0 (s.hw.stream 0 0).pc with
  | (.ok _, h) =>
    let pa := h.ctxAddr 0 (if store then rWrite else rRead) a n
    (pa, match (if store then h.coreStore s.ident 0 (pa.getD 0) (toLE n 7) else h.coreLoad s.ident 0 rRead (pa.getD 0) n) with
      | (.ok _, h₁) => h₁.tiles == s.hw.tiles
      | _ => false)
  | _ => (none, false)
theorem witness_StreamInstructionsRun :
    (fetched (strm [0x00500093]) = (some (toLE 4 0x00500093), true) ∧ decode32 0x00500093 = some (.imm .add false 1 0 5) ∧
      (strm [0x00500093]).hw.mayIssue 0 0 [1, 0] = true) ∧
    (fetched (strm [0x4085]) = (some (toLE 2 0x4085), true) ∧ decode16 0x4085 = some (.imm .add false 1 0 1)) ∧
    (fetched (strm [0xFFFFFFFF]) = (some (toLE 4 0xFFFFFFFF), true) ∧ decode32 0xFFFFFFFF = none ∧ decode16 0 = none) ∧
    (decode32 0x0000B183 = some (.load 3 3 1 0) ∧ decode32 0x0020B023 = some (.store 3 1 2 0) ∧ loadSize 3 = 8 ∧
      accessed 0x0000B183 0x100 8 false = (some (ddrBase + 0x100), true) ∧ accessed 0x0020B023 0x100 8 true = (some (ddrBase + 0x100), true) ∧
      (accessed 0x0000B183 0x10000 8 false).1 = none ∧ (accessed 0x0020B023 0x10000 8 true).1 = none ∧ 0x101 % 8 ≠ 0 ∧
      (accSt 0x0000B183 0x101).hw.mayIssue 0 0 [3, 1] = true ∧ ((accSt 0x0000B183 0x101).hw.tile 0).faulted = false ∧
      (((accSt 0x0000B183 0x101).hw.stream 0 0).getX 1 + 0).toNat = 0x101) ∧
    (running id).hw.mayIssue 0 0 [31] = true ∧
    (let st := running (fun x => { x with pend := [1] });
      st.hw.mayIssue 0 0 [4, 1, 2, 3] = false ∧ st.hw.mayIssue 0 0 [] = true ∧ State.reset.hw.mayIssue 0 0 [] = false ∧
        ({ running id with hw := (running id).hw.modStream 0 1 (fun x => { x with st := .running }) }).hw.mayIssue 0 1 [] = false) := by
  decide +kernel

/-! ## Witnesses: the engines of a tile -/

/-- The pen block and the chunk of that command's next K-step, once it has had `st`. -/
def pen1 (st : Nat) : Block := ⟨List.replicate 256 1, [], (nextStep [arr1 (if st = 0 then [] else [(0, st)]) []] 0 0).map (fun e => e.1.penId e.2)⟩
def chunk1 (st : Nat) : Block := ⟨List.replicate 512 1, [], (nextStep [arr1 (if st = 0 then [] else [(0, st)]) []] 0 0).map (fun e => e.1.chunkId e.2)⟩

def arrSt (a : ArrayCmd) (f : Core → Core) : State := at_ (fun h => h.modTile 0 (fun t => { t with arr := [a] }.modCore 0 f))
/-- The next K-step may run: its chunk is in entry `e`, and its block in the active plane (`reuse`) or in the loading one. -/
def stepGoes (t : Tile) (e : Nat) (reuse : Bool) : Bool :=
  (nextStep t.arr 0 0).any (fun k => (t.core 0).entryOf (k.1.chunkId k.2) == some e && ((t.core 0).act.id == some (k.1.penId k.2)) == reuse &&
    (reuse || (t.core 0).loaded && (t.core 0).load.id == some (k.1.penId k.2)) && slotOwed t.arr k.1 0 k.2.wave == false && (t.core 0).bad == [])
theorem witness_ArrayOperationsMoveOperands :
    let new := (arrSt (arr1 [] []) id).hw.tile 0
    let set := (arrSt (arr1 [] []) (fun c => { c with load := pen1 0, loaded := true, trough := [(15, chunk1 0)], valid := [(15, true)] })).hw.tile 0
    let again := (arrSt (arr1 [] []) (fun c => { c with act := pen1 0, trough := [(0, chunk1 0)], valid := [(0, true)] })).hw.tile 0
    let done := (arrSt (arr1 [(0, 16)] []) id).hw.tile 0
    (destOk 0 1 1 0 1 1 = true ∧ destCores 0 1 1 0 1 1 = [0] ∧ (new.core 0).loaded = false ∧ (set.core 0).loaded = true ∧
      (new.nextPen 0 0).any (fun e => e.1.f.ta == false && (State.reset.hw.granRead 0 (e.1.f.penAt e.2.i e.2.q)
        (penBytes e.1.f.afmt + if isMx e.1.f.afmt then 32 else 0)).isOk) = true) ∧
    (State.reset.hw.tile 0).nextFill 0 0 = none ∧
    (new.nextFill 0 0).any (fun e => (State.reset.hw.granRead 0 (e.1.f.chunkAt e.2.j e.2.q)
        (chunkBytes e.1.f.bfmt + if isMx e.1.f.bfmt then 32 else 0)).isOk) = true ∧
    (State.reset.hw.held 0 = false ∧ stepGoes set 15 false = true ∧ stepGoes again 0 true = true) ∧
    ((nextStep new.arr 0 0).any (fun k => (new.core 0).entryOf (k.1.chunkId k.2) == none) = true) ∧
    ((nextDrain done.arr 0 0).any (fun a => a.f.groupOf 0 == some (0, 0) && (a.f.tilesOf 0)[0]? == some (0, 0) && a.f.bias == false &&
        drainReady done.arr a 0 0 && a.tithe == [] && (a.f.members 0).all (fun m => !(done.core m).halted &&
          !(done.core m).bad.any (a.f.slotWord 0 0 (a.f.slot 0)))) = true ∧
      (nextDrain new.arr 0 0).any (fun a => !drainReady new.arr a 0 0) = true) := by
  decide +kernel

/-- A vector command on the engine of tile 0. -/
def vecSt (f3 f2 : Nat) : State :=
  at_ (fun h => h.modTile 0 (fun t => { t with vec := some ⟨0, 0, f3, f2, List.replicate 160 0, 0, 0, 0, 0, 0, false, 0⟩ }))
/-- A vector descriptor whose streams have `n` elements of a format each, and the command on the engine of tile 0. -/
def vDesc (n fmt out : Nat) : List Byte := mkRec 160 ((List.range 4).flatMap (fun k =>
  [(32 + 32 * k, 4, 0x800 * k + (if k = 3 then out else fmt) * 2 ^ 24), (36 + 32 * k, 2, n), (38 + 32 * k, 2, 1), (40 + 32 * k, 2, 1), (42 + 32 * k, 2, 1),
    (44 + 32 * k, 4, 1)]))
def vecOn (f3 f2 : Nat) : VecRun :=
  ⟨0, 0, f3, f2, if f3 = 5 then vDesc 64 9 3 else vDesc 2 9 9, 0x3F800000, 0x40000000, 0, 0, 0, false, 0⟩
/-- A point's result is formed. -/
def okAt {α : Type} (n : Nat) (f : Nat → Except Nat α) : Bool := decide (0 < n) && (List.range n).all (fun e => (f e).toBool)
/-- Every point of the command's result is formed: no word it reads is bad. -/
def vecGoes (f3 f2 : Nat) : Bool :=
  let h := State.reset.hw.fresh
  let r := vecOn f3 f2
  let n := prod4 (vecExt f3 f2 r.desc)
  match f3 with
  | 0 => okAt n (vmapAt h 0 r)
  | 1 => okAt (lineCount (vecExt 1 0 r.desc) (vhDim r.desc)) (vredAt h 0 r)
  | 2 => okAt (lineCount (vecExt 2 f2 r.desc) (vhDim r.desc)) (macroLine h 0 f2 r) && okAt n (macroAt h 0 f2 r (fun k =>
      match macroLine h 0 f2 r k with
      | .ok x => if k < lineCount (vecExt 2 f2 r.desc) (vhDim r.desc) then x else (0, 0)
      | .error _ => (0, 0)))
  | 3 => match f2 with
    | 0 => okAt n (vgatherAt h 0 r)
    | 1 => okAt n (fun e => (vscatterAt h 0 r e).bind (fun x => if x.2.1 = none then .ok x else .error 0))
    | _ => (scatAdd 0 (vecExt 3 2 r.desc) (VStr.of r.desc 0) (VStr.of r.desc 1) (VStr.of r.desc 3) (List.range n) h false).2.2 == none
  | 4 => okAt n (vrandAt h 0 f2 r)
  | _ => okAt (vmxBlocks f2 r.desc) (fun b => (vmxBlock h 0 f2 r b).bind (fun x => if x.2 = (none, false, false) then .ok x else .error 0))
theorem witness_VectorCommandsRunFromTheirSeed :
    (∀ e ∈ vectorTurns 0 0, vecGoes e.1 e.2.1 = true ∧
      (at_ (fun h => h.modTile 0 (fun t => { t with vec := some (vecOn e.1 e.2.1) }))).hw.vecCur 0 e.1 e.2.1 = some (vecOn e.1 e.2.1)) ∧
    (∀ e ∈ vectorTurns 0 0, ((vecSt e.1 e.2.1).hw.vecCur 0 e.1 e.2.1).isSome = true ∧ State.reset.hw.vecCur 0 e.1 e.2.1 = none) ∧
    State.reset.hw.memS.mem.bad = [] ∧
    (State.reset.hw.present State.reset.ident 79 = true ∧ State.reset.hw.accelHeld = false ∧ (∀ k < 3, (State.reset.hw.stream 79 k).st = .idle)) ∧
    (let st := at_ (fun h => h.modStream 79 2 (fun x => { x with st := .running }));
      (st.hw.stream 79 2).st ≠ .idle ∧ (5 : Word).toNat ≠ st.hw.reg (tileReg 79 0x700)) := by
  decide +kernel

/-- A read that answers bytes. -/
def rdOk : RdRes → Bool
  | .ok _ => true
  | _ => false
/-- Cart 1 of tile 0 has piece 0 of one row of 64 bytes outstanding, of `n` remaining, its operation `op` (PUSH and PULL with tile 7, whose
residency is in state `r`). -/
def cartOut (op n r : Nat) : State :=
  at_ (fun h => ({ h with ctxs := ctx1 }.modRes 7 (fun _ => ⟨r, 1, 0, 0⟩)).modTile 0 (fun t => t.modCart 1 (fun _ =>
    { Cart.init with busy := true, op := op, ctx := 1, base := if op < 2 then ddrBase else granBase 7
                     desc := mkRec 32 [(0, 4, op + 7 * 2 ^ 14), (4, 4, 0x40), (16, 4, 64), (20, 2, 1), (24, 4, 64), (28, 4, 64)]
                     issued := n, out := [0], total := n, remain := n })))

theorem witness_OutstandingPiecesComplete :
    ((State.reset.hw.tile 0).cart 1).busy = false ∧ (((cartOut 0 1 3).hw.tile 0).cart 1).out.contains 1 = false ∧
    (cdRemote (((cartOut 2 1 2).hw.tile 0).cart 1).desc = true ∧ (cartOut 2 1 2).hw.swapping (cdTile (((cartOut 2 1 2).hw.tile 0).cart 1).desc) = true) ∧
    (∀ op ∈ [0, 1, 2, 3], ∀ n ∈ [1, 2], let st := cartOut op n 3;
      let x := (st.hw.tile 0).cart 1;
      let hint := if cdRemote x.desc then 0 else cdHint x.desc;
      x.busy = true ∧ x.out.contains 0 = true ∧ x.op = op ∧ cdRemote x.desc = decide (2 ≤ op) ∧ x.stop = 0 ∧ cdTile x.desc = 7 ∧ st.hw.swapping 7 = false ∧
        st.hw.present st.ident 7 = true ∧ st.hw.tileCtx 7 = some x.ctx ∧
        (cartPiece x.desc x.base 0).any (fun e => if op = 0 ∨ op = 3 then
            st.hw.settled && (cdRemote x.desc || (st.hw.fresh.ncRead st.ident hint e.2.1 e.2.2).2.ctxActive 1) &&
              rdOk (st.hw.fresh.ncRead st.ident hint e.2.1 e.2.2).1
          else match st.hw.granRead 0 e.1 e.2.2 with
            | .ok b => st.hw.settled && (cdRemote x.desc || st.hw.ctxActive 1) && ((st.hw.fresh.granFix 0 e.1 e.2.2).ncWrite st.ident hint false e.2.1 b).1 == none
            | _ => false) = true) := by
  decide +kernel

theorem witness_GranaryWindowStoresAndLoads :
    (∀ g ∈ [0, 79], State.reset.hw.present State.reset.ident g = true) ∧ State.reset.hw.accelHeld = false ∧
    (let h := { State.reset.hw with boot := { State.reset.hw.boot with fallow := 2 } }; h.accelHeld = true ∧ h.present State.reset.ident 79 = true) ∧ (at_ (fun h => { h with dieSt := [(0, 3)] })).hw.present State.reset.ident 9 = false ∧
    (∀ n ∈ [1, 2, 4, 8, 16, 32, 64], (granSize - n) % n = 0 ∧ granSize - n < granSize ∧ (0x800000 - n) % n = 0 ∧ granSize ≤ 0x800000 - n ∧
      State.reset.hw.memS.mem.firstBad 8 (granBase 79 + (granSize - n)) n = none) := by
  decide +kernel

def descUpd : List Byte := mkRec 128 [(0, 1, 3), (4, 4, 5), (8, 4, 8), (12, 1, 2), (16, 8, 0x1000), (24, 8, 0x2000), (32, 8, 0x3000),
  (40, 8, 0x4000), (48, 8, 0x5000), (56, 8, 0x6000), (64, 8, 0x7000)]
def sheafW (p : Nat) : SheafWork := ⟨0, p, List.replicate 16 0, List.replicate 16 0, List.replicate 32 0, List.replicate 32 0, List.replicate 32 0⟩
/-- Tile 0 runs an update of one sheaf of 8 parameters at step 4 in context 1; `f` changes it. -/
def upd (f : UpdRun → UpdRun) : State :=
  at_ (fun h => ({ h with wins := SMap.set Window.init [] 66 ⟨true, 0x7F, ddrBase, 0x20000, 0⟩, ctxs := ctx1 }).modTile 0 (fun t =>
    { t with upd := some (f ⟨0, 0, 0, descUpd, 1, none, 0, 1, 4, List.replicate 64 0, [], 1, [], 0, 0⟩) }))
def updAt (p : Nat) : State := upd (fun u => { u with opens := [(0, some (sheafW p))] })
/-- The writes of a phase of that sheaf go. -/
def goes (p : Nat) (f : UpdRun → SheafWork → Hw → Bool) : Bool :=
  match (updAt p).hw.openSheaf 0 0 p with
  | some (u, w) => u.stop == 0 && f u w (updAt p).hw.fresh
  | none => false
/-- Whether a write of an update goes. -/
def isOk {α : Type} : UpdRes α × Hw → Bool
  | (.ok _, _) => true
  | _ => false
theorem witness_UpdatePhasesFollowInOrder :
    (∀ p ∈ [1, 2, 3, 4], State.reset.hw.openSheaf 0 0 p = none) ∧
    (goes 1 (fun u w h => isOk (h.writeLine State.reset.ident
        { u with line := clSet u.line 0 w.sheaf recOpen (udPlanes u.desc) (udCompact u.desc && udUsesM u.desc) u.step.toNat })) = true ∧
      goes 2 (fun u w h => isOk (Hw.updWrites State.reset.ident u
        ((if udUsesM u.desc then [(udM u.desc + 1024 * mBytes (udCompact u.desc) * w.sheaf, (updSheaf u.desc u.step w).m)] else []) ++
          (if udUsesV u.desc then [(udV u.desc + 4096 * w.sheaf, (updSheaf u.desc u.step w).v)] else [])) h)) = true ∧
      goes 3 (fun u w h => isOk (Hw.updWrites State.reset.ident u [(udHigh u.desc + 2048 * w.sheaf, (updSheaf u.desc u.step w).hi),
        (udLow u.desc + 2048 * w.sheaf, (updSheaf u.desc u.step w).lo)] h)) = true ∧
      goes 4 (fun u w h => let r := h.updWrite State.reset.ident u (udStamp u.desc + 8 * w.sheaf) (toLE 8 u.step.toNat);
        isOk r && isOk (r.2.writeLine State.reset.ident { u with line := clSetState u.line 0 recDone, opens := [] })) = true) ∧
    (∀ rest ∈ [[], [3]], ((upd (fun u => { u with restore := 2 :: rest })).hw.tile 0).upd.any (fun u => u.restore == 2 :: rest &&
      (let v := { u with line := clSetState u.line 2 recFree, restore := [] }
        let (r, h₁) := (updAt 1).hw.fresh.writeLine State.reset.ident v
        isOk (r, h₁) && (Hw.recover State.reset.ident 0 rest v h₁).isOk)) = true) ∧
    (((upd id).hw.tile 0).upd.any (fun u => decide (u.first + u.count ≤ u.next)) = true ∧ (State.reset.hw.tile 0).upd = none) ∧
    (((upd (fun u => { u with next := 0 })).hw.tile 0).upd.any (fun u => u.stop == 0 && u.restore == [] && decide (u.next < u.first + u.count) &&
      clState u.line 0 != recOpen && SMap.get none u.opens 0 == none &&
      (match (upd id).hw.fresh.updRead State.reset.ident 0 u (udStamp u.desc) 8 with
        | (.ok b, h₁) =>
          let parts := bodyParts u.desc (udPlanes u.desc) (udCompact u.desc) u.next
          decide (leNat b < u.step.toNat) &&
            (match Hw.updReads State.reset.ident 0 u (parts.map (fun p => (p.2.1, p.2.2)) ++ [(udG u.desc + 4096 * u.next, 4096)]) h₁ with
              | (.ok bs, h₂) => isOk (Hw.updWrites State.reset.ident u ((parts.map (fun p => bodyAt u.desc (u.next % 4) + p.1)).zip bs) h₂)
              | _ => false)
        | _ => false)) = true) ∧
    (((upd (fun u => { u with next := 0 })).hw.tile 0).upd.any (fun u => u.stop == 0 && u.restore == [] && decide (u.next < u.first + u.count) &&
      clState u.line 0 != recOpen && SMap.get none u.opens 0 == none &&
      (match ((updAt 1).hw.fresh.modMem (fun m => m.puts (ddrBase + 0x7000) (toLE 8 4))).updRead State.reset.ident 0 u (udStamp u.desc) 8 with
        | (.ok b, _) => leNat b == u.step.toNat
        | _ => false)) = true) := by
  decide +kernel

/-! ## Witnesses: groups, memory, links -/

/-- A group record of one sharded shard at the start of window 2 of context 1, and its list at 0x40; group 2 as `f` has it. -/
def grpRec : List Byte := mkRec 64 [(1, 1, 3), (2, 2, 2), (8, 4, 5), (32, 8, 1), (40, 6, 0x40), (48, 4, 1)]
def grpShard : List Byte := mkRec 64 [(4, 4, 1024), (8, 2, 1), (16, 6, 0x1000), (22, 6, 0x2000), (58, 6, 0x3000)]
def grpSt (f : Group → Group) : State :=
  at_ (fun h => ({ h with wins := SMap.set Window.init h.wins 66 ⟨true, 0x7F, ddrBase, 0x10000, 3⟩, ctxs := ctx1, localNs := 10 ^ 12 }.modMem
    (fun m => m.puts ddrBase (grpRec ++ grpShard))).modGrp 2 f)
theorem witness_GroupsAreEnabledAndDisabledWhileIdle :
    let v : Word := 0x8001000000000002
    let w := v.toNat &&& 0x8FFFFFFFFFFFFFFF
    let tmp : Group := { Group.init with ctx := 1, win := 2 }
    let st := grpSt id
    let h₁ := (st.hw.fresh.setReg (replReg 0 2) w).grpRead st.ident tmp 0 64
    (st.hw.accelHeld = false ∧ fld w 48 12 = 1 ∧ fld w 0 6 = 2 ∧ fld w 6 42 = 0 ∧ bitAt v.toNat 63 = true ∧ (st.hw.grp 2).st = 0 ∧
      h₁.1 = some grpRec ∧ groupBad (st.hw.win 1 2) grpRec = none ∧ (h₁.2.grpRead st.ident tmp (recN grpRec 40 6) 64).1 = some grpShard ∧
      fld (recN grpRec 48 4) 0 20 = 1 ∧ shardBad 0 2 5 (st.hw.win 1 2) grpShard = none ∧ fld (recN grpRec 0 1) 0 2 = 0 ∧
      recN grpRec 2 2 = 2 ∧ recN grpRec 4 2 = 0 ∧ shardBad 0 2 0 (st.hw.win 1 2) grpShard = none) ∧
    (∀ n ∈ [1, 2, 3], ((grpSt (fun g => { g with st := n })).hw.grp 2).st = n ∧ w ≠ (grpSt (fun g => { g with st := n })).hw.reg (replReg 0 2)) ∧
    bitAt (5 : Word).toNat 63 = false := by
  decide +kernel

/-- Group 2 of two ranks, this one 0, with one shard of one block owned here or by rank 1, whose stamps are 7. -/
def dgst (n : Nat) (own : Bool) (f : Group → Group) : State :=
  let s := grpSt (fun g => f { g with st := n, step := 7, ran := true, ctx := 1, win := 2, rcd := mkRec 64 [(1, 1, 3), (2, 2, 2)]
                                      shards := [overlay grpShard 8 (toLE 2 (if own then 0 else 1))] })
  { s with hw := s.hw.modMem (fun m => m.puts (ddrBase + shOff ((s.hw.grp 2).shard 0) 6) (toLE 8 7)) }

/-- The authority is asked for block 0 of shard 0 at a step: whether its stamps are that step's, whether the digest it holds is the block's,
and whether the parts it sends are read; `auth` says it holds the digest, of this exchange or (`prev`) of the one before. -/
def serves (step stamp : Nat) (auth prev : Bool) : Option (Bool × Option (Bool × Bool)) :=
  let z := [List.replicate 2048 (0 : Byte)]
  let a : SMap (Option Nat) := if auth then [(0, some (blockDigest (overlay grpShard 8 (toLE 2 0)) 0 z))] else []
  let st := dgst 2 true (fun g => if prev then { g with prevStep := 6, prevAuth := a } else { g with auth := a })
  let st := { st with hw := st.hw.modMem (fun m => m.puts (ddrBase + shOff ((st.hw.grp 2).shard 0) 6) (toLE 8 stamp)) }
  let g := st.hw.grp 2
  match st.hw.fresh.grpRead st.ident g (shOff (g.shard 0) 6) (8 * shSheaves (g.shard 0) 0) with
  | (some x, h₁) => some ((wordsOf (shSheaves (g.shard 0) 0) x).all (· == step), (g.authOf 0 0 step).map (fun a =>
      let g' := { g with step := step }
      match h₁.readBlock st.ident g' 0 0 with
      | (some y, h₂) => (a == blockDigest (g.shard 0) 0 y, (Hw.grpReads st.ident g' (g'.refetchExts 0 0) h₂).1.isSome)
      | _ => (false, false)))
  | _ => none
theorem witness_ExchangesCompareAndEnd :
    (∀ n ∈ [0, 1, 2, 3], let st := grpSt (fun g => { g with st := n });
      (st.hw.grp 2).st = n ∧ st.hw.fab.qps = [] ∧ st.hw.fab.colls = [] ∧ (st.hw.grp 2).pendingN = 0 ∧ (st.hw.grp 2).flying = [] ∧
      (st.hw.grp 2).openAt + (st.hw.grp 2).timeout * 1000 ≤ st.hw.localNs) ∧
    (let st := grpSt (fun g => { g with st := 2, openAt := 10 ^ 12 + 1, flying := [(0, true)] });
      st.hw.localNs < (st.hw.grp 2).openAt + (st.hw.grp 2).timeout * 1000 ∧ (st.hw.grp 2).flying ≠ []) ∧
    (∀ l ∈ [5, 6], let g := (dgst 2 false (fun g => { g with loc := [(0, some l)] })).hw.grp 2;
      g.st = 2 ∧ g.step = 7 ∧ g.shards.length = 1 ∧ shNb (g.shard 0) = 1 ∧ g.replicated = false ∧ shOwner (g.shard 0) = 1 ∧ g.rank = 0 ∧ bkey 0 0 = 0 ∧
        SMap.get none g.auth 0 = none ∧ SMap.get false g.verified 0 = false ∧ SMap.get false g.flying 0 = false ∧ SMap.get false g.due 0 = false ∧
        SMap.get none g.loc 0 = some l ∧ SMap.get 0 g.tries 0 < g.refMax) ∧
    (∀ n ∈ [1, 2], let g := (dgst n true (fun x => { x with sends := [(1, ⟨7, 3, [(0, 2048)]⟩)] })).hw.grp 2;
      g.st ≠ 0 ∧ g.ran = true ∧ g.replicated = false ∧ g.recheck = false ∧ SMap.get false g.sent 0 = false ∧ shOwner (g.shard 0) = g.rank ∧
        shNb (g.shard 0) = 1 ∧ (g.sendDigest 0 0).isSome = true) ∧
    ((dgst 1 false id).hw.grp 2).st = 1 ∧ shOwner (((dgst 1 false id).hw.grp 2).shard 0) ≠ ((dgst 1 false id).hw.grp 2).rank ∧
    (serves 7 7 true false = some (true, some (true, true)) ∧ serves 6 6 true true = some (true, some (true, true)) ∧
      serves 7 8 true false = some (false, some (true, true)) ∧ serves 7 7 false false = some (true, none)) ∧
    (SMap.get false ((dgst 2 false (fun g => { g with due := [(0, true)] })).hw.grp 2).due 0 = true ∧
      SMap.get false ((dgst 2 false (fun g => { g with flying := [(0, true)] })).hw.grp 2).flying 0 = true ∧
      SMap.get false ((dgst 2 true (fun g => { g with refuse := [(0, true)] })).hw.grp 2).refuse 0 = true ∧ (2 : Nat) ≠ 0) := by
  refine ⟨?_, ?_, ?_, ?_, ?_, ?_, ?_, ?_⟩ <;> decide +kernel

/-- Bytes 0 to 63; an HBM address, its slice and line; a DDR5 address 8 bytes into a line. -/
def bs64 : List Byte := (List.range 64).map (BitVec.ofNat 8)
def hbmA : Nat := 0x101234540
def hbmK : Nat := match locate State.reset.ident (keyOf hbmA) with
  | .hbm d o => stackOf d o
  | _ => 99
def hbmL : Nat := match locate State.reset.ident (keyOf hbmA) with
  | .hbm _ o => lineInStack o
  | _ => 0
def ddrA : Nat := ddrBase + 0x1008
def lineSt_ (l : Option CellarLine) : State := at_ (fun h => h.setLine hbmK hbmL l)
theorem witness_CellarAnswersFromLineOrDram :
    (hbmK < 16 ∧ State.reset.hw.reachable State.reset.ident hbmA = true) ∧
    (∀ d ∈ [true, false], SMap.get none ((lineSt_ (some ⟨false, d, 0, bs64, false, false⟩)).hw.slice hbmK).lines hbmL =
      some ⟨false, d, 0, bs64, false, false⟩) ∧ (2 % 4 = 2 ∧ 7 % 4 ≠ 2 ∧ 7 < 8) ∧
    (SMap.get none (State.reset.hw.slice hbmK).lines hbmL = none ∧ (∃ n ∈ List.range 8, hintAlloc n = false) ∧
      State.reset.hw.memS.mem.firstBad 32 (lineKey hbmK hbmL) 64 = none) := by
  decide +kernel

theorem witness_MaintenanceKeepsMemory :
    (∀ k ∈ [0, 15], State.reset.hw.dieUp (k / 2) = true ∧ (State.reset.hw.stack k).entering = 0 ∧ (State.reset.hw.slice k).dirty = []) ∧
    (∀ n ∈ [1, 2], ((at_ (fun h => h.modStack 15 (fun x => { x with entering := n }))).hw.stack 15).entering ≠ 0) ∧
    (let st := at_ (fun h => ({ h with boot := { h.boot with scrub := [(15, 7)] } }.modStack 15 (fun x => { x with st := .online })).setRegF
        (blkBase .scrub 7) 16 1 1);
      st.hw.dieUp 7 = true ∧ (st.hw.stack 15).st = .online ∧ SMap.get 0 st.hw.boot.scrub 15 ≠ 0 ∧ st.hw.regF (blkBase .scrub 7) 16 1 = 1 ∧
        st.hw.memS.mem.bad.contains (scrubAddr 15 7) = false) ∧
    (State.reset.hw.present State.reset.ident 79 = true ∧ State.reset.hw.memS.mem.bad = [] ∧
      State.reset.hw.memS.mem.softIn 8 (granBase 79 + (granSize - 1) / 8 * 8) 8 = []) ∧
    (SMap.get none ((lineSt_ (some ⟨false, false, 0, bs64, false, false⟩)).hw.slice hbmK).lines hbmL).any (fun l => !l.dirty) = true ∧
    State.reset.hw.dieUp (hbmK / 2) = true := by
  decide +kernel

/-- A transaction is open on the line of `ddrA`, awaiting the answers `sn`; agent `ag` holds the line as `hs`. -/
def opened (ag : Nat) (hs : Option LineSt) (sn : List (Nat × Nat)) : State :=
  at_ (fun h => (h.modMemS (fun m => { m with open_ := [{ mkTxn State.reset.hw 0 7 (keyOf ddrA) 8 [] 0 (.store []) with snoops := sn }] })).setRoll (keyOf ddrA)
    { RollLine.init with hold := match hs with
        | some x => [(ag, x)]
        | none => [] })
/-- A store, an AMO, a load-reserved and a store-conditional at `ddrA`. -/
def ops8 : List CacheOp := [.store (List.replicate 56 1), .amo .max 8 (toLE 8 5), .lr 63 4, .sc 63 (toLE 8 5)]

theorem witness_BusyLinesWaitAndFree :
    (∀ ag ∈ [0, 0x50, 0x60], ∀ hs ∈ [none, some LineSt.shr, some .mod], let st := opened ag hs [];
      st.hw.agentOk st.ident ag = true ∧ st.hw.reachable st.ident ddrA = true ∧ cacheable st.ident (keyOf ddrA) = true ∧
        closedTo st.ident ag (keyOf ddrA) = false ∧ st.hw.busyLine (lineAt (keyOf ddrA)) = true ∧ (st.hw.rollLine (keyOf ddrA)).state ag = hs ∧
        ops8.all (·.fits (keyOf ddrA)) = true ∧ ops8.map (·.issuedBy ag) = [true, ag != 0, ag != 0, ag != 0]) ∧
    (let t := (opened 0 none []).hw.memS.open_;
      t.length = 1 ∧ t.all (fun t => t.lines.contains (lineAt (keyOf ddrA)) && t.snoops == []) = true ∧ (opened 0 none []).hw.memS.wait = []) ∧
    ((opened 0 none [(5, lineAt (keyOf ddrA))]).hw.memS.open_.all (fun t => t.snoops.contains (5, lineAt (keyOf ddrA)) &&
      !t.snoops.contains (6, lineAt (keyOf ddrA))) = true) := by
  decide +kernel

/-- Agents hold the line of `ddrA`. -/
def held_ (l : List (Nat × LineSt)) : State :=
  at_ (fun h => h.setRoll (keyOf ddrA) { RollLine.init with hold := l, data := if l.any (fun e => e.2 == .mod) then some bs64 else none })
theorem witness_RequestsAndEvictionsMoveTheLine :
    (∀ ag ∈ [0, 0x50, 0x5F, 0x61], let st := State.reset;
      st.hw.agentOk st.ident ag = true ∧ locate st.ident (keyOf ddrA) = .ddr (ddrA - ddrBase) ∧
        locate st.ident (lineAt (keyOf ddrA)) = .ddr ((ddrA - ddrBase) / 64 * 64) ∧ st.hw.reachable st.ident ddrA = true ∧
        closedTo st.ident ag (keyOf ddrA) = false ∧ st.hw.busyLine (lineAt (keyOf ddrA)) = false ∧ st.hw.memS.mem.bad = [] ∧ st.hw.memS.roll = [] ∧
        (st.hw.rollWays (lineAt (keyOf ddrA))).length < 16 ∧ (st.hw.rollLine (keyOf ddrA)).hold = [] ∧ cacheable st.ident (keyOf ddrA) = true ∧
        ops8.all (·.fits (keyOf ddrA)) = true ∧ ops8.map (·.issuedBy ag) = [true, ag != 0, ag != 0, ag != 0]) ∧
    (let st := held_ [(5, .shr)];
      (st.hw.rollLine (keyOf ddrA)).hold = [(5, .shr)] ∧ st.hw.memS.cacheBad = [] ∧ (st.hw.rollWays (lineAt (keyOf ddrA))).length < 16 ∧ st.hw.memS.roll.all (fun e => !e.2.bad) = true) ∧
    (∀ x ∈ [LineSt.exc, .cri, .shr, .mod], ((held_ [(0x50, x), (0x61, .shr)]).hw.rollLine (keyOf ddrA)).state 0x50 = some x ∧
      (held_ [(0x50, x), (0x61, .shr)]).hw.agentOk State.reset.ident 0x50 = true ∧ (held_ [(0x50, x), (0x61, .shr)]).hw.memS.roll.all (fun e => !e.2.bad) = true) ∧
    (((held_ [(5, .mod)]).hw.rollLine (keyOf ddrA)).hold = [(5, .mod)] ∧ ((held_ [(5, .mod)]).hw.rollLine (keyOf ddrA)).data = some bs64 ∧
      bs64.length = 64) := by
  decide +kernel

theorem witness_RollErrorFreesItsEntry :
    ∀ ag ∈ [0, 0x50, 0x5F, 0x61], ∀ l ∈ [[(5, LineSt.mod)], [(5, .shr), (6, .cri)], [(7, .exc)]], let st := held_ l;
      let r := st.hw.rollLine (keyOf ddrA);
      st.hw.agentOk st.ident ag = true ∧ locate st.ident (keyOf ddrA) = .ddr (ddrA - ddrBase) ∧
        locate st.ident (lineAt (keyOf ddrA)) = .ddr ((ddrA - ddrBase) / 64 * 64) ∧ st.hw.reachable st.ident ddrA = true ∧
        st.hw.busyLine (lineAt (keyOf ddrA)) = false ∧ st.hw.memS.mem.bad = [] ∧ st.hw.memS.roll.all (fun e => !e.2.bad) = true ∧
        st.hw.settled = true ∧ ((st.hw.rollWays (lineAt (keyOf ddrA))).filter (· != lineAt (keyOf ddrA) / 64)).length < 16 ∧ st.hw.memS.cacheBad = [] ∧ r ≠ RollLine.init ∧ r.state ag = none ∧ r.data.all (fun d => d.length == 64) = true := by
  decide +kernel

theorem witness_NoncachingAccesses :
    State.reset.hw.memS.roll = [] ∧
    (∀ e ∈ [(ddrA / 64 * 64, 64), (ddrA, 8), (ddrA + 4, 4), (ddrA / 64 * 64 + 63, 1)], let st := State.reset;
      e.1 % 64 + e.2 ≤ 64 ∧ keyOf e.1 = e.1 ∧ locate st.ident e.1 = .ddr (e.1 - ddrBase) ∧ st.hw.reachable st.ident e.1 = true ∧
        closedTo st.ident 0 e.1 = false ∧ (st.hw.rollLine e.1).hold = [] ∧ st.hw.busyLine (lineAt e.1) = false ∧ st.hw.memS.mem.bad = []) ∧
    ddrA % 8 = 0 ∧ (ddrA + 4) % 4 = 0 ∧ leNat (State.reset.hw.memS.mem.bytes ddrA 8) ≠ recN (toLE 16 5) 0 8 ∧
      leNat (State.reset.hw.memS.mem.bytes ddrA 8) = recN (toLE 16 0) 0 8 ∧ (toLE 16 0).length = 16 := by
  decide +kernel

/-- A die link's end `k` and the other, in state `n`, with `a` failed attempts and `sp` spares in use; the far end has sent the flits `rep` and
sends `tx` next. -/
def site_ (k n a sp tx : Nat) (rep : List Nat) : State :=
  at_ (fun h => ({ h with localNs := 10 ^ 12 }.modSite k (fun x => { x with st := n, attempts := a, spares := sp })).modSite (sitePeer k) (fun x =>
    { x with st := n, attempts := a, txSeq := tx, replay := rep }))

theorem witness_DieLinksNakRetrainAndCalibrate :
    (∀ k ∈ [3, 30, 32, 39], siteUsed k = true ∧ ((site_ k 2 0 0 0 []).hw.site k).st = 2 ∧ ((site_ k 2 0 0 0 []).hw.site k).exp = 0 ∧
      (((site_ k 2 0 0 0 (List.range 255)).hw.site (sitePeer k)).sends (512 % 512)).isSome = true ∧
      (((site_ k 2 0 0 6 [5]).hw.site (sitePeer k)).sends (517 % 512)).isSome = true ∧ 517 % 512 ≠ 0 ∧
      ((site_ k 2 0 0 0 []).hw.site (sitePeer k)).sends 511 = none ∧ ((site_ k 3 0 0 0 []).hw.site k).st ≠ 2) ∧
    ((site_ 30 2 0 0 0 []).hw.site 30).st = 2 ∧
    (∀ n ∈ [1, 3], ∀ a ∈ [6, 7], ((site_ 30 n a 0 0 []).hw.site 30).st = n ∧ ((site_ 30 n a 0 0 []).hw.site 30).attempts = a ∧
      ((site_ 39 n a 0 0 []).hw.site 39).attempts = a ∧ (30 < 32 ∧ sitePeer 30 < 32) ∧ 39 = 32 + 7) ∧
    (∀ sp ∈ [15, 16], (site_ 39 2 0 sp 0 []).hw.calibrates 39 4 = true ∧ ((site_ 39 2 0 sp 0 []).hw.site 39).spares = sp ∧
      SMap.get 0 ((site_ 39 2 0 sp 0 []).hw.site 39).calAt 4 + max 1 ((site_ 39 2 0 sp 0 []).hw.regF (siteCal 39) 0 16) * 1000 ≤ (site_ 39 2 0 sp 0 []).hw.localNs ∧
      ({ site_ 39 2 0 sp 0 [] with hw := { (site_ 39 2 0 sp 0 []).hw with localNs := 0 } }).hw.localNs < 0 + max 1 ((site_ 39 2 0 sp 0 []).hw.regF (siteCal 39) 0 16) * 1000) := by
  decide +kernel

/-! ## Witnesses: the carters -/

def wNet : Window := ⟨true, 0x7F, ddrBase, 0x10000, 3⟩
def aNet : List Byte := mkRec 64 [(0, 4, 6 + 2 ^ 20), (4, 4, 7 + 2 * 2 ^ 20 + 2 ^ 24), (8, 4, 9), (12, 1, 0), (15, 1, 0x33)]
def qNet : Qp := { Qp.init with st := 1, attr := aNet, exp := 5, una := 2, nextPsn := 4, cwnd := 65536 }
/-- Queue pair 3 on link 0 of carter 0, in context 1 with window 2. -/
def net (f : Qp → Qp) (g : Hw → Hw) : State :=
  at_ (fun h => g ({ h with wins := SMap.set Window.init h.wins 66 wNet, ctxs := SMap.set Ctx.init h.ctxs 1 { Ctx.init with st := 1 },
                            localNs := 10 ^ 9, bellNs := 777 }.modFab (fun x =>
    { x with qps := [(3, some (f qNet))], links := [(0, { Link.init with st := 2 })] })))
/-- Work request `w` at the head of the ring of queue `q`. -/
def netWr (q kind : Nat) (w : List Byte) (f : Qp → Qp) : State :=
  net f (fun h => (h.setQ State.reset.ident q ⟨kind, 2, 2, 1, 1, 0, 0x8000, 0, 1, 0, 0, 0⟩).modMem (fun m => m.puts (ddrBase + 0x8000) w))
def wrOf (op len : Nat) : List Byte := mkRec 64 [(0, 1, op), (1, 1, 1), (4, 4, len), (8, 1, 2), (16, 8, 0x200), (48, 8, 0x77)]
/-- A COLL request of `kind` over 4 elements of FP32 in group 5, its rank map at offset 0x400. -/
def wrColl (kind : Nat) : List Byte :=
  mkRec 64 [(0, 1, 0xC), (1, 1, 1), (8, 1, 2), (9, 1, 2), (16, 8, 0x200), (24, 8, 0x600), (32, 1, 5), (33, 1, kind), (36, 4, 4), (40, 8, 0x400), (48, 8, 0x77)]
/-- Group 5, of two, at rank 0; its map names queue pair 3 at rank 1. -/
def netColl (kind : Nat) (f : Qp → Qp) (g : Hw → Hw) : State :=
  let s := netWr 3 1 (wrColl kind) f
  { s with hw := g ((s.hw.modMem (fun m => (m.puts (ddrBase + 0x400) (toLE 4 0 ++ toLE 4 3)).puts (ddrBase + 0x200) (toLE 4 0x3F800000))).modGrp 5
    (fun x => { x with st := 1, ctx := 1, rcd := mkRec 64 [(2, 2, 2)] })) }

/-- A packet at PSN `psn` for queue pair 3, with the headers its opcode calls for: 16 bytes at offset 64 of window 2. -/
def pk (op psn : Nat) : Pkt :=
  { Pkt.mk0 op 3 psn 44 with
      reth := if op = 1 ∨ op = 2 then some (2, 3, 64, 16) else if op = 4 ∨ op = 5 then some (2, 3, 64, 8) else none
      ateth := if op = 4 ∨ op = 5 then some (1, 2) else none
      clth := if op = 0xC then some (1, 0, 1, 2, 0, 0) else if op = 0xD then some (1, 1, 0, 2, 2, 0) else none
      payload := if op = 1 then toLE 16 7 else if op = 0 then toLE 4 7 else if op = 0xB then toLE 8 9 else if op = 0xC ∨ op = 0xD then toLE 4 0x3F800000 else [] }
theorem witness_FramesAreCheckedBeforeDelivery :
    (∀ p ∈ [0, 15], ∀ l ∈ [0, 7], State.reset.hw.linkUp (8 * p + l) = false) ∧ (net id id).hw.linkUp 0 = true ∧
    (let st := net id (fun h => h.modFab (fun x => { x with black := [(State.reset.hw.partner 0 0 9, 10 ^ 12)] }));
      st.hw.linkUp 0 = true ∧ st.hw.blacklisted (st.hw.partner 0 0 9) = true ∧ (pk 1 5).frame = 0 ∧ (pk 1 5).tooLong (st.hw.portMode 0 == 1) = false) ∧
    ((net id id).hw.hears 0 0 9 { pk 1 5 with reth := none } ∧ (net id id).hw.qp 3 = some qNet ∧ qNet.st = 1 ∧ qNet.plink = 8 * 0 + 0 ∧ qNet.alt = false ∧
      { pk 1 5 with reth := none }.hdrOk qNet = false) ∧
    (∀ op ∈ [0, 1, 2, 4, 5, 7, 0xB, 0xC, 0xD], ∀ d ∈ [1, qNet.limit - 1, qNet.limit, 4095],
      (net id id).hw.reaches 0 0 9 (pk op (5 + d)) qNet ∧ (pk op (5 + d)).sequenced = true ∧ pd (5 + d) qNet.exp = d ∧ qNet.rx = [] ∧ qNet.limit < 4095) ∧
    (∀ n ∈ [1, 2], (recentMs 1000000000 (List.replicate n 999999999)).length = n) := by
  simp only [Hw.reaches, Hw.hears]
  decide +kernel

/-- A receive request of 100 bytes. -/
def wrRecv : List Byte := mkRec 64 [(0, 1, 8), (4, 4, 100), (8, 1, 2), (16, 8, 0x200), (48, 8, 0x77)]
/-- A collective of group 5 of two ranks, this one 0. -/
def coll5 (kind : Nat) : Coll := ⟨3, wrColl kind, 2, 0, 1, [0, 3], [], [], if kind = 0 then 2 else 4, 1, [], []⟩
def collSt (kind : Nat) : State := netColl kind id (fun h => h.setColl 5 (some (coll5 kind)))
theorem witness_RequestsAreServedInOrder :
    (∀ op ∈ [0, 1, 2, 4, 5, 7, 0xB, 0xC, 0xD], (net id id).hw.reaches 0 0 9 (pk op 5) qNet ∧ (pk op 5).psn = qNet.exp ∧ qNet.exp < 2 ^ 24 ∧
      qNet.rx = [] ∧ 1 ≤ qNet.limit ∧ (net id id).hw.csnOk qNet (pk op 5) = true) ∧
    (((net id id).hw.remote qNet (2, 3, 64, 16) rRemWrite).any (fun a => (net id id).hw.takes State.reset.ident a 16) = true ∧ (pk 1 5).payload.length ≤ 16 ∧
      (net id id).hw.remote qNet (2, 4, 64, 16) rRemWrite = none) ∧
    (recN wrRecv 0 1 = 8 ∧ 0 + (pk 0 5).payload.length ≤ recN wrRecv 4 4 ∧
      ((net id id).hw.local_ qNet 2 rWrite (0x200 + 0) 4).any (fun a => (net id id).hw.takes State.reset.ident a 4) = true ∧
      fld (recN wrRecv 8 1) 0 6 = 2 ∧ fld (recN wrRecv 16 8) 0 48 = 0x200 ∧ qNet.posted = []) ∧
    ((net id id).hw.clean = true ∧ ((net id id).hw.remote qNet (2, 3, 64, 16) rRemRead).any (fun a => (net id id).hw.answers State.reset.ident a 16) = true ∧
      ((net id id).hw.remote qNet (2, 3, 64, 8) rRemAtomic).any (fun a => cacheable State.reset.ident (keyOf a) &&
        (net id id).hw.takes State.reset.ident a 8 && (match locate State.reset.ident a with
          | .ddr _ => keyOf a == a
          | _ => false) && (net id id).hw.settled && ((net id id).hw.rollLine a).hold == []) = true) ∧
    (qNet.leaseOk = true ∧ (net id id).hw.fab.epoch < recN (pk 0xB 5).payload 0 8 ∧ { qNet with attr := List.replicate 64 0 }.leaseOk = false ∧
      (net id (fun h => h.setReg leaseReg (2 ^ 63 + 50))).hw.leaseOn = true ∧ (net id id).hw.shadow = []) ∧
    ((collSt 0).hw.reaches 0 0 9 (pk 0xC 5) qNet ∧ (collSt 0).hw.collOf 3 1 = .take 5 (coll5 0) 1 ∧ reduceOk (coll5 0) 1 (1, 0, 1, 2, 0, 0) 4 = true ∧
      (collSt 0).hw.fab.colls = [(5, some (coll5 0))] ∧ (coll5 0).left ≠ 0) ∧
    ((collSt 1).hw.collOf 3 1 = .take 5 (coll5 1) 1 ∧ gatherOk (coll5 1) 1 (1, 1, 0, 2, 2, 0) 4 = some 8 ∧ 4 / collOut (wrColl 1) < (coll5 1).left ∧
      ((collSt 1).hw.through 1 2 rWrite (fld (recN (wrColl 1) 24 8) 0 48 + 8) 4).any (fun a =>
        (collSt 1).hw.repl.all (fun e => !(collSt 1).hw.gatherHeld e.1 a 4) && (collSt 1).hw.takes State.reset.ident a 4) = true) ∧
    ((netColl 0 id id).hw.reaches 0 0 9 (pk 0xC 5) qNet ∧ (netColl 0 id id).hw.collOf 3 1 = .wait) := by
  simp only [Hw.reaches, Hw.hears]
  refine ⟨?_, ?_, ?_, ?_, ?_, ?_, ?_, ?_⟩ <;> decide +kernel

/-- A packet sent and not acknowledged. -/
def tx (psn : Nat) : TxPkt := ⟨pk 1 psn, 1, false, some 100, false⟩
theorem witness_TimersAndReleasesKeepTheTransport :
    (State.reset.hw.qp 3 = none ∧ (net (fun q => { q with bad := true }) id).hw.qp 3 = some { qNet with bad := true } ∧ qNet.bad = false) ∧
    ((net id id).hw.qp 3 = some qNet ∧ qNet.st = 1 ∧ qNet.rx = [] ∧ (net id id).hw.fab.colls = []) ∧
    (∀ op ∈ [7, 1], ∀ b ∈ [true, false], let q := { qNet with rx := [⟨pk op 5, b⟩] };
      (net (fun q => { q with rx := [⟨pk op 5, b⟩] }) id).hw.qp 3 = some q ∧ (pk op 5).psn = q.exp ∧ (net id id).hw.csnOk q (pk op 5) = true ∧
        (net id id).hw.linkUp q.link = true ∧ q.txq = [] ∧
        ((net id id).hw.remote q (2, 3, 64, 16) rRemWrite).any (fun a => ((net id id).hw.fresh.ncWrite State.reset.ident hintIn false a (toLE 16 7)).1 == none) = true) ∧
    (∀ t ∈ [10 ^ 9 - 2000, 10 ^ 9 - 1999], (net (fun q => { q with accAt := some t, accN := 3 }) id).hw.qp 3 = some { qNet with accAt := some t, accN := 3 }) ∧
    (∀ n ∈ [0, 1, 2], let q := { qNet with out := [tx 2], nextPsn := 3, timeouts := n };
      q.out ≠ [] ∧ q.rnrAt = none ∧ q.adv + max 1 ((net id id).hw.regF (carterReg q.carter 0x208) 0 16) * 1000 ≤ 10 ^ 9 ∧
        (net id id).hw.classOpen q q.fc = true ∧ (tx 2).resp = false ∧ (q.retryMax ≤ q.timeouts + 1 ↔ n = 2)) ∧
    (let st := net (fun q => { q with adv := 10 ^ 9 - 1 }) (fun h => h.setReg (carterReg 0 0x220) 0);
      st.hw.localNs < 10 ^ 9 - 1 + max 1 (st.hw.regF (carterReg 0 0x208) 0 16) * 1000 ∧ st.hw.classOpen qNet 7 = false) ∧
    3 + (net id id).hw.regF (carterReg 0 0x208) 16 16 * 1000 ≤ 10 ^ 9 ∧
    (let q := { qNet with txq := [tx 4, tx 5], cwnd := 1024, rtt := 100 };
      ((net (fun _ => q) id).hw.txHead q true).isSome = true ∧ q.paced + 100 * 2048 / 1024 ≤ 10 ^ 9 ∧
        10 ^ 9 < { q with paced := 10 ^ 9 - 199 }.paced + 100 * 2048 / 1024) := by
  decide +kernel

def wrGet (op len : Nat) (got : List Nat) : WorkReq := ⟨0, wrOf op len, 2, (len + 2047) / 2048, got, false⟩
/-- Two WRITE requests at PSN 2 to 5, all four packets sent. -/
def qSent : Qp := { qNet with wrs := [⟨0, wrOf 1 5000, 2, 3, [], false⟩, ⟨1, wrOf 1 100, 5, 1, [], false⟩], nextPsn := 6, out := [tx 2, tx 3, tx 4, tx 5] }
def ans (op psn r : Nat) : Pkt := { Pkt.mk0 op 3 psn 44 with aeth := some (0, 99, r) }
theorem witness_AnswersCompleteRequests :
    (∀ e ∈ [(3, 2, 5000, [0]), (3, 2, 5000, [0, 2]), (3, 2, 5000, [0, 1]), (6, 4, 8, []), (6, 5, 8, [])],
      let q := { qNet with wrs := [wrGet e.2.1 e.2.2.1 e.2.2.2], nextPsn := 5 };
      let p := { Pkt.mk0 e.1 3 (if e.1 = 3 then 3 else 2) 44 with payload := List.replicate (if e.1 = 3 then 2048 else 8) 7 };
      (net (fun _ => q) id).hw.reaches 0 0 9 p q ∧ pd p.psn 2 < (wrGet e.2.1 e.2.2.1 e.2.2.2).span ∧ recN (wrOf e.2.1 e.2.2.1) 0 1 = e.2.1 ∧
        ((net (fun _ => q) id).hw.local_ q 2 rWrite (0x200 + 2048 * pd p.psn 2) p.payload.length).any (fun a =>
          (net (fun _ => q) id).hw.takes State.reset.ident a p.payload.length) = true) ∧
    (∀ e ∈ [(8, 5, 0), (9, 4, 4), (9, 4, 5), (9, 2, 6), (9, 4, 1), (9, 4, 7), (10, 2, 1)], (net (fun _ => qSent) id).hw.reaches 0 0 9 (ans e.1 e.2.1 e.2.2) qSent ∧
      qSent.sentPsn e.2.1 = true ∧ pd e.2.1 qSent.una < 2 ^ 23 ∧ (e.2.2 ≠ 6 → e.1 ≠ 10 → 0 < pd e.2.1 qSent.una)) ∧
    ({ qSent with una := 5 }.acked 2 3 = true ∧ bitAt (recN (wrOf 1 5000) 1 1) 0 = true ∧ qSent.rnrs + 1 < qSent.rnrMax ∧
      ¬ ({ qSent with rnrs := 2 }.rnrs + 1 < qSent.rnrMax)) := by
  simp only [Hw.reaches, Hw.hears]
  decide +kernel

/-- Link 0 of carter 0 holds since 10⁹ ns, at local time `ns`. -/
def holding (ns : Nat) (g : Hw → Hw) : State :=
  net id (fun h => g ({ h with localNs := ns }.modFab (fun x => { x with links := [(0, { Link.init with st := 3, since := 10 ^ 9 })] })))
/-- Carter 0's port in its mode 0, its lamp lit. -/
def portOn (h : Hw) : Hw :=
  ((h.setRegF (carterReg 0 0) 0 2 0).modLamp 0 (fun l => { l with st := 4, phase := 0 })).modBoot (fun b => { b with phase := 8 })

/-- The lease is armed, with HOST, until `t`. -/
def leased (t : Nat) : State :=
  net id (fun h => (h.setReg leaseReg (2 ^ 63 + 2 ^ 62 + 50)).modFab (fun f => { f with leaseAt := t, leaseSt := 1 }))
theorem witness_FabricLinksAndTheLeaseRunTheirTime :
    ((net id portOn).hw.linkUp 0 = true ∧ (net id portOn).hw.portMode 0 = 0 ∧ (at_ portOn).hw.linkUp 0 = false ∧ (at_ portOn).hw.portMode 0 < 2 ∧
        0 < (at_ portOn).hw.portLinks 0 ∧ (at_ portOn).hw.optics 0 = true ∧ (net id portOn).hw.blacklisted 0 = false ∧
        (net id (fun h => (portOn h).modFab (fun x => { x with black := [(0, 10 ^ 12)] }))).hw.blacklisted 0 = true ∧
        State.reset.hw.linkUp 127 = false ∧ 2 ≤ State.reset.hw.portMode 15 ∧ State.reset.hw.optics 15 = false) ∧
    (let due := 10 ^ 9 + State.reset.hw.regF (carterReg 0 0x208) 56 8 * 1000;
      10 ^ 9 < due ∧ ((holding due id).hw.flink 0).st = 3 ∧ ((holding due id).hw.flink 0).since = 10 ^ 9 ∧ (holding due id).hw.qp 3 = some qNet ∧ qNet.st = 1 ∧
        qNet.link = 0 ∧ qNet.altEn = false) ∧
    (∀ v ∈ [2 ^ 63, 2 ^ 63 + 0xFFFFFFFF], bitAt (BitVec.ofNat 64 v).toNat 63 = true) ∧ State.reset.hw.shadow = [] ∧
    ((leased 1000000000).hw.leaseOn = true ∧ (leased 1000000000).hw.fab.leaseAt ≤ (leased 1000000000).hw.localNs ∧
      (leased 1000000000).hw.regF leaseReg 62 1 = 1 ∧ (leased 1000000001).hw.localNs < (leased 1000000001).hw.fab.leaseAt ∧
      (leased 1000000000).hw.power.sev ≤ 3 ∧ 3 < ({ (leased 1000000000).hw.power with sev := 4 } : Power).sev) := by
  decide +kernel

/-- The module once the carter has taken the request at the head of queue `q`, and whether it then reads `n` bytes at `a`. -/
def taken (st : State) (q k : Nat) : Hw := (st.hw.fresh.wrHead st.ident q k).2.wrTake st.ident q
def takenReads (st : State) (a n : Nat) : Bool :=
  ((taken st 3 1).carterRead st.ident qNet.carter qNet.ctx a n).1.isSome
theorem witness_WorkRequestsStart :
    (∀ e ∈ [(0, 0), (0, 5000), (1, 5000), (2, 5000), (4, 8), (5, 8), (7, 0)], let w := wrOf e.1 e.2;
      let st := netWr 3 1 w id;
      st.hw.qp 3 = some qNet ∧ (st.hw.fresh.wrHead st.ident 3 1).1 = some w ∧ wrOk false w = true ∧ wrOp w = e.1 ∧ bitAt (recN w 1 1) 1 = false ∧
        (wrLen w = 0 ∨ ((taken st 3 1).local_ qNet (wrLwin w) rRead (wrLoff w) (wrLen w)).any (fun a => takenReads st a (wrLen w)) = true ∧
          ((taken st 3 1).local_ qNet (wrLwin w) rWrite (wrLoff w) (max 8 (wrLen w))).isSome = true)) ∧
    (∀ op ∈ [0, 1, 2, 4, 5, 7, 0xC], let w := overlay (wrOf op 100) 2 [1];
      ((netWr 3 1 w id).hw.fresh.wrHead State.reset.ident 3 1).1 = some w ∧ wrOk false w = false ∧ wrOp w = op ∧
        (netWr 3 1 w id).hw.coll (fld (recN w 32 1) 0 6) = none) ∧
    (((netWr 3 1 (wrOf 3 100) id).hw.fresh.wrHead State.reset.ident 3 1).1 = some (wrOf 3 100) ∧ wrOp (wrOf 3 100) ∉ sendOps) ∧
    (let w := overlay (wrOf 1 100) 1 [3];
      ((netWr 3 1 w id).hw.fresh.wrHead State.reset.ident 3 1).1 = some w ∧ bitAt (recN w 1 1) 1 = true ∧
        { qNet with wrs := [wrGet 2 8 []] }.wrs.any (fun x => [2, 4, 5].contains (wrOp x.wr)) = true) ∧
    (let w := wrOf 8 100;
      ((netWr 6 2 w id).hw.fresh.wrHead State.reset.ident qNet.rq 2).1 = some w ∧ wrOk true w = true ∧
        ((taken (netWr 6 2 w id) 6 2).local_ qNet (wrLwin w) rWrite (wrLoff w) (wrLen w)).isSome = true ∧ wrOk true (overlay w 2 [1]) = false) ∧
    ((netWr 3 1 (wrOf 1 100) id).hw.accelHeld = false ∧ (net id (fun h => h.modBoot (fun b => { b with fallow := 2 }))).hw.accelHeld = true) := by
  decide +kernel

/-- Both operands of the node (0, 2) of segment 0 in a collective of `n` ranks. -/
def collOps (kind n k : Nat) : Coll :=
  let x := pairsOf false ((toLE 4 0x3F800000 ++ toLE 4 0x40000000).take (4 * k))
  ({ coll5 kind with n := n, map := if n = 4 then [0, 3, 3, 3] else [0, 3], left := 4 }.put (nodeKey 0 0 1) 0 x).put (nodeKey 0 1 2) 0 x
/-- The same of the node (2, 4) of segment 0, combined at rank 2 of four, whose parent is combined at rank 0. -/
def collFar : Coll :=
  let x := pairsOf false (toLE 4 0x3F800000)
  ({ coll5 0 with n := 4, r := 2, map := [3, 3, 0, 3], left := 4 }.put (nodeKey 0 2 3) 0 x).put (nodeKey 0 3 4) 0 x
/-- The carter reads the map of a collective, and the operands that its kind reads, once it has taken the request. -/
def collReads (kind : Nat) : Bool :=
  let w := wrColl kind
  let st := netColl kind id id
  let seg := segOf (collE w) 2 0
  ((taken st 3 1).local_ qNet (wrLwin w) rRead (recN w 40 8) 8).any (fun ma =>
    ((taken st 3 1).local_ qNet (wrLwin w) rRead (wrLoff w) (collE w * collIn w)).any (fun ia =>
      match (taken st 3 1).carterRead st.ident qNet.carter qNet.ctx ma 8 with
      | (some mb, h₁) => (List.range 2).map (fun k => recN mb (4 * k) 4) == [0, 3] &&
          (if kind = 2 then seg.2 * collIn w == 0 || (h₁.carterRead st.ident qNet.carter qNet.ctx (ia + seg.1 * collIn w) (seg.2 * collIn w)).1.isSome
           else (h₁.carterRead st.ident qNet.carter qNet.ctx ia (collE w * collIn w)).1.isSome)
      | _ => false))
theorem witness_CollectivesRun :
    (∀ kind ∈ [0, 1, 2], let w := wrColl kind;
      let st := netColl kind id id;
      st.hw.qp 3 = some qNet ∧ (st.hw.fresh.wrHead st.ident 3 1).1 = some w ∧ wrOp w = 0xC ∧ wrOk false w = true ∧ bitAt (recN w 1 1) 1 = false ∧
        st.hw.coll 5 = none ∧ (collSt kind).hw.coll 5 ≠ none ∧ (st.hw.grp 5).st = 1 ∧ (st.hw.grp 5).ctx = qNet.ctx ∧ (st.hw.grp 5).size = 2 ∧
        ((taken st 3 1).local_ qNet (wrRwin w) rWrite (wrRoff w) (collE w * collOut w)).isSome = true ∧ st.hw.mapOk 1 0 [0, 3] = true ∧ collReads kind = true ∧
        ((netColl kind id (fun h => h.modGrp 5 (fun g => { g with ctx := 2 }))).hw.grp 5).ctx ≠ qNet.ctx) ∧
    (∀ kind ∈ [0, 1], let c := collOps kind 2 2;
      collKind c.wr < 2 ∧ (0 + 0) % c.n = c.r ∧ c.left ≠ 0 ∧ min 512 (segOf (collE c.wr) c.n 0).2 = 2 ∧ splitOf 0 2 = 1 ∧
        (∀ i < 2, (SMap.get none (SMap.get [] c.ops (nodeKey 0 0 1)) i).isSome = true ∧ (SMap.get none (SMap.get [] c.ops (nodeKey 0 1 2)) i).isSome = true) ∧
        SMap.get none (SMap.get [] (coll5 kind).ops (nodeKey 0 0 1)) 0 = none) ∧
    (let c := collOps 0 4 1;
      min 512 (segOf (collE c.wr) c.n 0).2 = 1 ∧ ¬ (0 = 0 ∧ 2 = c.n) ∧ (parentOf 17 0 c.n 0 2).any (fun pr => (pr.1 + 0) % c.n == c.r) = true ∧
        (SMap.get none (SMap.get [] c.ops (nodeKey 0 0 1)) 0).isSome = true ∧ (SMap.get none (SMap.get [] c.ops (nodeKey 0 1 2)) 0).isSome = true) ∧
    (let c := collFar;
      (2 + 0) % c.n = c.r ∧ min 512 (segOf (collE c.wr) c.n 0).2 = 1 ∧ splitOf 2 4 = 3 ∧
        (parentOf 17 0 c.n 2 4).any (fun pr => (pr.1 + 0) % c.n != c.r && c.map[(pr.1 + 0) % c.n]? == some 3) = true ∧ (net id id).hw.qp 3 = some qNet ∧
        (SMap.get none (SMap.get [] c.ops (nodeKey 0 2 3)) 0).isSome = true ∧ (SMap.get none (SMap.get [] c.ops (nodeKey 0 3 4)) 0).isSome = true) := by
  decide +kernel

/-! ## Witnesses: queues, the bell, the mill -/

/-- Queue 40 as given, completing into queue 41, whose HEAD is 0 and TAIL `tail`, in state `cqst`; a completion of queue 40 waits. -/
def qsSt (kind tail cqst : Nat) : State :=
  net id (fun h => { (h.setQ State.reset.ident 40 ⟨kind, 2, 2, 1, 1, 0, 0, 0, 1, 41, 7, 9⟩).setQ State.reset.ident 41
    ⟨3, 2, 2, cqst, 1, 0, 0x1000, 0, tail, 0, 0, 0⟩ with compl := [⟨40, toLE 32 0x1234⟩] })
theorem witness_QueuesMoveTheirIndices :
    ((qsSt 0 3 1).hw.quiet = true ∧ (qsSt 0 3 1).hw.settled = true ∧ (qsSt 0 3 1).hw.clean = true ∧ (qsSt 0 3 1).hw.inReset = false ∧
      ((at_ (fun h => h.modBoot (fun b => { b with mrst := true }))).hw.inReset = true) ∧ ((at_ id).hw.q State.reset.ident 40).st = 0) ∧
    (let d := (qsSt 0 3 1).hw.q State.reset.ident 40;
      d.st = 1 ∧ d.kind = 0 ∧ d.x = 1 ∧ sub32 1 d.x = 0 ∧ 2 ^ 31 ≤ sub32 0 d.x ∧ sub32 4 d.x = 3 ∧ sub32 4 d.head ≤ 2 ^ d.log2n ∧
        2 ^ d.log2n < sub32 5 d.head) ∧
    (let d := (qsSt 3 3 1).hw.q State.reset.ident 40;
      d.kind = 3 ∧ sub32 1 d.x ≠ 0 ∧ sub32 1 d.x < 2 ^ 31 ∧ sub32 d.tail 1 < 2 ^ 31) ∧
    ((qsSt 0 3 1).hw.compl.find? (·.prod == 40) = some ⟨40, toLE 32 0x1234⟩) ∧
    (∀ tail ∈ [3, 4], let cq := (qsSt 0 tail 1).hw.q State.reset.ident 41;
      cq.st = 1 ∧ cq.kind = 3 ∧ (qsSt 0 tail 1).hw.ringOk cq = true ∧ (2 ^ cq.log2n ≤ cq.depth ↔ tail = 4) ∧
        ((qsSt 0 tail 1).hw.fresh.ncWrite State.reset.ident 0 false ((qsSt 0 tail 1).hw.slotAddr cq cq.tail) (toLE 32 0x1234)).1 = none) ∧
    ((qsSt 0 3 2).hw.q State.reset.ident 41).st ≠ 1 ∧ (qsSt 0 3 2).hw.fab.qps.all (fun e => e.1 != 40 && e.2.all (fun y => y.rq != 40)) = true := by
  decide +kernel

/-- Bell time and local time as given, with link 0 of carter 0 up. -/
def bellAt (t : Nat) (g : Hw → Hw) : State :=
  at_ (fun h => g ({ h with bellNs := t, localNs := 5 * 10 ^ 9 }.modFab (fun x => { x with links := [(0, { Link.init with st := 2 })] })))
/-- Entry 5 holds action `act` with argument `arg`, due at 1,000. -/
def entry5 (act arg : Nat) (armed : Bool) (t : Nat) (g : Hw → Hw) : State :=
  bellAt t (fun h => g (((h.setReg (eDue 5) 1000).setReg (eCtrl 5) (act * 2 ^ 32 + 2 ^ 62 + if armed then 2 ^ 63 else 0)).setReg (eArg 5) arg))
/-- A chute record: two slots of 2,048 bytes a batch, two reject entries, two batches; hopper in window 1, ring of 16 in window 2 at 0x4000. -/
def chuteRec (ordered : Bool) : List Byte :=
  mkRec 128 [(0, 1, if ordered then 1 else 0), (1, 1, 4), (4, 4, 2 ^ 20), (8, 2, 2), (10, 2, 2), (12, 2, 2), (16, 1, 1), (17, 1, 2), (18, 1, 4),
    (20, 4, 1), (32, 6, 0x4000), (40, 4, 10), (48, 4, 40)]
/-- A sample record of a 2 × 2 RGB picture at 0x6000 of window 2. -/
def sampleRec (len : Nat) : List Byte := mkRec 64 [(0, 8, 0xABCD), (8, 4, 5), (12, 1, 4), (13, 1, 2), (16, 6, 0x6000), (24, 4, len), (28, 2, 2), (30, 2, 2)]
/-- Context 1 with window 1 in HBM and 2 in DDR5, queue 40 its own, the chute record at the start of window 2 and two sample records in the ring. -/
def mill (ordered : Bool) (g : Hw → Hw) : State :=
  let wins := SMap.set Window.init (SMap.set Window.init [] 65 ⟨true, 0x7F, 0x100000000, 0x100000, 0⟩) 66 ⟨true, 0x7F, ddrBase, 0x10000, 0⟩
  bellAt 1000 (fun h => g (({ h with wins := wins, ctxs := ctx1 }.setQ State.reset.ident 40 ⟨0, 2, 2, 1, 1, 0, 0x8000, 0, 0, 41, 0, 0⟩).modMem (fun m =>
    (m.puts ddrBase (chuteRec ordered)).puts (ddrBase + 0x4000) (sampleRec 12 ++ sampleRec 11))))
/-- Chute 3 runs, with a batch being filled and `t` records posted. -/
def chuteOn (ordered : Bool) (t : Nat) (f : Chute → Chute) : State :=
  mill ordered (fun h => (h.modChute 3 (fun _ => f { Chute.init with on := true, rcd := chuteRec ordered, ctx := 1, inBatch := true })).setRegF
    (millReg 3 0x10) 32 32 t)

/-- A source, a slew and a lock; the rings at the start of DDR5, indices as given, transmit entry 0 of `len` bytes. -/
def bellSt (cfg : Nat) (slew : Int) (lock : Nat) (quiet : Nat) : State :=
  bellAt 100000 (fun h => { h.setReg (bellReg 0x18) cfg with bell := { h.bell with slew, lock, seen := true, quietAt := quiet } })
def ptpSt (tx rx head len : Nat) : State :=
  bellAt 100000 (fun h => { (((h.setReg (bellReg 0x48) (2 ^ 63 + (ddrBase / 65536) * 2 ^ 16)).setReg (bellReg 0x50) (rx * 2 ^ 32 + tx * 2 ^ 16)).modMem
    (fun m => m.puts (ddrBase + 0x8000) (mkRec 256 [(11, 1, 3), (12, 2, len), (32, 8, 0x123456789AB), (40, 8, 0xAABB)]))) with
      bell := { h.bell with rxHead := head } })
theorem witness_BellTimeIsCorrectedAndCarried :
    ((bellAt 5 id).hw.inReset = false ∧ (bellAt 5 (fun h => h.modBoot (fun b => { b with extest := true }))).hw.inReset = true) ∧
    (let st := bellSt 1000 0 0 0;
      fld (st.hw.reg (bellReg 0x18)) 0 32 = 1000 ∧ (st.hw.bell.slew + sgn 64 65536000).natAbs ≤ 1000 * 65536 ∧
        1000 * 65536 < (st.hw.bell.slew + sgn 64 65536001).natAbs ∧ fld (st.hw.reg (bellReg 0x18)) 62 2 = 0 ∧ st.hw.bell.slew = 0) ∧
    ((bellSt 1000 (-7) 0 0).hw.bell.slew ≠ 0 ∧ fld ((bellSt (2 * 2 ^ 62) 0 0 0).hw.reg (bellReg 0x18)) 62 2 = 2) ∧
    (∀ e ∈ [(1, 5 * 10 ^ 9 - 3000000), (2, 3 * 10 ^ 9)], let st := bellSt (e.1 * 2 ^ 62 + 3 * 2 ^ 42) 0 1 e.2;
      st.hw.bell.lock = 1 ∧ st.hw.bell.seen = true ∧ fld (st.hw.reg (bellReg 0x18)) 62 2 = e.1 ∧ fld (st.hw.reg (bellReg 0x18)) 42 16 = 3 ∧
        st.hw.bell.quietAt + (if e.1 = 1 then 3000000 else 2000000000) ≤ st.hw.localNs) ∧
    (∀ b ∈ [true, false], let st := { ptpSt 0 0 127 0 with hw := (ptpSt 0 0 127 0).hw.modFab (fun x => { x with black := if b then [(0, 10 ^ 12)] else [] }) };
      st.hw.blacklisted (st.hw.partner 0 0 5) = b) ∧
    ((State.reset.hw.regF (bellReg 0x48) 63 1 = 0) ∧ (ptpSt 0 0 127 0).hw.regF (bellReg 0x48) 63 1 = 1 ∧ (ptpSt 0 0 127 0).hw.linkUp 0 = true ∧
      (ptpSt 0 0 127 0).hw.linkUp 1 = false ∧ (127 + 65536 - (ptpSt 0 0 127 0).hw.regF (bellReg 0x50) 32 16) % 65536 = 127 ∧
      (127 + 65536 - (ptpSt 0 65535 127 0).hw.regF (bellReg 0x50) 32 16) % 65536 = 128) ∧
    (∀ len ∈ [0, 1, 216, 217], let st := ptpSt 1 0 0 len;
      st.hw.regF (bellReg 0x50) 16 16 ≠ st.hw.bell.txTail ∧ st.hw.linkUp 0 = true ∧
        (match (st.hw.fresh.ncRead st.ident 0 (st.hw.ptpBase + 0x8000) 256).1 with
          | .ok e => recN e 12 2 == len && recN e 14 2 == 0 && decide (recN e 10 1 < 128 ∧ recN e 11 1 < 8) && recN e 38 2 == 0
          | _ => false) = true) := by
  decide +kernel

/-- E_CTRL of a global gate action, ARMED; an instance of entry 5 with action `act` is due or late. -/
def eCtrlV (act : Nat) : Nat := 2 ^ 63 + 2 ^ 62 + act * 2 ^ 32
def dueSt (act arg : Nat) (late : Bool) : State :=
  entry5 act arg false 500 (fun h => { h with bell := { h.bell with due := [⟨5, 400, late⟩] }, boot := { h.boot with harts := [(3, some ⟨3, 0, 0, 3, 0, 0, []⟩)] },
                                              obs := { h.obs with census := some ⟨0, 0, none, 0, 0, none, none, 0, [], [], []⟩ } })
theorem witness_BellEntriesArmAndIssue :
    (∀ t ∈ [999, 1000], let st := bellAt t (fun h => (h.setReg (eDue 5) 1000).setReg (eArg 5) 3);
      st.hw.eIdle 5 = true ∧ (st.hw.fresh.setReg (eCtrl 5) (eCtrlV 4 &&& 0x40FFF0FFFFFFFFFF)).armBad 5 = none ∧
        ((st.hw.fresh.setReg (eCtrl 5) (eCtrlV 15 &&& 0x40FFF0FFFFFFFFFF)).armBad 5).isSome = true ∧ (st.hw.reg (eDue 5) ≤ st.hw.bellNs ↔ t = 1000)) ∧
    ((entry5 4 0 true 500 id).hw.eArmed 5 = true ∧ eCtrlV 4 &&& 0x40FFF0FFFFFFFFFF = (entry5 4 0 true 500 id).hw.reg (eCtrl 5) % 2 ^ 63 ∧
      (eCtrlV 4 + 1) &&& 0x40FFF0FFFFFFFFFF ≠ (entry5 4 0 true 500 id).hw.reg (eCtrl 5) % 2 ^ 63) ∧
    (∀ late ∈ [true, false], (dueSt 4 0x18003 late).hw.bell.waitT = [] ∧ (dueSt 4 0x18003 late).hw.armed.all (fun j => (dueSt 4 0x18003 late).hw.missed j == 0) = true ∧
      (dueSt 4 0x18003 late).hw.bell.due.find? (fun d => d.late == late) = some ⟨5, 400, late⟩ ∧ (dueSt 4 0x18003 late).hw.eAction 5 = 4 ∧
      (dueSt 4 0x18003 late).hw.accelHeld = false) ∧
    (let st := dueSt 0xB (7 + 3 * 2 ^ 16) false;
      st.hw.eAction 5 = 0xB ∧ fld (st.hw.reg (eArg 5)) 22 2 = 0 ∧ fld (st.hw.reg (eArg 5)) 0 11 = 7 ∧ fld (st.hw.reg (eArg 5)) 16 6 = 3 ∧
        st.hw.hartOn 3 = true) ∧
    (let st := entry5 5 0x13 false 500 (fun h => { h with bell := { h.bell with due := [⟨5, 400, false⟩] } });
      let g (h : Hw) := (h.setReg (eCtrl 5) (5 * 2 ^ 32 + 7 * 2 ^ 44)).modCtx 7 (fun c => { c with st := 1 });
      (g st.hw).eAction 5 = 5 ∧ (g st.hw).bell.opp = [] ∧ (g st.hw).eGlobal 5 = false ∧ (g st.hw).eCtx 5 = 7 ∧ ((g st.hw).ctx 7).st ≠ 0 ∧
        (g st.hw).bell.due.find? (fun d => d.late == false) = some ⟨5, 400, false⟩) ∧
    ((dueSt 8 0 false).hw.eAction 5 = 8 ∧ (dueSt 8 0 false).hw.obs.census.isSome = true ∧ (dueSt 8 0 false).hw.bell.waitAll = []) ∧
    (let st := (dueSt 8 0 false).hw;
      st.eIdle 5 = true ∧ (st.fresh.setReg (eCtrl 5) (eCtrlV 8 &&& 0x40FFF0FFFFFFFFFF)).armBad 5 = none ∧
        (st.fresh.setReg (eCtrl 5) (eCtrlV 8 &&& 0x40FFF0FFFFFFFFFF)).eBusy 5 = true ∧ st.reg (eDue 5) ≤ { st with bellNs := 1000 }.bellNs) ∧
    (let st := entry5 9 7 false 500 (fun h => { h with bell := { h.bell with due := [⟨5, 400, false⟩] } }.modRes 7 (fun x => { x with st := 2, ctx := 4 }));
      st.hw.eAction 5 = 9 ∧ st.hw.eBusy 5 = false ∧ st.hw.titheHeld st.ident 5 = true ∧
        st.hw.bell.due.find? (fun d => d.late == false) = some ⟨5, 400, false⟩) := by
  decide +kernel

/-- What enabling chute 3 reads at an offset of window 2, and whether it passes. -/
def chuteRd (o : Bool) (off : Nat) : Option (List Byte) × Bool :=
  let st := mill o id
  let h := (st.hw.fresh.setReg (millReg 3 0) (2 ^ 63 + 2 ^ 48 + 2 + off)).modChute 3 (fun x => { x with ctx := 1 })
  match h.chuteRead st.ident 3 2 off 128 with
  | (.ok r, h) => (some r, h.chuteBad st.ident 1 r == none)
  | _ => (none, false)
theorem witness_ChutesRunAndMoveTheirIndices :
    ((at_ (fun h => { h with boot := { h.boot with fallow := 1 } })).hw.accelHeld = true ∧ (mill true id).hw.accelHeld = false) ∧
    (∀ o ∈ [true, false], ((mill o id).hw.chute 3).on = false ∧ ((mill o id).hw.win 1 2).isDoorbell = false ∧
      chuteRd o 0 = (some (chuteRec o), true) ∧ (chuteRd o 128).1.isSome = true ∧ (chuteRd o 128).2 = false) ∧
    ((chuteOn true 0 id).hw.chute 3).on = true ∧ (5 : Nat) ≠ (chuteOn true 0 id).hw.reg (millReg 3 0) ∧
    (let x := (chuteOn true 0 id).hw.chute 3;
      2 ^ x.rsize = 16 ∧ sub32 16 x.head = 16 ∧ sub32 17 x.head = 17 ∧ 2 ^ 31 ≤ sub32 (x.released % 2 ^ 32) 1 ∧ sub32 (x.released % 2 ^ 32) 0 < 2 ^ 31) ∧
    (let st := chuteOn true 0 (fun x => { x with inBatch := false });
      (st.hw.chute 3).inBatch = false ∧ st.hw.ready 3 < (st.hw.chute 3).nbatch) ∧
    (let st := chuteOn true 0 (fun x => { x with inBatch := false, released := 2 });
      (st.hw.chute 3).nbatch ≤ st.hw.ready 3) := by
  decide +kernel

/-- What the mill reads at HEAD of chute 3, and whether the record is admitted; with `bad`, the record's word holds an uncorrectable error. -/
def takes (o bad : Bool) (len : Nat) : Option (Bool × Bool) :=
  let st := chuteOn o 2 id
  let h := (st.hw.modMem (fun m => { m.puts (ddrBase + 0x4000) (sampleRec len) with bad := if bad then [ddrBase + 0x4000] else [] })).fresh
  let x := h.chute 3
  match h.chuteRead st.ident 3 x.rwin (x.ringOff + 64 * (x.head % 2 ^ x.rsize)) 64 with
  | (.ok b, h₁) => some (true, (h₁.admission st.ident 3 b).1 == 0)
  | _ => some (false, false)
theorem witness_SamplesPassThroughTheirBatch :
    (∀ o ∈ [true, false], ∀ t ∈ [0, 2], let st := chuteOn o t id;
      (((List.range 16).map (fun i => (st.hw.mill.turn + 1 + i) % 16)).find? st.hw.millWants = if t = 0 then none else some 3) ∧
        st.hw.mill.chutes.foldl (fun a e => a + e.2.samples.length) 0 < 32 ∧ (st.hw.chute 3).freeSlot = some 0 ∧
        takes o false 12 = some (true, true) ∧ takes o false 0 = some (true, false) ∧ takes o true 12 = some (false, false)) ∧
    (let x := (chuteOn true 2 (fun x => { x with samples := [⟨0, 0, sampleRec 12, false, false⟩, ⟨1, 1, sampleRec 12, true, false⟩] })).hw.chute 3;
      x.samples.find? (fun s => s.slot == 0 && !s.done) = some ⟨0, 0, sampleRec 12, false, false⟩ ∧ x.samples.find? (fun s => s.slot == 1 && !s.done) = none ∧
        x.samples.find? (fun s => s.slot == 1 && s.done) = some ⟨1, 1, sampleRec 12, true, false⟩ ∧ x.ordered = true ∧
        x.samples.any (fun m => m.order < 1) = true) ∧
    (∀ b ∈ [true, false], (true || b) = true ∧ (false || false) = false ∧ ((⟨0, 0, sampleRec 12, false, b⟩ : Sample).bad = b)) ∧
    (let st := chuteOn true 2 id;
      (match (st.hw.fresh.decodeSample st.ident 3 (sampleRec 12)).1 with
        | .ok _ => true
        | _ => false) = true ∧
      (match (st.hw.fresh.decodeSample st.ident 3 ((sampleRec 12).set 12 0)).1 with
        | .ok _ => false
        | _ => true) = true) ∧
    (let x := (chuteOn true 2 (fun x => { x with samples := [⟨0, 0, sampleRec 12, true, false⟩] })).hw.chute 3;
      x.samples.all (fun m => decide (0 ≤ m.order)) = true ∧ x.samples.find? (fun s => s.slot == 0 && s.done) = some ⟨0, 0, sampleRec 12, true, false⟩) ∧
    (let x := (chuteOn true 2 (fun x => { x with fwd := 2 })).hw.chute 3;
      x.on = true ∧ x.inBatch = true ∧ x.fwd = x.b) ∧
    (let st := chuteOn true 0 (fun x => { x with fwd := 1, drought := some 5 });
      (st.hw.chute 3).on = true ∧ (st.hw.chute 3).inBatch = true ∧
        5 + (st.hw.chute 3).f 40 4 * 1000 ≤ st.hw.localNs + (st.hw.chute 3).dry ∧ (st.hw.chute 3).dry = 0 ∧ (st.hw.chute 3).samples = [] ∧
        st.hw.localNs + 7 < (st.hw.localNs - 2) + (st.hw.chute 3).f 40 4 * 1000 ∧ (st.hw.chute 3).fwd + (st.hw.chute 3).rejAll ≠ 0 ∧ (st.hw.chute 3).fwd ≠ (st.hw.chute 3).b) := by
  refine ⟨?_, ?_, ?_, ?_, ?_, ?_, ?_⟩ <;> decide +kernel

/-! ## Witnesses: the clerk's commands -/

/-- Mailbox 5 as `f` has it, in a module that runs; `n` commands in the background. -/
def boxSt (n : Nat) (f : Mbox → Mbox) : State :=
  at_ (fun h => up ((h.modBox 5 f).modClerk (fun k => { k with bg := List.replicate n (clkCmd 3 [] []) })))
def offCmd : List Byte := cmdRec 0x0A01 0 [(20, 1, 0), (21, 1, 0)]
theorem witness_ClerkTakesCommandsInOrder :
    (bitAt (BitVec.ofNat 64 (2 ^ 63 + 5)).toNat 63 = true ∧ bitAt (5 : Word).toNat 63 = false ∧
      ((boxSt 0 (fun b => { b with busy := true })).hw.mbox 5).busy = true ∧ ((boxSt 0 (fun b => { b with done := true })).hw.mbox 5).done = true ∧
      ((boxSt 0 id).hw.mbox 5).busy = false ∧ ((boxSt 0 id).hw.mbox 5).done = false) ∧
    (State.reset.hw.clerkUp = false ∧ (boxSt 0 id).hw.clerkUp = true ∧ (cmdRec 1 4 []).length = 64 ∧ ((boxSt 0 id).hw.mbox 64).busy = false ∧
      ((boxSt 0 id).hw.mbox 64).go = false ∧ (boxSt 0 id).hw.clerk.kept = [] ∧
      ((boxSt 0 id).hw.modClerk (fun k => { k with kept := [⟨2, 9, [1], [2]⟩] })).clerk.kept.find? (fun k => k.src == 2 && k.seq == 9) =
        some ⟨2, 9, [1], [2]⟩ ∧ fld (mgmtHdr 1 9) 32 32 = 9 ∧ mgmtHdr 2 9 ≠ mgmtHdr 1 9 ∧ (boxSt 0 id).hw.inReset = false ∧
      (at_ (fun h => h.modBoot (fun b => { b with mrst := true }))).hw.inReset = true) ∧
    (let st := at_ (fun h => (h.modTile 7 (fun t => t.modCart 1 (fun _ => { Cart.init with busy := true, ctx := 1, desc := cartDesc, out := [0] }))).modClerk
        (fun k => { k with bg := [{ clkCmd 5 (cmdRec 0x202 0 [(20, 2, 1), (22, 1, 2)]) [] with ready := true }] }));
      st.hw.piecesOut 1 2 = true ∧ (st.hw.clerk.bg.find? (fun c => c.id == 1 && c.ready)).any (fun c => st.hw.bgHeld c) = true ∧
        { st.hw with tiles := [] }.bgHeld { clkCmd 5 (cmdRec 0x202 0 [(20, 2, 1), (22, 1, 2)]) [] with ready := true } = false) ∧
    (∀ e ∈ [(0, cmdRec 1 4 []), (0, cmdRec 0x9999 4 []), (3, offCmd), (4, offCmd)], let st := boxSt e.1 (fun b => { b with req := e.2, go := true });
      st.hw.clerk.cur = none ∧ st.hw.clerkUp = true ∧ st.hw.clerk.heldCmds = [] ∧ (boxOrder st.hw.clerk.lastBox).find? (fun m => (st.hw.mbox m).go) = some 5 ∧
        st.hw.clerk.bg.length = e.1 ∧ (isBack e.2 = true ↔ e.2 = offCmd)) ∧
    ((boxSt 0 id).hw.checkCmd State.reset.ident 5 (cmdRec 1 4 []) = none ∧
      ((boxSt 0 id).hw.checkCmd State.reset.ident 5 (cmdRec 0x9999 4 [])).isSome = true) ∧
    (let st := { boxSt 3 id with hw := (boxSt 3 id).hw.modClerk (fun k => { k with heldCmds := [clkCmd 5 offCmd []] }) };
      st.hw.clerk.cur = none ∧ st.hw.clerkUp = true ∧ st.hw.clerk.heldCmds = [clkCmd 5 offCmd []] ∧ st.hw.clerk.bg.length < 4 ∧
        st.hw.checkCmd st.ident 5 offCmd = none) ∧
    (let st := at_ (fun h => h.modClerk (fun k => { k with bg := [{ clkCmd 5 offCmd [] with ready := true, status := 7 }] }));
      (st.hw.clerk.bg.find? (fun c => c.id == 1 && c.ready)).isSome = true ∧ st.hw.clerk.bg.find? (fun c => c.id == 2 && c.ready) = none) ∧
    ((clk 5 (cmdRec 1 4 []) [] id).hw.clerk.cur = some (clkCmd 5 (cmdRec 1 4 []) []) ∧ cOp (cmdRec 1 4 []) ≠ 0x0002 ∧
      cOp (cmdRec 0x0C01 0 [(20, 1, 1)]) = 0x0C01 ∧ recN (cmdRec 0x0C01 0 [(20, 1, 1)]) 20 1 ≠ 0) := by
  refine ⟨?_, ?_, ?_, ?_, ?_, ?_, ?_, ?_⟩ <;> decide +kernel

/-- The address a payload of `k` bytes goes to, for a command of PLEN `n` from a box. -/
def payOk (box op n k : Nat) : Bool :=
  let st := clk box (cmdRec op n []) [] id
  ((st.hw.fresh.modClerk (fun q => { q with cur := none })).payAddr st.ident (clkCmd box (cmdRec op n []) []) rWrite k).isOk
theorem witness_PayloadCommandsReturnTheirRecord :
    (∀ box ∈ [5, 64], ∀ op ∈ [1, 2, 3, 0x303, 0xD01], (clk box (cmdRec op 64 []) [] id).hw.clerk.cur = some (clkCmd box (cmdRec op 64 []) []) ∧
      cOp (cmdRec op 64 []) = op) ∧
    (∀ box ∈ [5, 64], payOk box 1 1024 1024 = true ∧ payOk box 1 1023 1024 = false) := by
  decide +kernel

/-- The clerk executes the command `op` with fields `fs` from a box, its payload `pay` in memory. -/
def cmdSt (box op : Nat) (fs : List (Nat × Nat × Nat)) (pay : List Byte) (g : Hw → Hw) : State :=
  clk box (cmdRec op (max 64 pay.length) fs) pay (fun h => g (h.modMem (fun m => m.puts (ddrBase + 0x9000) pay)))
def cmdOf (box op : Nat) (fs : List (Nat × Nat × Nat)) (pay : List Byte) : ClerkCmd := clkCmd box (cmdRec op (max 64 pay.length) fs) pay
/-- The payload of `n` bytes that the clerk reads. -/
def payRd (box op : Nat) (fs : List (Nat × Nat × Nat)) (pay : List Byte) (n : Nat) : Option (List Byte) :=
  match ((cmdSt box op fs pay id).hw.fresh.modClerk (fun k => { k with cur := none })).payIn State.reset.ident (cmdOf box op fs pay) n with
  | (.ok a, _) => some a
  | _ => none
/-- Queue 40 in context 1, and 41 for its completions, 42 for receives. -/
def withQ (kind : Nat) (d : QDesc → QDesc) (h : Hw) : Hw :=
  ((h.setQ State.reset.ident 40 (d ⟨kind, 2, 2, 1, 1, 0, 0x8000, 0, 0, 41, 0, 0⟩)).setQ State.reset.ident 41
    ⟨3, 2, 2, 1, 1, 0, 0x1000, 0, 0, 0, 0, 0⟩).setQ State.reset.ident 42 ⟨2, 2, 2, 1, 1, 0, 0x9000, 0, 0, 41, 0, 0⟩
def withM (h : Hw) : Hw := { h with models := [(9, some ⟨1, 4, 2, 0x1000, 2, 0x2000, 16, false, 0, false, 0⟩)] }
def attrRec : List Byte := mkRec 64 [(0, 4, 42 + 2 ^ 20), (4, 4, 41 + 2 ^ 20), (8, 4, 9), (12, 1, 0x23), (15, 1, 0x33), (40, 4, 77), (44, 4, 88)]
theorem witness_ContextsQueuesAndModelsAreManaged :
    (∀ e ∈ [(0x101, 7), (0x101, 1), (0x101, 0xFFFF), (0x102, 1), (0x103, 1), (0x104, 1)],
      (cmdSt 5 e.1 [(20, 2, e.2)] [] id).hw.clerk.cur = some (cmdOf 5 e.1 [(20, 2, e.2)] []) ∧ (cmdOf 5 e.1 [(20, 2, e.2)] []).ready = false ∧
        cOp (cmdOf 5 e.1 [(20, 2, e.2)] []).rcd = e.1 ∧ recN (cmdOf 5 e.1 [(20, 2, e.2)] []).rcd 20 2 = e.2) ∧
    (let st := cmdSt 5 0x101 [(20, 2, 7)] [] id;
      (st.hw.ctx 7).st = 0 ∧ (st.hw.ctx 1).st ≠ 0 ∧ (st.hw.ctx 0).st = 0) ∧
    (let st := cmdSt 5 0x201 [(20, 2, 1), (22, 1, 2), (24, 6, ddrBase + 0x10000), (32, 8, 4096)] [] (fun h => h.modTile 7 (fun t =>
        t.modCart 1 (fun _ => { Cart.init with busy := true, ctx := 1, desc := cartDesc, out := [0] })));
      st.hw.piecesOut 1 2 = true ∧ { st.hw with tiles := [] }.piecesOut 1 2 = false ∧ (st.hw.win 1 2).valid = true ∧
        (cmdSt 5 0x305 [] [] (withQ 1 id)).hw.accelHeld = false ∧ (cmdSt 5 0x305 [] [] (fun h => h.modBoot (fun b => { b with fallow := 2 }))).hw.accelHeld = true ∧
        (cmdSt 5 0x301 [] [] (withQ 0 id)).hw.quiet = true) ∧
    (let b := ddrBase + 0x10000;
      b % 4096 = 0 ∧ (b + 1) % 4096 ≠ 0 ∧ State.reset.hw.winRange State.reset.ident b 4096 = true ∧
        ((cmdSt 5 0x201 [] [] id).hw.win 1 9).valid = false ∧ ((cmdSt 5 0x202 [] [] id).hw.win 1 2).valid = true) ∧
    (let st := cmdSt 5 0x301 [(20, 4, 43)] [] (withQ 0 id);
      let e : QDesc := ⟨0, 2, 2, 1, 1, 0, 0x8000, 0, 0, 41, 0, 0⟩;
      (st.hw.q st.ident 43).st = 0 ∧ (st.hw.q st.ident 40).st ≠ 0 ∧ e.ringOff % entrySize e.kind = 0 ∧ st.hw.ringOk e = true ∧
        (st.hw.win 1 2).isDoorbell = false ∧ (st.hw.q st.ident 41).kind = 3 ∧ (st.hw.q st.ident 41).ctx = 1 ∧
        st.hw.queueInUse st.ident 40 = false ∧ st.hw.queueInUse st.ident 41 = true ∧ (st.hw.ctx 1).st = 1) ∧
    (((cmdSt 5 0x304 [] [] (withQ 0 id)).hw.modCtx 1 (fun c => { c with st := 2 })).ctx 1).st ≠ 1 ∧
    (payRd 5 0x305 [(20, 4, 40)] attrRec 64 = some attrRec ∧ payRd 64 0x305 [(20, 4, 40)] attrRec 64 = some attrRec ∧ attrBad 1 attrRec = none ∧
      (attrBad 1 (overlay attrRec 50 [1])).isSome = true ∧ (State.reset.hw.mbox 5).bound = none ∧ recN attrRec 0 4 / 2 ^ 20 ≠ 3 ∧ recN attrRec 0 4 / 2 ^ 20 = 1 ∧
      ((at_ (fun h => h.modBox 5 (fun b => { b with bound := some 3 }))).hw.mbox 5).bound = some 3 ∧ recN attrRec 0 4 % 2 ^ 20 = 42 ∧
      recN attrRec 4 4 % 2 ^ 20 = 41 ∧ ((cmdSt 5 0x305 [] [] (withQ 1 id)).hw.q State.reset.ident 40).kind = 1 ∧
      ((cmdSt 5 0x305 [] [] (withQ 1 id)).hw.q State.reset.ident 42).kind = 2 ∧ (cmdSt 5 0x305 [] [] (withQ 1 id)).hw.fab.qps = []) ∧
    (let st := cmdSt 5 0x401 [] [] withM;
      let st' := cmdSt 5 0x401 [] [] (fun h => { withM h with swaps := [(0, some ⟨some (1, 9, 0), [], none, 0, 0, 0, 0, 0⟩)] });
      st.hw.modelOf 8 = none ∧ (st.hw.modelOf 9).isSome = true ∧ (st.hw.win 1 2).valid = true ∧ (st.hw.win 1 2).isDoorbell = false ∧
        0x1000 + 64 * 4 ≤ (st.hw.win 1 2).len ∧ 0x2000 + 2048 * 8 ≤ (st.hw.win 1 2).len ∧ st.hw.modelBusy 9 = false ∧ st'.hw.modelBusy 9 = true ∧
        st.hw.settled = true ∧ st.hw.clean = true) := by
  refine ⟨?_, ?_, ?_, ?_, ?_, ?_, ?_, ?_⟩ <;> decide +kernel

/-- BELL_ARM of entry 5 at time 1,000. -/
def armF : List (Nat × Nat × Nat) := [(20, 2, 5), (22, 1, 4), (23, 1, 1), (32, 8, 1000), (48, 4, 3)]
def chronPay : List Byte := mkRec 64 [(0, 8, ddrBase + 0x800000), (8, 1, 10), (10, 2, 0x1FF), (12, 4, 0xFFF)]
def tithePay : List Byte := mkRec 20 [(0, 4, 1), (4, 1, 7), (5, 1, 2), (12, 8, 2 ^ 63 + 2048 * 5)]
theorem witness_BellPowerAndObservationCommands :
    (let st := cmdSt 5 0x501 armF [] id;
      let h := (((st.hw.fresh.setReg (eDue 5) 1000).setReg (ePeriod 5) 0).setReg (eCtrl 5) (4 * 2 ^ 32 + 2 ^ 62)).setReg (eArg 5) 3;
      st.hw.clerk.cur = some (cmdOf 5 0x501 armF []) ∧ cOp (cmdOf 5 0x501 armF []).rcd = 0x501 ∧ st.hw.eIdle 5 = true ∧ h.armBad 5 = none ∧ st.hw.bellNs < 1000 ∧
        (cmdSt 5 0x501 armF [] (fun h => h.setReg (eCtrl 5) (2 ^ 63 + 2 ^ 62))).hw.eIdle 5 = false ∧
        (cmdSt 5 0x502 [(20, 2, 5)] [] (fun h => h.setReg (eCtrl 5) (2 ^ 63 + 2 ^ 62))).hw.eArmed 5 = true ∧
        (cmdSt 5 0x704 [] [] (fun h => h.modBoot (fun b => { b with fallow := 1 }))).hw.accelHeld = true ∧ st.hw.accelHeld = false) ∧
    (let st := cmdSt 5 0x501 [(20, 2, 5), (22, 1, 8), (23, 1, 1), (32, 8, 700), (48, 4, 0)] [] (fun h =>
        { h with obs := { h.obs with census := some ⟨0, 0, none, 0, 0, none, none, 0, [], [], []⟩ } });
      let h := (((st.hw.fresh.setReg (eDue 5) 700).setReg (ePeriod 5) 0).setReg (eCtrl 5) (8 * 2 ^ 32 + 2 ^ 62)).setReg (eArg 5) 0;
      h.armBad 5 = none ∧ 700 ≤ st.hw.bellNs ∧ h.eBusy 5 = true ∧ { h with obs := State.reset.hw.obs }.eBusy 5 = false ∧ st.hw.obs.census.isSome = true) ∧
    (∀ op ∈ [0x502, 0x601, 0x602, 0x701], cOp (cmdOf 5 op [(20, 2, 5)] []).rcd = op ∧ recN (cmdOf 5 op [(20, 2, 5)] []).rcd 20 2 = 5) ∧
    (∀ k ∈ [0, 1, 2], cOp (cmdOf 5 0x702 [(20, 1, k)] []).rcd = 0x702 ∧ recN (cmdOf 5 0x702 [(20, 1, k)] []).rcd 20 1 = k) ∧
    (payRd 5 0x702 [(20, 1, 2)] chronPay 64 = some chronPay ∧ chronBad State.reset.ident chronPay = none ∧ State.reset.hw.chron.running = false ∧
      (State.reset.hw.fresh.modMem id).chron.configured = false) ∧
    (payRd 5 0x704 [(20, 2, 1)] tithePay 4 = some (tithePay.take 4) ∧ recN tithePay 0 4 = 1 ∧ payRd 5 0x704 [(20, 2, 1)] tithePay 20 = some tithePay ∧
      (cmdSt 5 0x704 [(20, 2, 1)] tithePay id).hw.titheBad State.reset.ident tithePay 0 = none) ∧
    (payRd 5 0x705 [] (List.replicate 512 0) 512 = some (List.replicate 512 0) ∧
      (List.range 32).all (fun i => (gaugeBad (subB (List.replicate 512 0) (16 * i) 16)).isNone) = true) ∧
    (let st := clk 5 (cmdRec 0x703 0x100000 []) [] id;
      let h₀ := st.hw.fresh.modClerk (fun k => { k with cur := none });
      (h₀.payAddr st.ident (clkCmd 5 (cmdRec 0x703 0x100000 []) []) rWrite (h₀.censusLen st.ident (h₀.queuesUsed st.ident).length)).isOk = true ∧
        st.hw.obs.census = none) := by
  refine ⟨?_, ?_, ?_, ?_, ?_, ?_, ?_, ?_⟩ <;> decide +kernel

theorem witness_LeaseResetAndScopeCommands :
    (∀ e ∈ [(0xB01, 1), (0xB01, 0), (0xB02, 0), (0xC01, 0), (0xC01, 1), (0xC01, 2), (0xC01, 3), (0xE01, 7), (0xE02, 7)],
      (cmdSt 5 e.1 [(20, 1, e.2), (24, 8, 3)] [] id).hw.clerk.cur = some (cmdOf 5 e.1 [(20, 1, e.2), (24, 8, 3)] []) ∧
        cOp (cmdOf 5 e.1 [(20, 1, e.2), (24, 8, 3)] []).rcd = e.1 ∧ recN (cmdOf 5 e.1 [(20, 1, e.2), (24, 8, 3)] []).rcd 20 1 = e.2) ∧
    (State.reset.hw.shadow = [] ∧ State.reset.hw.leaseOn = false ∧ (at_ (fun h => h.setReg leaseReg (2 ^ 63 + 9))).hw.leaseOn = true ∧
      State.reset.hw.fab.epoch < 3 ∧ 0 ≤ State.reset.hw.fab.epoch) ∧
    (∀ n ∈ [1, 2, 3], ({ State.reset.hw.boot with fallow := n } : Boot).fallow = n ∧ State.reset.hw.ctxs = [] ∧ State.reset.hw.memS.wait = []) ∧
    (State.reset.hw.boot.fallow = 0 ∧ (State.reset.hw.res 7).st < 2 ∧ 2 ≤ ((at_ (fun h => h.modRes 7 (fun _ => ⟨3, 1, 2, 3⟩))).hw.res 7).st) := by
  decide +kernel

/-- Stack 3 in state `x`, in a module that runs, with no context. -/
def stackSt_ (op : Nat) (fs : List (Nat × Nat × Nat)) (x : StackSt) (hppr fal : Nat) : State :=
  cmdSt 5 op (fs ++ [(20, 1, 1), (21, 1, 1)]) [] (fun h =>
    let u := up h
    { u with boot := { u.boot with fallow := fal }, ctxs := [] }.modStack 3 (fun s => { s with st := x, entering := 0, hppr := hppr }))
/-- CKPT_EXPORT of an update whose planes and stamps are zero; what the clerk reads for it. -/
def ckptF (len : Nat) : List (Nat × Nat × Nat) := [(20, 2, 1), (22, 1, 2), (23, 1, 2), (24, 6, 0xA000), (32, 6, 0xC000), (40, 8, len)]
def ckptSt (len : Nat) : State := cmdSt 5 0x901 (ckptF len) [] (fun h => h.modMem (fun m => m.puts (ddrBase + 0xA000) descUpd))
def ckptRead (len : Nat) : Option (List Byte) × Bool :=
  let c := cmdOf 5 0x901 (ckptF len) []
  let h := (ckptSt len).hw.fresh.modClerk (fun q => { q with cur := none, bg := q.bg ++ [{ c with pay := [] }] })
  match h.clerkRead State.reset.ident c (ddrBase + 0xA000) 128 with
  | (.ok d, h₁) =>
    match Hw.clerkReads State.reset.ident c ddrBase [(udTally d, 64), (udStamp d, 8 * udNs d)] h₁ with
    | (.ok [l, sh], h₂) =>
      match Hw.clerkReads State.reset.ident c ddrBase (exportPlanes d) h₂ with
      | (.ok planes, h₃) =>
        let dst := (((ckptSt len).hw.through 1 2 rWrite 0xC000 len).getD 0)
        let r := h₃.ncWrite State.reset.ident hintClerk false dst (ckptHeader d (recN sh 0 8) planes)
        (some d, openRecs l == [] && (List.range (udNs d)).all (fun k => recN sh (8 * k) 8 == recN sh 0 8) && r.1 == none &&
          (r.2.ncWrite State.reset.ident hintClerk false (dst + 2048) planes.flatten).1 == none)
      | _ => (none, false)
    | _ => (none, false)
  | _ => (none, false)

/-- PATCH_INSTALL of zero bytes: the length its header gives, and whether the image the clerk reads passes its checks. One that passes
them rests on the signature (notes/assumptions/66), which no test can produce. -/
def patchRead : Option Nat × Option Bool :=
  let pay := List.replicate (64 + 2420) 0
  let c := clkCmd 64 (cmdRec 0xD02 2484 [(20, 1, 2)]) pay
  match ((clk 64 (cmdRec 0xD02 2484 [(20, 1, 2)]) pay id).hw.fresh.modClerk (fun q => { q with cur := none, bg := q.bg ++ [{ c with pay := [] }] })).payIn
      State.reset.ident c 64 with
  | (.ok hd, h₁) =>
    match h₁.payIn State.reset.ident c (64 + recN hd 12 4 + 2420) with
    | (.ok im, _) => (some (recN hd 12 4), some (patchOk im))
    | _ => (some (recN hd 12 4), none)
  | _ => (none, none)
theorem witness_StackPatchAndFallowCommands :
    (∀ e ∈ [(0xA01, 1), (0xA02, 1), (0xA03, 1), (0xA04, 1), (0x603, 1), (0x604, 1), (0xD03, 1), (0x901, 1)], let st := stackSt_ e.1 [] .offline 2 0;
      st.hw.clerk.cur = some (cmdOf 5 e.1 [(20, 1, 1), (21, 1, 1)] []) ∧ cOp (cmdOf 5 e.1 [(20, 1, 1), (21, 1, 1)] []).rcd = e.1 ∧ st.hw.ctxs = [] ∧
        st.hw.memS.open_ = [] ∧ st.hw.memS.wait = [] ∧ cStack (cmdOf 5 e.1 [(20, 1, 1), (21, 1, 1)] []).rcd = 3 ∧ (st.hw.stack 3).hppr ≠ 0) ∧
    (∀ x ∈ [StackSt.online, .offline, .failed, .selfRefresh], ((stackSt_ 0xA02 [] x 0 2).hw.stack 3).st = x ∧ ((stackSt_ 0xA02 [] x 0 2).hw.stack 3).hppr = 0 ∧
      (stackSt_ 0xA02 [] x 0 2).hw.boot.fallow = 2 ∧ (stackSt_ 0xA02 [] x 0 2).hw.power.sev ≤ 3) ∧
    (∀ n ∈ [0, 1, 3], (stackSt_ 0x603 [] .online 0 n).hw.boot.fallow = n ∧ 3 < ({ State.reset.hw.power with sev := 4 } : Power).sev) ∧
    ((clk 5 (cmdRec 0xA01 0 []) [] id).hw.ctxs.any (fun e => e.2.st != 0) = true) ∧
    (burstsIn 3 [] = [] ∧ burstsIn 3 [lineKey 3 5] ≠ [] ∧ inStack 3 (lineKey 3 5) = true ∧ State.reset.hw.memS.mem.bad = [] ∧
      (∀ k ∈ [0, 3], let rep := cRepair (cmdOf 5 0xA04 [(20, 1, 1), (21, 1, 1), (22, 1, k)] []).rcd;
        rep.kind = k ∧ ((stackSt_ 0xA04 [] .offline 2 0).hw.stack 3).hppr ≠ 0 ∧ ((stackSt_ 0xA04 [] .offline 0 0).hw.stack 3).hppr = 0 ∧
          512 - ((stackSt_ 0xA04 [] .offline 2 0).hw.stack 3).used 3 ≠ 0)) ∧
    (∀ k ∈ [0, 1], recN (cmdOf 5 0xA03 [(20, 1, 1), (21, 1, 1), (22, 1, k)] []).rcd 22 1 = k) ∧
    patchRead = (some 0, some false) ∧
    (let need := 2048 + (exportPlanes descUpd).foldl (fun a p => a + p.2) 0;
      let w := (ckptSt need).hw.win 1 2;
      ckptRead need = (some descUpd, true) ∧ udRule descUpd ≤ 6 ∧ udNp descUpd ≠ 0 ∧ w.valid = true ∧ w.isDoorbell = false ∧ bitAt w.rights rRead = true ∧
        udWin descUpd = 2 ∧ (∀ p ∈ exportPlanes descUpd ++ [(udStamp descUpd, 8 * udNs descUpd), (udTally descUpd, 64)], p.1 + p.2 ≤ w.len) ∧
        (ckptSt need).hw.through 1 2 rRead 0xA000 128 = some (ddrBase + 0xA000) ∧ ((ckptSt need).hw.through 1 2 rWrite 0xC000 need).isSome = true ∧
        (ckptSt need).hw.updating 1 (udShard descUpd) = false) := by
  refine ⟨?_, ?_, ?_, ?_, ?_, ?_, ?_, ?_⟩ <;> decide +kernel

/-! ## Witnesses: work, power, observation, boot -/

/-- The module runs; context 1 has window 2, model 9 of four entries, and queue 40 with the descriptor `b` at its head; entry 0 is resident on tile 7. -/
def work (b tab : List Byte) (g : Hw → Hw) : State :=
  let m : Model := ⟨1, 4, 2, 0x1000, 2, 0x2000, 16, false, 0, false, 0⟩
  at_ (fun h => g (up ((({ h with wins := SMap.set Window.init [] 66 ⟨true, 0x7F, ddrBase, 0x20000, 0⟩, ctxs := SMap.set Ctx.init [] 1 { Ctx.init with st := 1 },
                                  models := [(9, some m)], bitmap := [(40, true)], localNs := 5 * 10 ^ 9, bellNs := 777 }.setQ State.reset.ident 40
    ⟨0, 2, 2, 1, 1, 0, 0x18000, 0, 1, 41, 1, 0⟩).modMem (fun mm => (mm.puts (ddrBase + 0x18000) b).puts (ddrBase + 0x1000) tab)).modRes 7
      (fun _ => ⟨1, 1, 9, 0⟩))))
def desc9 (e : Nat) : List Byte := mkRec 128 [(0, 4, 9), (4, 2, e), (6, 1, 1), (16, 8, 0x55), (24, 8, 0x66)]
def entry9 : List Byte := mkRec 64 [(0, 8, 0x4000), (24, 4, 1)]

/-- Work from `desc9 0`, its entries as its model's table has them; a swap `f` on tile 7. -/
def wk9 : Work := (workOfDesc 40 ((work (desc9 0) entry9 id).hw.q State.reset.ident 40) (desc9 0)).withEntry entry9
def swapSt (f : Swap) (g : Hw → Hw) : State := work (desc9 0) entry9 (fun h => g (h.setSwap 7 (some f)))
theorem witness_WorkRunsWhereItIsResident :
    State.reset.hw.bitmap = [] ∧
    (let st := work (desc9 0) entry9 id;
      let d := st.hw.q st.ident 40;
      st.hw.boot.fallow = 0 ∧ st.hw.bitmap = [(40, true)] ∧ d.st = 1 ∧ d.kind = 0 ∧ d.depth ≠ 0 ∧ d.ctx = 1 ∧ (st.hw.ctx 1).st = 1 ∧
        st.hw.stalled st.ident 40 = false ∧ st.hw.alarmStalls 40 = false ∧ st.hw.ringOk d = true ∧
        recN (desc9 0) 0 4 = 9 ∧ recN (desc9 0) 4 2 = 0 ∧ wk9.entries.all (· == 0) = false ∧
        (match st.hw.fresh.ncRead st.ident hintClerk (st.hw.slotAddr d d.head) 128 with
          | (.ok b, h₁) => b == desc9 0 && h₁.q st.ident 40 == d && h₁.ctxActive 1 && !st.hw.accelHeld && h₁.entryHeld (1, 9, 0) == false && h₁.residentAt (1, 9, 0) == some 7 &&
              (h₁.eligible st.ident 1).contains 7 && h₁.tileIdle 7 && h₁.descBad 1 (desc9 0) == false &&
              h₁.descBad 1 (overlay (desc9 0) 7 [1]) && (h₁.descModel 1 (desc9 0)).any (fun m =>
                let h₀ : Hw := h₁.takeWork st.ident 40
                let h₀ : Hw := { h₀ with models := SMap.set none h₀.models 9 (some { m with invocs := m.invocs + 1 }) }
                !m.unusable && (match h₀.ncRead st.ident hintClerk ((h₀.win m.ctx m.tabWin).base + m.tabOff) 64 with
                  | (.ok tab, h₂) => tab == entry9 && h₂.res 7 == ⟨1, 1, 9, 0⟩
                  | _ => false))
          | _ => false) = true) ∧
    (let st := work (desc9 0) entry9 (fun h => { h with models := [(9, some ⟨1, 4, 2, 0x1000, 2, 0x2000, 16, true, 0, false, 0⟩)] });
      let d := st.hw.q st.ident 40;
      (match st.hw.fresh.ncRead st.ident hintClerk (st.hw.slotAddr d d.head) 128 with
        | (.ok b, h₁) => b == desc9 0 && h₁.descBad 1 b == false && (h₁.descModel 1 b).any (·.unusable)
        | _ => false) = true) ∧
    (work (desc9 0) entry9 (fun h => { h with boot := { h.boot with fallow := 1 } })).hw.accelHeld = true := by
  refine ⟨?_, ?_, ?_, ?_⟩ <;> decide +kernel

theorem witness_SwapsAndTeardownsGoInOrder :
    (State.reset.hw.swapOf 7 = none) ∧
    (∀ p ∈ [0, 1], let st := swapSt ⟨some (1, 9, 0), [], none, 0, 4, p, 0, 0⟩ (fun h => h.setWork 7 (some wk9));
      let p' := st.hw.savePlan 7 4;
      let h₀ := (p'.2.2.1.foldl (fun h r => h.granFix 7 (2048 * r.1) (2048 * r.2)) st.hw.fresh).fixCores 7 p'.1;
      (st.hw.swapOf 7).map (·.phase) = some p ∧ (st.hw.outImage (1, 9, 0)).isSome = true ∧ { st.hw with models := [] }.outImage (1, 9, 0) = none ∧
        (st.hw.ctx 1).st = 1 ∧ (st.hw.tile 7).badCore p'.1 = none ∧
        (st.hw.outImage (1, 9, 0)).any (fun a => match st.hw.rangeBytes 7 p'.2.2.1 with
          | .ok gb => (h₀.ncWrite st.ident 0 false (a + 64) (h₀.controlBlock 7 p'.1 p'.2.1 ++
              (coresOf p'.1).flatMap (fun c => ((h₀.tile 7).core c).image) ++ gb)).1 == none &&
            (st.hw.fresh.ncWrite st.ident 0 false a (imageHeader 1 9 0 true 0 0 777)).1 == none
          | .error _ => false) = true) ∧
    ((swapSt ⟨some (1, 9, 0), [], none, 0, 4, 1, 0, 0⟩ id).hw.workOf 7 = none) ∧
    (let st := swapSt ⟨none, [], none, 0, 4, 2, 0, 0⟩ (fun h => h.setWork 7 (some wk9));
      (st.hw.workOf 7).isSome = true ∧ wk9.entries.all (· == 0) = false ∧
        (withM st.hw).modelOf wk9.model = st.hw.modelOf wk9.model ∧
        { st.hw with models := [(9, some ⟨1, 4, 2, 0x1000, 2, 0x2000, 16, true, 0, false, 0⟩)] }.modelOf wk9.model =
          some ⟨1, 4, 2, 0x1000, 2, 0x2000, 16, true, 0, false, 0⟩ ∧
        (st.hw.modelOf wk9.model).any (fun m => !m.unusable && (st.hw.imageAt m wk9.entry).any (fun a => match st.hw.fresh.readImage st.ident a m.stride with
          | (.ok _, _, _) => true
          | _ => false)) = true) ∧
    (∀ wt ∈ [true, false], let td : State := work (desc9 0) entry9 (fun h => h.modCtx 1 (fun c => { c with st := 2, fcls := 3, tdCause := some 0, fwait := wt }));
      (td.hw.ctx 1).tdCause = some 0 ∧ (td.hw.ctx 1).fwait = wt ∧ (td.hw.ctx 2).tdCause = none) := by
  refine ⟨?_, ?_, ?_, ?_, ?_⟩ <;> decide +kernel

/-- A running module with its power state as `f` has it. -/
def powSt (f : Power → Power) : State := work (desc9 0) entry9 (fun h => { h with power := f h.power })
theorem witness_PowerPointsAndMeasurements :
    (SMap.get 0 (powSt (fun p => { p with want := [(7, 3)] })).hw.power.want 7 ≠ 0 ∧ SMap.get 0 (powSt id).hw.power.want 7 = 0) ∧
    (let st := powSt id;
      0 < st.hw.clerk.caps.2 ∧ st.hw.moduleCap ≤ st.hw.moduleCap ∧ st.hw.moduleCap < st.hw.moduleCap + 1 ∧
        (∀ d < 8, (List.replicate 8 st.hw.clerk.caps.2).getD d 0 ≤ st.hw.clerk.caps.2) ∧
        st.hw.clerk.caps.2 < [st.hw.clerk.caps.2, st.hw.clerk.caps.2 + 1].getD 1 0) ∧
    ((powSt id).hw.dieUp 7 = true ∧ SMap.get none (powSt id).hw.power.sag 7 = none ∧ (at_ (fun h => { h with dieSt := [(7, 3)] })).hw.dieUp 7 = false) ∧
    (∀ d ∈ [7, 8], let rel := (powSt id).hw.sagRel d;
      ∀ ns ∈ [rel - 1, rel], let st := powSt (fun p => { p with sag := [(d, some (5 * 10 ^ 9 - 300))], drop := [(d, 5 * 10 ^ 9 - ns)] });
        SMap.get none st.hw.power.sag d = some (5 * 10 ^ 9 - 300) ∧ (st.hw.localNs - SMap.get 0 st.hw.power.drop d < st.hw.sagRel d ↔ ns = rel - 1) ∧
          st.hw.sagGuards d = true ∧ st.hw.sagThresh d < 400 ∧ (at_ (fun h => h)).hw.sagGuards 9 = false) ∧
    (let x := (powSt id).hw.stack 15;
      (x.sampled [some 1500, some 1600, none, none] 5).level < 3 ∧ ({ x with sensors := (List.range 4).map (fun i => (i, ⟨[], false, 0, 0⟩)) }.validAfter [none, none, none, none] 5) < 2 ∧ 2 ≤ x.validAfter [some 1500, some 1600, none, none] 5) ∧
    ((∀ t ∈ [(95 * 16 : Int), 1599], 95 * 16 ≤ t ∧ t < 100 * 16) ∧ (∀ t ∈ [(100 * 16 : Int), 105 * 16 - 1], 100 * 16 ≤ t ∧ t < 105 * 16) ∧
      (∀ t ∈ [(97 * 16 : Int), 105 * 16 - 1], 97 * 16 ≤ t ∧ t < 105 * 16) ∧ (97 * 16 - 1 : Int) < 97 * 16 ∧ (93 * 16 - 1 : Int) < 93 * 16 ∧
      (∀ t ∈ [(93 * 16 : Int), 1599], 93 * 16 ≤ t ∧ t < 100 * 16) ∧ (105 * 16 : Int) ≤ 105 * 16)  := by
  decide +kernel

theorem witness_WatchmanDecides :
    (let off := at_ (fun h => { h with boot := { h.boot with phase := 0 }, power := { h.power with latched := true } });
      off.hw.boot.phase = 0 ∧ off.hw.power.latched = true ∧ (powSt id).hw.boot.phase ≠ 0) ∧
    (let hot := (List.range 5).foldl (fun w _ => (w.take 11 (90 * 16)).take 11 (90 * 16)) WIn.init;
      (∃ v ∈ [(90 * 16 : Int)], (hot.take 11 v).y.any (fun y => decide (55 * 16 * 65536 < y)) = true) ∧
        (WIn.init.take 11 (55 * 16)).y.all (fun y => decide (y ≤ 55 * 16 * 65536)) = true ∧ (powSt id).hw.power.sev < 4 ∧ (powSt id).hw.power.mainSw = true ∧ (powSt id).hw.power.cond 0 5 = false ∧
        ([90 * 16] : List Int).length = watchSensors 11 ∧ (List.replicate 16 (0 : Int)).length = watchSensors 0 ∧ (List.replicate 8 (0 : Int)).length = watchSensors 8 ∧
        ([] : List Int).length ≠ watchSensors 14 ∧
        (powSt id).hw.power.action ≠ 3) ∧
    (∀ t ∈ [5 * 10 ^ 9, 5 * 10 ^ 9 + 1], (powSt (fun p => { p with graceAt := some t })).hw.power.graceAt = some t) ∧ (powSt id).hw.localNs = 5 * 10 ^ 9 ∧
    (let st := at_ (fun h => { h.setReg (watchReg 0) (2 ^ 63) with boot := { h.boot with phase := 0 }, power := { h.power with latched := false, calmAt := some 0 }, localNs := 60000000000 });
      st.hw.boot.phase = 0 ∧ st.hw.power.latched = false ∧ st.hw.regF (watchReg 0) 63 1 = 1 ∧ 0 + 60000000000 ≤ st.hw.localNs) ∧
    (bitAt (BitVec.ofNat 64 (2 ^ 63)).toNat 63 = true ∧ State.reset.hw.power.crash.length = 128) ∧
    (let st := clk 5 (cmdRec 1 4 []) [] up;
      3 ≤ st.hw.boot.phase ∧ st.hw.power.sev < 4 ∧ st.hw.clerk.cur = some (clkCmd 5 (cmdRec 1 4 []) []) ∧ st.hw.localNs < 5 * 10 ^ 9 + 10000000 ∧
        st.hw.power.clerkErrAt = none ∧ st.hw.boot.fallow = 0 ∧ 4 ≤ ({ st.hw.power with sev := 5 } : Power).sev) ∧
    (∀ n ∈ [5 * 10 ^ 9 + 10000000, 5 * 10 ^ 9 + 10000001], let st := clk 5 (cmdRec 1 4 []) [] (fun h => { up h with localNs := n });
      st.hw.clerk.cur = some (clkCmd 5 (cmdRec 1 4 []) []) ∧ (clkCmd 5 (cmdRec 1 4 []) []).at_ + 10000000 ≤ st.hw.localNs) ∧
    (∀ n ∈ [5 * 10 ^ 9, 64999999999, 65000000000], let st := clk 5 (cmdRec 1 4 []) [] (fun h => { up h with localNs := n, power := { h.power with clerkErrAt := some (5 * 10 ^ 9) } });
      st.hw.power.clerkErrAt = some (5 * 10 ^ 9) ∧ (st.hw.localNs < 5 * 10 ^ 9 + 60000000000 ↔ n ≠ 65000000000)) := by
  decide +kernel

def ev (t : Nat) : ChronEv := ⟨777, t, 8, 0, none, []⟩
def chronSt (f : Chron → Chron) : State :=
  work (desc9 0) entry9 (fun h => { h with chron := f { h.chron with configured := true, running := true, base := ddrBase + 0x20000, log2n := 10, dies := 0x1FF, classes := 0xFFF } })
theorem witness_ObservationTakesWhatItIsGiven :
    (State.reset.hw.chron.configured = false ∧ State.reset.hw.chron.lost = [] ∧ State.reset.hw.chron.bufs = []) ∧
    (let c := (chronSt (fun c => { c with lost := [(3, 5)], bufs := [(3, [ev 5])] })).hw.chron;
      c.configured = true ∧ 2 ≤ c.free ∧ SMap.get 0 c.lost 3 ≠ 0 ∧ (∀ e < 3, SMap.get 0 c.lost e = 0)) ∧
    (∀ w ∈ [0, 1023], let c := (chronSt (fun c => { c with bufs := [(3, [ev 5, ev 6])], turn := 7, write := w })).hw.chron;
      ((List.range 9).map (fun i => (c.turn + 1 + i) % 9)).find? (fun d => SMap.get [] c.bufs d != []) = some 3 ∧ SMap.get [] c.bufs 3 = ev 5 :: [ev 6] ∧
        (2 ≤ c.free ↔ w = 0)) ∧
    ((chronSt id).hw.chron.running && bitAt (chronSt id).hw.chron.dies 8 && bitAt (chronSt id).hw.chron.classes (chronClass 0x11)) = true ∧
    (SMap.get [] (chronSt id).hw.chron.bufs 8).length < 256 ∧
    (let g := (at_ (fun h => { h with obs := { h.obs with gauges := [(31, { Gauge.init with cfg := mkRec 16 [(8, 4, 10), (12, 1, 1), (13, 1, 1)], seen := 1 })] } })).hw.gauge 31;
      bitAt (recN g.cfg 13 1) 0 = true ∧ (g.seen + 1) % 2 ^ recN g.cfg 12 1 = 0 ∧ (g.seen + 2) % 2 ^ recN g.cfg 12 1 ≠ 0) ∧
    (State.reset.hw.obs.census = none ∧ State.reset.hw.obs.waits = []) ∧
    (let st := at_ (fun h => { h with obs := { h.obs with census := some ⟨1, ddrBase + 0x30000, none, 7, 1, none, some 4, 5, [], [], []⟩ } }.modStream 7 1 (fun x => { x with st := .running }));
      st.hw.obs.census.any (fun k => k.trigger == 1 && k.tile == 7 && k.strm == 1 && k.cmd == some 4) = true ∧ st.hw.obs.waits = [] ∧ (st.hw.stream 7 1).st = .running ∧
        (st.hw.tile 7).faulted = false) := by
  decide +kernel

/-- A module whose boot is at step `ph`. -/
def bootSt (ph : Nat) (g : Hw → Hw) : State :=
  at_ (fun h =>
    let u := up h
    g { u with boot := { u.boot with phase := ph } })
theorem witness_ResetsBeginAndRelease :
    ((bootSt 8 id).hw.power.mainSw = true ∧ (at_ (fun h => { h with power := { h.power with mainSw := false } })).hw.power.mainSw = false ∧
      State.reset.hw.extestOk = false ∧ (bootSt 8 (fun h => { h with boot := { h.boot with unlocked := true, scopes := 15 } })).hw.extestOk = true) ∧
    (let st := bootSt 8 (fun h => { h with boot := { h.boot with booted := true } });
      st.hw.boot.phase = 8 ∧ st.hw.boot.booted = true ∧ st.hw.hostReset = false ∧ st.hw.hartOn 1 = false ∧ st.hw.hartOn 63 = false ∧
        (bootSt 8 id).hw.boot.booted = false) ∧
    (bootSt 8 (fun h => { h with boot := { h.boot with harts := [(3, some ⟨ddrBase, 3, 0, 3, 0, 0, []⟩)] } })).hw.hartOn 3 = true ∧
    (∀ b ∈ [true, false], let st := bootSt 8 (fun h => { h.setRegF (blkBase .reeve 0 + 8) 63 1 1 with boot := { h.boot with booted := b } });
      st.hw.hostReset = true ∧ st.hw.boot.booted = b ∧ st.hw.bankOk st.ident st.hw.boot.bank = false) ∧
    (let st := bootSt 8 (fun h => { h with boot := { h.boot with fallow := 1 } }.modStack 4 (fun x => { x with st := .selfRefresh }));
      st.hw.boot.fallow = 1 ∧ (st.hw.stack 4).st = .selfRefresh ∧ (st.hw.stack 4).entering = 0) := by
  decide +kernel

theorem witness_BootRunsItsStepsInOrder :
    (∀ p ∈ [2, 3, 4, 5, 6, 7], (bootSt p id).hw.bootFree p = true ∧ (bootSt 8 id).hw.bootFree p = false) ∧
    (0 % 65536 = 0 ∧ 65535 % 65536 ≠ 0 ∧ (bootSt 3 id).hw.bootBank State.reset.ident = none) ∧ (bootSt 5 id).hw.dieUp 7 = true := by
  decide +kernel

/-- An operation of the flash controller in progress. -/
def flashSt (op page : Nat) (g : Hw → Hw) : State := bootSt 8 (fun h => g { h with boot := { h.boot with busy := true, op := some (op, page) } })
theorem witness_FlashAndUnlockFollowTheirRules :
    (∀ op ∈ [0, 1], fld (BitVec.ofNat 64 (2 ^ 63 + op * 2 ^ 56 + 0x17)).toNat 56 2 = op ∧ bitAt (BitVec.ofNat 64 (2 ^ 63 + op * 2 ^ 56 + 0x17)).toNat 61 = false ∧
      fld (BitVec.ofNat 64 (2 ^ 63 + op * 2 ^ 56 + 0x17)).toNat 0 13 ≠ (flashSt op 0x16 id).hw.regF flashCtrl 0 13) ∧
    ((bootSt 8 id).hw.boot.busy = false ∧ (bootSt 8 id).hw.boot.op = none ∧ (flashSt 0 0x17 id).hw.boot.op = some (0, 0x17) ∧
      (flashSt 1 0x10 id).hw.boot.op = some (1, 0x10) ∧ 0x10 % 16 = 0) ∧
    (let a := bankBase (bootSt 8 id).hw.freeBank + 0x17 * 4096;
      (List.range 4096).all (fun i => (flashSt 0 0x17 id).hw.flashByte (a + i) == 0xFF) = true ∧
        (flashSt 0 0x17 (fun h => h.flashWrite (a + 5) [7])).hw.flashByte (a + 5) = 7) ∧
    (State.reset.hw.inReset = false ∧ (bootSt 8 (fun h => h.modBoot (fun b => { b with mrst := true }))).hw.inReset = true ∧
      State.reset.hw.boot.fails < 8 ∧ State.reset.hw.tokenOk [1] = false ∧ 8 ≤ (bootSt 8 (fun h => { h with boot := { h.boot with fails := 8 } })).hw.boot.fails) := by
  decide +kernel

/-- Lamp 3 in a phase of its start-up. -/
def lampSt (s ph : Nat) (g : Hw → Hw) : State := bootSt 8 (fun h => g (h.modLamp 3 (fun l => { l with st := s, phase := ph })))
theorem witness_LampsStartUpInOrder :
    (∀ e ∈ [(2, 1), (3, 2), (4, 3)], ((lampSt e.1 e.2 id).hw.lamp 3).st = e.1 ∧ ((lampSt e.1 e.2 id).hw.lamp 3).phase = e.2) ∧
    (∀ o ∈ [true, false], ((lampSt 1 0 (fun h => h.modLamp 3 (fun l => { l with open_ := o }))).hw.lamp 3).open_ = o) ∧
    (let st := lampSt 1 0 (fun h => { h with boot := { h.boot with fallow := 3 } });
      st.hw.boot.fallow = 3 ∧ (∀ m < 4, (st.hw.lamp m).phase = 0) ∧ (lampSt 1 0 id).hw.boot.fallow ≠ 3 ∧ (lampSt 1 0 id).hw.lampsRun = true) ∧
    (((lampSt 4 3 id).hw.lamp 3).st = 4 ∧ (lampSt 4 3 id).hw.accelHeld = false ∧ (lampSt 4 3 id).hw.lampsRun = true ∧ (lampSt 4 3 id).hw.fab.qps = [] ∧ 96 ∈ lampLinks 3 ∧ (lampSt 4 3 (fun h => h.setRegF (carterReg 12 0) 0 2 0)).hw.portMode 12 < 2 ∧
      0 < (lampSt 4 3 (fun h => h.setRegF (carterReg 12 0) 0 2 0)).hw.portLinks 12) := by
  decide +kernel

/-! ## Tests: the worked examples of spec/, and small hand calculations -/

/-- 00 Worked example "addresses and indices"; 09 after Table 09-3: the register block of global tile 34 and its UPD.STATUS. -/
theorem test_addresses_of_tile_34 :
    granBase 34 = 0x51000000 ∧ granBase 79 + 0x7FFFFF = 0x67FFFFFF ∧ dieLocalBase 3 = 0x2500000000 ∧ tileReg 34 0 = 0x2C140000 ∧
      locReg 0x2C140D00 = .reg .tile 34 0xD00 := by
  decide +kernel

/-- 09 Worked example "one alias address": i = 0x1_2345_6800 names die 5, offset 0x2468_A800, stack 1. -/
theorem test_alias_address :
    keyOf (0x10000000000 + 0x123456800) = 0x3D2468A800 ∧ locate State.reset.ident 0x3D2468A800 = .hbm 5 0x2468A800 ∧ stackOf 5 0x2468A800 = 11 := by
  decide +kernel

/-- 04 Worked example "encoding one MMA": the instruction's word and its operand words. -/
theorem test_mma_word : decode32 0x68C5870B = some (.tensor 0 0 11 12 13 14) := by decide +kernel
theorem test_mma_operands :
    let f := Mma.of 0x0001800010000000 0x0000004001000100 0x0000000100FF81E0
    f.aoff = 0 ∧ f.boff = 0x400 ∧ f.yoff = 0x1800 ∧ f.m = 256 ∧ f.n = 256 ∧ f.k = 64 ∧ f.split = 1 ∧ f.nrows = 16 ∧ f.ncols = 32 ∧ f.q = 16 ∧
      f.drain = true ∧ f.acc = false ∧ f.groups = 512 := by
  decide +kernel
theorem test_mma_sync_word :
    syWen 0x01410140 = true ∧ syWKeep 0x01410140 = false ∧ syWTok 0x01410140 = 0 ∧ syWCnt 0x01410140 = 1 ∧ sySen 0x01410140 = true ∧
      sySTok 0x01410140 = 1 ∧ sySCnt 0x01410140 = 1 := by
  decide +kernel
/-- It passes the issue checks on a stream that holds rows 0 to 15, and not on one that holds rows 0 to 14. -/
theorem test_mma_checks :
    mmaCheck Tile.init 0xFFFF 0x0001800010000000 0x0000004001000100 0x0000000100FF81E0 false = none ∧
      mmaCheck Tile.init 0x7FFF 0x0001800010000000 0x0000004001000100 0x0000000100FF81E0 false = some 7 := by
  decide +kernel
/-- The stream fetches it and queues it, and moves past its four bytes. -/
theorem test_mma_issues :
    let h := after (.streamInstruction 0 0) (at_ (fun _ => (strm [0x68C5870B]).hw.modStream 0 0 (fun x =>
      { (((x.setX 11 0x0001800010000000).setX 12 0x0000004001000100).setX 13 0x0000000100FF81E0).setX 14 0x01410140 with
          granted := 0xFFFF, request := 0xFFFF })))
    (h.stream 0 0).queue = [⟨0, 0, 0x01410140, .mma 0x0001800010000000 0x0000004001000100 0x0000000100FF81E0⟩] ∧ (h.stream 0 0).issued = 1 ∧
      (h.stream 0 0).pc = 4 := by
  decide +kernel

/-- 05 after R136: the rounding draw of element 70,000 in the fifth command of the backward stream of tile 34. -/
theorem test_vector_draw_key : vecKey1 34 1 (70000 % 256) = 0x1022107000000000 ∧ vecKey2 4 70000 1 = 0x0000040000000223 := by decide +kernel

/-- 03 Worked example "small terms that fp32 would drop": the entry (1.0, 2^-20) drains as 0x3F80_0008. -/
theorem test_drain_keeps_small_terms : (⟨0x3F800000, 0x35800000⟩ : Pair).round32 = 0x3F800008 := by decide +kernel

/-- 08 Worked example "three ranks and a rounding tie": (1.0 ⊞ 2^-24) ⊞ 2^-24 gives 0x3F80_0001. -/
theorem test_three_ranks :
    let a : Pair := ⟨0x3F800000, 0⟩
    let b : Pair := ⟨0x33800000, 0⟩
    a.comb b = ⟨0x3F800000, 0x33800000⟩ ∧ ((a.comb b).comb b).round32 = 0x3F800001 := by
  decide +kernel

/-- 04 R90: a token is 16 bits wide; R89: a signal does not pass 65,535. -/
theorem test_token_width : ((after (.tokenWrite 3 5 70000) State.reset).tile 3).token 5 = 4464 := by decide +kernel
theorem test_token_ceiling :
    ((after (.tsig 0 0 1 2) { ready3 with hw := ready3.hw.modTile 0 (fun t => t.setToken 5 65534) }).tile 0).token 5 = 65535 := by decide +kernel

/-- 12 R306, Table 12-21: a term of 0 counts as 1 ms. -/
theorem test_lease_term : (after (.leaseEnable 0x8000000000000000) State.reset).fab.leaseAt = 1000000 := by decide +kernel

/-- 13 R312: an offset of 7 units of 2^-16 ns is absorbed in 2 ns at 6 units a nanosecond. -/
theorem test_slew_time :
    (after .slewDone (at_ (fun h => { h with bell := { h.bell with slew := 7 } }))).localNs = 2 := by decide +kernel

/-- 15 R359: ID_GET replies OK with the length of its record, 1,024, at byte 16; the mailbox is DONE (R351). -/
theorem test_id_get_reply :
    let b := (after .idGet (clk 5 (cmdRec 1 1024 []) [] id)).mbox 5
    b.busy = false ∧ b.done = true ∧ b.last = 0 ∧ recN b.rep 16 4 = 1024 := by
  decide +kernel

/-- 20 R445: MRST_N begins step 2 with reset cause 2 and forgets the tiles. -/
theorem test_mrst :
    let h := after .mrstNAssert (bootSt 8 (fun h => h.modTile 0 (fun t => t.setToken 5 9)))
    h.boot.phase = 2 ∧ h.boot.cause = 2 ∧ (h.tile 0).token 5 = 0 := by
  decide +kernel

end Sys2Proof.Tests
end

section
/-!
02 R43, what a drain leaves of the matrix cores' stores. On a tile whose tables are in canonical form SLOT_DRAIN leaves every slot,
plane and trough entry its contents (`does_slotDrain_sameContents`). The obligation asks it of every value of `State`, also of one whose
table lists a core twice, and there it fails: the entries that `Tile.dropCmd` clears away uncover the ones behind them.
-/
namespace Sys2Proof.Machine

/-! ## Tables whose entries are all changed -/

/-- What a table reads at `k` is the default or is listed. -/
theorem SMap.get_eq_or_mem {α : Type} (d : α) (m : SMap α) (k : Nat) : SMap.get d m k = d ∨ (k, SMap.get d m k) ∈ m := by
  induction m with
  | nil => exact .inl rfl
  | cons e m ih =>
    obtain ⟨j, v⟩ := e
    by_cases hj : j = k
    · simp [SMap.get, hj]
    · simp only [SMap.get, if_neg hj, List.mem_cons]
      exact ih.imp_right .inr

/-- A canonical table lists no key below its bound. -/
theorem SMap.get_of_lt {α : Type} [DecidableEq α] (d : α) {m : SMap α} {lo k : Nat} (h : SMap.wfFrom d lo m = true) (hk : k < lo) :
    SMap.get d m k = d := by
  induction m generalizing lo with
  | nil => rfl
  | cons e m ih =>
    obtain ⟨j, v⟩ := e
    simp only [SMap.wfFrom, Bool.and_eq_true, decide_eq_true_eq] at h
    obtain ⟨⟨hlo, -⟩, hm⟩ := h
    rw [SMap.get, if_neg (by omega)]
    exact ih hm (by omega)

theorem SMap.get_remap_of_lt {α : Type} [DecidableEq α] (d : α) (f : Nat → α → α) {m : SMap α} {lo k : Nat} (h : SMap.wfFrom d lo m = true)
    (hk : k < lo) : SMap.get d (SMap.remap d f m) k = d := by
  induction m generalizing lo with
  | nil => rfl
  | cons e m ih =>
    obtain ⟨j, v⟩ := e
    simp only [SMap.wfFrom, Bool.and_eq_true, decide_eq_true_eq] at h
    obtain ⟨⟨hlo, -⟩, hm⟩ := h
    have hne : ¬ j = k := by omega
    have rest := ih hm (by omega)
    by_cases hd : f j v = d
    · simpa [SMap.remap, hd] using rest
    · simpa [SMap.remap, hd, SMap.get, hne] using rest

/-- Changing every entry of a canonical table changes what each key reads, where unlisted keys keep the default. -/
theorem SMap.get_remap {α : Type} [DecidableEq α] (d : α) (f : Nat → α → α) {m : SMap α} {lo : Nat} (h : SMap.wfFrom d lo m = true)
    (k : Nat) (hf : f k d = d) : SMap.get d (SMap.remap d f m) k = f k (SMap.get d m k) := by
  induction m generalizing lo with
  | nil => exact hf.symm
  | cons e m ih =>
    obtain ⟨j, v⟩ := e
    simp only [SMap.wfFrom, Bool.and_eq_true, decide_eq_true_eq] at h
    obtain ⟨-, hm⟩ := h
    by_cases hj : j = k
    · subst hj
      by_cases hd : f j v = d
      · simpa [SMap.remap, hd, SMap.get] using SMap.get_remap_of_lt d f hm (Nat.lt_succ_self j)
      · simp [SMap.remap, hd, SMap.get]
    · have rest := ih hm
      by_cases hd : f j v = d
      · simpa [SMap.remap, hd, SMap.get, hj] using rest
      · simpa [SMap.remap, hd, SMap.get, hj] using rest

/-! ## Contents of a core's stores -/

/-- Every slot of the core has the same entries and kind, every plane and trough entry the same bytes. -/
def Core.SameContents (x y : Core) : Prop :=
  ∀ sl, (y.slot sl).ent = (x.slot sl).ent ∧ (y.slot sl).kind = (x.slot sl).kind ∧ y.act.data = x.act.data ∧ y.load.data = x.load.data ∧
    (SMap.get .empty y.trough sl).data = (SMap.get .empty x.trough sl).data

def Tile.SameContents (t t' : Tile) : Prop := ∀ m, (t.core m).SameContents (t'.core m)

def Hw.SameContents (a b : Hw) : Prop := ∀ u, (a.tile u).SameContents (b.tile u)

theorem Core.SameContents.refl (x : Core) : x.SameContents x := fun _ => ⟨rfl, rfl, rfl, rfl, rfl⟩

theorem Core.SameContents.trans {x y z : Core} (h : x.SameContents y) (h' : y.SameContents z) : x.SameContents z := by
  intro sl
  obtain ⟨e, k, a, l, t⟩ := h sl
  obtain ⟨e', k', a', l', t'⟩ := h' sl
  exact ⟨e'.trans e, k'.trans k, a'.trans a, l'.trans l, t'.trans t⟩

theorem Tile.SameContents.trans {t t' t'' : Tile} (h : t.SameContents t') (h' : t'.SameContents t'') : t.SameContents t'' :=
  fun m => (h m).trans (h' m)

theorem Hw.SameContents.trans {a b c : Hw} (h : a.SameContents b) (h' : b.SameContents c) : a.SameContents c :=
  fun u => (h u).trans (h' u)

theorem Tile.SameContents.of_cores {t t' : Tile} (h : t'.cores = t.cores) : t.SameContents t' := by
  intro m
  rw [Tile.core, Tile.core, h]
  exact .refl _

theorem Hw.SameContents.of_cores {a b : Hw} (h : ∀ u, (b.tile u).cores = (a.tile u).cores) : a.SameContents b :=
  fun u => .of_cores (h u)

theorem Hw.SameContents.of_tiles {a b : Hw} (h : b.tiles = a.tiles) : a.SameContents b :=
  .of_cores (fun u => by rw [Hw.tile, Hw.tile, h])

theorem Tile.core_modCore (t : Tile) (c m : Nat) (f : Core → Core) :
    (t.modCore c f).core m = if m = c then f (t.core c) else t.core m := by
  simp [Tile.core, Tile.modCore, SMap.get_mod_ite]

theorem Core.slot_modSlot (x : Core) (sl k : Nat) (f : Slot → Slot) :
    (x.modSlot sl f).slot k = if k = sl then f (x.slot sl) else x.slot k := by
  simp [Core.slot, Core.modSlot, SMap.get_mod_ite]

/-- A slot whose entries and kind stand. -/
theorem Core.sameContents_modSlot (x : Core) (sl : Nat) (f : Slot → Slot) (he : ∀ y, (f y).ent = y.ent) (hk : ∀ y, (f y).kind = y.kind) :
    x.SameContents (x.modSlot sl f) := by
  intro k
  rw [Core.slot_modSlot]
  by_cases h : k = sl
  · subst h
    rw [if_pos rfl]
    exact ⟨he _, hk _, rfl, rfl, rfl⟩
  · rw [if_neg h]
    exact ⟨rfl, rfl, rfl, rfl, rfl⟩

theorem Tile.sameContents_modCore (t : Tile) (c : Nat) (f : Core → Core) (hf : (t.core c).SameContents (f (t.core c))) :
    t.SameContents (t.modCore c f) := by
  intro m
  rw [Tile.core_modCore]
  by_cases h : m = c
  · subst h
    rwa [if_pos rfl]
  · rw [if_neg h]
    exact .refl _

theorem Hw.sameContents_modTile (h : Hw) (g : Nat) (f : Tile → Tile) (hf : (h.tile g).SameContents (f (h.tile g))) :
    h.SameContents (h.modTile g f) := by
  intro u
  rw [Hw.tile_modTile]
  by_cases e : u = g
  · subst e
    rwa [if_pos rfl]
  · rw [if_neg e]
    exact .of_cores rfl

/-! ## An array command that ends -/

/-- The tile's core table and its cores' trough tables are in canonical form. -/
def Tile.canonicalCores (t : Tile) : Bool := SMap.wf .init t.cores && t.cores.all (fun e => SMap.wf .empty e.2.trough)

theorem Tile.wf_trough {t : Tile} (h : t.canonicalCores = true) (m : Nat) : SMap.wf .empty (t.core m).trough = true := by
  simp only [Tile.canonicalCores, Bool.and_eq_true, List.all_eq_true] at h
  obtain ⟨-, ht⟩ := h
  obtain hd | hm := SMap.get_eq_or_mem Core.init t.cores m
  · rw [Tile.core, hd]
    rfl
  · exact ht _ hm

/-- A core that forgets a command's blocks keeps their bytes: only whose they were is lost. -/
theorem Core.sameContents_forget (x : Core) (s seq : Nat) (h : SMap.wf .empty x.trough = true) : x.SameContents (x.forget s seq) := by
  have drop_data : ∀ (p : Bool) (b : Block), (if p then { b with id := none } else b).data = b.data := by
    intro p b
    cases p <;> rfl
  intro sl
  refine ⟨rfl, rfl, drop_data _ _, drop_data _ _, ?_⟩
  rw [Core.forget, SMap.get_remap _ _ h sl rfl]
  exact drop_data _ _

theorem Tile.core_dropCmd (t : Tile) (s seq m : Nat) (h : SMap.wf .init t.cores = true) :
    (t.dropCmd s seq).core m = (t.core m).forget s seq :=
  SMap.get_remap Core.init (fun _ x => x.forget s seq) h m rfl

theorem Tile.sameContents_dropCmd (t : Tile) (s seq : Nat) (h : t.canonicalCores = true) : t.SameContents (t.dropCmd s seq) := by
  intro m
  rw [Tile.core_dropCmd _ _ _ _ (Bool.and_eq_true _ _ ▸ h).1]
  exact Core.sameContents_forget _ _ _ (Tile.wf_trough h m)

theorem Tile.sameContents_haltCores (t : Tile) (cs : List Nat) : t.SameContents (t.haltCores cs) := by
  induction cs generalizing t with
  | nil => exact .of_cores rfl
  | cons c cs ih => exact (Tile.sameContents_modCore t c _ (fun _ => ⟨rfl, rfl, rfl, rfl, rfl⟩)).trans (ih _)

/-! ## Operations that leave every tile's cores -/

theorem Hw.foldl_tiles {α : Type} (f : Hw → α → Hw) (hf : ∀ h x, (f h x).tiles = h.tiles) (l : List α) (h : Hw) :
    (l.foldl f h).tiles = h.tiles := by
  induction l generalizing h with
  | nil => rfl
  | cons x xs ih => exact (ih _).trans (hf h x)

@[simp] theorem Hw.corrected_tiles (h : Hw) (g n : Nat) : (h.corrected g n).tiles = h.tiles := by
  unfold Hw.corrected
  split
  · rfl
  · simp

@[simp] theorem Hw.granGrants_tiles (h : Hw) (g off n : Nat) : (h.granGrants g off n).tiles = h.tiles := by
  unfold Hw.granGrants
  split
  · rfl
  · simp

@[simp] theorem Hw.granMend_tiles (h : Hw) (g off n : Nat) : (h.granMend g off n).tiles = h.tiles := by
  unfold Hw.granMend
  simp only
  split
  · rfl
  · rw [Hw.count_tiles, Hw.bump_tiles, Hw.modMem_tiles]

@[simp] theorem Hw.granFix_tiles (h : Hw) (g off n : Nat) : (h.granFix g off n).tiles = h.tiles := by simp [Hw.granFix]

@[simp] theorem guardTag_tiles (g off n : Nat) (h : Hw) (i : Nat) : (guardTag g off n h i).tiles = h.tiles := by
  unfold guardTag
  simp only
  split
  · rw [Hw.bump_tiles, Hw.setRegF_tiles]
  · rfl

@[simp] theorem Hw.granWrite_tiles (h : Hw) (g off : Nat) (b : List Byte) : (h.granWrite g off b).tiles = h.tiles := by
  unfold Hw.granWrite
  split
  · rfl
  · rw [Hw.foldl_tiles _ (fun h i => guardTag_tiles g off b.length h i)]
    simp

@[simp] theorem writeTile_tiles (g : Nat) (f : Mma) (order base stride i j : Nat) (out : Nat → Nat → Nat) (h : Hw) :
    (writeTile g f order base stride i j out h).tiles = h.tiles := by
  unfold writeTile
  simp only
  split
  · exact Hw.foldl_tiles _ (fun h r => Hw.granWrite_tiles h g _ _) _ _
  · split
    · split <;> simp
    · simp

@[simp] theorem drainWrite_tiles (g : Nat) (a : ArrayCmd) (i j : Nat) (res : List ((Nat × Nat) × (Nat × Bool) × Nat)) (h : Hw) :
    (drainWrite g a i j res h).tiles = h.tiles := by
  unfold drainWrite
  simp only
  split <;> simp

@[simp] theorem Hw.titheWrite_tiles (h : Hw) (g : Nat) (a : ArrayCmd) : (h.titheWrite g a).tiles = h.tiles := by
  unfold Hw.titheWrite
  refine Hw.foldl_tiles _ (fun h w => ?_) _ _
  extract_lets x st counted
  have hc : counted.tiles = h.tiles := by
    dsimp only [counted]
    split
    · rw [Hw.bump_tiles]
    · rw [Hw.countTile_tiles, Hw.bump_tiles, Hw.granWrite_tiles]
  split
  · exact hc
  · exact hc

@[simp] theorem Hw.markModel_tiles (h : Hw) (m : Nat) : (h.markModel m).tiles = h.tiles := by
  unfold Hw.markModel
  split <;> rfl

@[simp] theorem Hw.uncorrectable_tiles (h : Hw) (cls src : Nat) (c : Option Nat) (a : Nat) (detail : List (Nat × Nat × Nat))
    (shard : Option Nat) : (h.uncorrectable cls src c a detail shard).2.tiles = h.tiles := by
  unfold Hw.uncorrectable
  simp only
  split
  · exact Hw.markModel_tiles _ _
  · rfl

@[simp] theorem Hw.coverFor_tiles (h : Hw) (r : ErrRec) (a : Nat) : (h.coverFor r a).tiles = h.tiles := by
  unfold Hw.coverFor
  split
  · exact Hw.foldl_tiles _ (fun h c => Hw.modCtx_tiles h c _) _ _
  · rfl

@[simp] theorem Hw.endWork_tiles (h : Hw) (g status : Nat) : (h.endWork g status).tiles = h.tiles := by
  unfold Hw.endWork
  split
  · rfl
  · simp only [Hw.modRes_tiles, Hw.event_tiles, Hw.setWork_tiles, apply_ite Hw.tiles, ite_self]

theorem Hw.tile_of_tiles {a b : Hw} (h : a.tiles = b.tiles) (u : Nat) : a.tile u = b.tile u := by rw [Hw.tile, Hw.tile, h]

theorem Hw.tile_coverFor (h : Hw) (r : ErrRec) (a u : Nat) : (h.coverFor r a).tile u = h.tile u :=
  Hw.tile_of_tiles (h.coverFor_tiles r a) u

theorem Hw.tile_uncorrectable (h : Hw) (cls src : Nat) (c : Option Nat) (a : Nat) (detail : List (Nat × Nat × Nat)) (shard : Option Nat)
    (u : Nat) : (h.uncorrectable cls src c a detail shard).2.tile u = h.tile u :=
  Hw.tile_of_tiles (h.uncorrectable_tiles cls src c a detail shard) u

theorem Hw.cores_modTile (h : Hw) (g u : Nat) (f : Tile → Tile) (hf : ∀ t, (f t).cores = t.cores) :
    ((h.modTile g f).tile u).cores = (h.tile u).cores := by
  rw [Hw.tile_modTile]
  split
  · next e => rw [hf, e]
  · rfl

theorem Hw.cores_modStream (h : Hw) (g s u : Nat) (f : Stream → Stream) : ((h.modStream g s f).tile u).cores = (h.tile u).cores :=
  h.cores_modTile g u (fun t => t.modStream s f) (fun _ => rfl)

theorem Tile.modStream_cores (t : Tile) (s : Nat) (f : Stream → Stream) : (t.modStream s f).cores = t.cores := rfl

theorem Tile.release_cores (t : Tile) : t.release.cores = t.cores := by
  unfold Tile.release
  split
  · simp only [Tile.modStream_cores]
  · rfl

theorem Tile.haltAll_cores (t : Tile) : t.haltAll.cores = t.cores := by simp only [Tile.haltAll, Tile.modStream_cores]

/-- The end of a command changes streams alone. -/
theorem Hw.endCmd_cores (h : Hw) (g s seq u : Nat) : ((h.endCmd g s seq).tile u).cores = (h.tile u).cores := by
  unfold Hw.endCmd
  simp only
  rw [Hw.tile_countTile, Hw.cores_modStream, Hw.cores_modTile]
  intro t
  rw [Tile.release_cores, Tile.modStream_cores]

theorem Hw.endFaulted_cores (h : Hw) (g s seq u : Nat) : ((h.endFaulted g s seq).tile u).cores = (h.tile u).cores := by
  unfold Hw.endFaulted
  simp only
  rw [Hw.endCmd_cores, Hw.cores_modStream]

/-- A stream's fault changes streams alone, whether or not it is the tile's first (04 R83). -/
theorem Hw.faultWith_cores (h : Hw) (g s cause detail pc : Nat) (r : ErrRec) (u : Nat) :
    ((h.faultWith g s cause detail pc r).tile u).cores = (h.tile u).cores := by
  by_cases hf : (h.tile g).faulted = true
  · have sent : (h.send (h.blame (h.tileCtx g) r)).tile g = h.tile g := rfl
    unfold Hw.faultWith
    simp only [sent, hf, if_true]
    split <;> rfl
  · rw [Hw.tile_of_tiles (Hw.faultWith_tile h g s cause detail pc r (by simpa using hf)), Hw.cores_modTile]
    intro t
    rw [Tile.modStream_cores, Tile.haltAll_cores]

theorem Hw.streamUncorr_cores (h : Hw) (g s pc cls src a : Nat) (detail : List (Nat × Nat × Nat)) (shard : Option Nat) (u : Nat) :
    ((h.streamUncorr g s pc cls src a detail shard).tile u).cores = (h.tile u).cores := by
  unfold Hw.streamUncorr
  simp only
  rw [Hw.tile_coverFor, Hw.faultWith_cores, Hw.tile_uncorrectable]

/-- An array command that stops for an uncorrectable error halts cores and leaves what they hold (02 R55). -/
theorem Hw.sameContents_dropArray (h : Hw) (g s seq : Nat) (cs : List Nat) (cls src a : Nat) (detail : List (Nat × Nat × Nat))
    (hc : (h.tile g).canonicalCores = true) : h.SameContents (h.dropArray g s seq cs cls src a detail) := by
  refine (Hw.sameContents_modTile h g (fun t => (t.dropCmd s seq).haltCores cs) ?_).trans (.of_cores (fun u => ?_))
  · exact (Tile.sameContents_dropCmd _ _ _ hc).trans (Tile.sameContents_haltCores _ _)
  · exact (Hw.endFaulted_cores _ _ _ _ _).trans (Hw.streamUncorr_cores _ _ _ _ _ _ _ _ _ _)

/-! ## The drain -/

/-- What a drain changes in its tile: the leader's drain count, the slot's saturation mark, and the command's progress. -/
theorem Tile.sameContents_drained (t : Tile) (c sl s seq : Nat) (met : Bool) (f : ArrayCmd → ArrayCmd) :
    t.SameContents ((t.modCore c (fun x =>
      ({ x with drains := x.drains + 1 }).modSlot sl (fun y => { y with sat := y.sat || met }))).modArr s seq f) := by
  refine Tile.SameContents.trans (Tile.sameContents_modCore t c (fun x =>
    ({ x with drains := x.drains + 1 }).modSlot sl (fun y => { y with sat := y.sat || met })) ?_) (.of_cores rfl)
  have counted : (t.core c).SameContents { t.core c with drains := (t.core c).drains + 1 } := fun _ => ⟨rfl, rfl, rfl, rfl, rfl⟩
  exact counted.trans (Core.sameContents_modSlot _ _ _ (fun _ => rfl) (fun _ => rfl))

/-- A drain of a tile in canonical form leaves what every core of every tile holds. -/
theorem slotDrain_sameContents (g s c : Nat) (h : Hw) (hc : (h.tile g).canonicalCores = true) : h.SameContents (slotDrain g s c h) := by
  have same : h.SameContents h := .of_tiles rfl
  unfold slotDrain
  extract_lets t
  split
  · exact same
  extract_lets f wave sl mended
  split
  · exact same
  split
  · exact same
  extract_lets ms
  split
  · exact same
  split
  · exact Hw.sameContents_dropArray _ _ _ _ _ _ _ _ _ hc
  split
  · refine Hw.SameContents.trans (.of_tiles (Hw.bump_tiles h _ _ _ _)) (Hw.sameContents_dropArray _ _ _ _ _ _ _ _ _ ?_)
    rw [Hw.tile_of_tiles (Hw.bump_tiles h _ _ _ _)]
    exact hc
  extract_lets res written corrected nsat ncomb met drew marked counted drained
  have mended_tiles : mended.tiles = h.tiles := by
    dsimp only [mended]
    split
    · exact Hw.granFix_tiles _ _ _ _
    · rfl
  have corrected_tiles : corrected.tiles = h.tiles :=
    (Hw.corrected_tiles _ _ _).trans ((drainWrite_tiles _ _ _ _ _ _).trans mended_tiles)
  have drew_tiles : drew.tiles = h.tiles := by
    dsimp only [drew]
    split
    · exact corrected_tiles
    · exact corrected_tiles
  have marked_tiles : marked.tiles = h.tiles := by
    dsimp only [marked]
    split
    · exact (Hw.setRegF_tiles _ _ _ _ _).trans drew_tiles
    · exact drew_tiles
  have counted_tiles : counted.tiles = h.tiles := by
    dsimp only [counted]
    rw [Hw.countTile_tiles, Hw.countTile_tiles, Hw.countTile_tiles, marked_tiles]
  have drained_same : h.SameContents drained :=
    Hw.SameContents.trans (.of_tiles counted_tiles) (Hw.sameContents_modTile _ _ _ (Tile.sameContents_drained _ _ _ _ _ _ _))
  split
  · split
    · exact drained_same.trans (.of_tiles (Hw.titheWrite_tiles _ _ _))
    · exact drained_same
  · exact drained_same

theorem exec_slotDrain (g s c : Nat) (st : State) :
    exec (.slotDrain g s c) st = .next { st with hw := slotDrain g s c st.hw.fresh } := rfl

theorem does_slotDrain_iff (g s c : Nat) (st : State) (P : Hw → Prop) :
    Does (.slotDrain g s c) st P ↔ P (slotDrain g s c st.hw.fresh) := by
  constructor
  · rintro ⟨h, ran, hP⟩
    rw [exec_slotDrain] at ran
    injection ran with ran
    have hw : slotDrain g s c st.hw.fresh = h := congrArg State.hw ran
    rwa [hw]
  · exact fun hP => ⟨_, exec_slotDrain g s c st, hP⟩

/-- SLOT_DRAIN on a tile in canonical form leaves every slot, plane and trough entry of the module its contents (02 R43). -/
theorem does_slotDrain_sameContents (g s c : Nat) (st : State) (hc : (st.hw.tile g).canonicalCores = true) :
    Does (.slotDrain g s c) st st.hw.SameContents :=
  (does_slotDrain_iff g s c st _).mpr (slotDrain_sameContents g s c st.hw.fresh hc)

/-! ## A drain stopped by an uncorrectable error, on a table that lists a core twice -/

/-- An MDRAIN of one 8 × 16 tile on core 0. -/
def oneTileDrain : ArrayCmd :=
  { stream := 0, seq := 0, md := true, rs1 := 0, rs2 := BitVec.ofNat 64 (8 + 16 * 2 ^ 16 + 8 * 2 ^ 32), rs3 := 0, epi := []
    step := 0, steps := [], drains := [], tithe := [], outs := [] }

/-- Tile 0 has it to drain. Its core 0 holds an uncorrectable error in the first word of slot 0, `others` are its other cores. -/
def stoppedDrain (others : SMap Core) : State :=
  { State.reset with hw := { Hw.reset with tiles := [(0, { Tile.init with
      arr := [oneTileDrain], cores := (0, { Core.init with bad := [(18, 0)] }) :: others })] } }

/-- A core whose slot 0 holds a float tile. -/
def floatCore : Core := { Core.init with slots := [(0, ⟨.float, [], false⟩)] }

/-- Each core listed once: the drain stops, and every content stands. -/
theorem does_stoppedDrain_sameContents :
    Does (.slotDrain 0 0 0) (stoppedDrain [(1, floatCore)]) (stoppedDrain [(1, floatCore)]).hw.SameContents :=
  does_slotDrain_sameContents 0 0 0 _ (by decide +kernel)

/-- Core 1 listed twice, first as it is at reset: it reads so before the stopped drain, and as its second entry after. -/
theorem stoppedDrain_uncovers_core :
    let st := stoppedDrain [(1, Core.init), (1, floatCore)]
    (((st.hw.tile 0).core 1).slot 0).kind = .none ∧ ((((slotDrain 0 0 0 st.hw.fresh).tile 0).core 1).slot 0).kind = .float := by
  decide +kernel

/-- Refutes O20, for a state whose core table is not in canonical form: the drain stops for an uncorrectable error, `Tile.dropCmd`
drops core 1's first entry, which is the default, and the entry behind it is read instead. In canonical form the statement holds
(`does_slotDrain_sameContents`). -/
theorem not_drainLeavesSlotContents : ¬ Obligations.DrainLeavesSlotContents := by
  unfold Obligations.DrainLeavesSlotContents
  intro leaves
  obtain ⟨before, after⟩ := stoppedDrain_uncovers_core
  have stands := (does_slotDrain_iff _ _ _ _ _).mp (leaves 0 0 0 (stoppedDrain [(1, Core.init), (1, floatCore)]))
  obtain ⟨-, kind, -⟩ := stands 0 1 0
  rw [after, before] at kind
  exact absurd kind (by decide)

end Sys2Proof.Machine
end

section
/-!
06 R145, carts: what a CART is rejected for at issue, which cart takes it at the queue head, and how it waits where none does.
-/
namespace Sys2Proof.Machine

/-! ## Issue -/

/-- A command whose meaning is a stream's fault, in a tile without one, faults that stream and leaves every other tile (04 R83). -/
theorem faultsWith_of_streamFault {c : Instr} {g s cause detail pc : Nat} {st : State}
    (ran : exec c st = .next { st with hw := st.hw.fresh.streamFault g s cause detail pc }) (hf : (st.hw.tile g).faulted = false) :
    FaultsWith c g s cause detail pc st := by
  have faulted := Hw.streamFault_stream st.hw.fresh g s cause detail pc hf
  refine ⟨_, ran, congrArg Stream.st faulted, congrArg Stream.cause faulted, congrArg Stream.detail faulted,
    congrArg Stream.faultPc faulted, fun u hu => ?_⟩
  exact (Hw.tile_of_tiles (Hw.faultWith_tile st.hw.fresh g s cause detail pc _ hf) u).trans (Hw.tile_modTile_ne _ _ hu)

theorem exec_cart (g s rs1 rs2 sy : Nat) (st : State) :
    exec (.cart g s rs1 rs2 sy) st = .next { st with hw := cartIssue g s rs1 rs2 sy st.hw.fresh } := rfl

/-- A descriptor offset that is too wide, misaligned or too high, or a selector that is too wide, rejects the command (06 R145). -/
theorem cartIssue_rejected (g s rs1 rs2 sy : Nat) (h : Hw) (may : h.mayIssue g s [sy, rs1, rs2] = true)
    (hsy : ((h.stream g s).getX sy).toNat < 2 ^ 39)
    (bad : let a := ((h.stream g s).getX rs1).toNat
      (a / 2 ^ 23 ≠ 0 ∨ a % 32 ≠ 0 ∨ 0x5FFFE0 < a) ∨ ((h.stream g s).getX rs2).toNat / 8 ≠ 0) :
    cartIssue g s rs1 rs2 sy h = h.streamFault g s 0x02 0x0D (h.stream g s).pc := by
  refine Hw.queueCmd_error h g s [rs1, rs2] sy _ 0x0D may hsy ?_
  obtain offset | selector := bad
  · exact if_pos offset
  · simp only [if_pos selector, ite_self]

/-! ## The choice of a cart -/

/-- With ANY, the lowest-numbered idle cart (06 R145). -/
theorem Tile.cartFor_any (t : Tile) {sel : Nat} (lo : 4 ≤ sel) (hi : sel < 8) (i : Nat) :
    t.cartFor sel = some i ↔ i < 4 ∧ (t.cart i).busy = false ∧ ∀ j < i, (t.cart j).busy = true := by
  have any : bitAt sel 2 = true := by
    simp only [bitAt, beq_iff_eq]
    omega
  rw [Tile.cartFor, if_pos any, List.find?_range_eq_some]
  simp only [Bool.not_eq_true', Bool.not_not, List.mem_range]
  exact and_left_comm

/-- Without ANY, the cart named while it is idle (06 R145). -/
theorem Tile.cartFor_named (t : Tile) {sel : Nat} (hi : sel < 4) :
    t.cartFor sel = if (t.cart sel).busy then none else some sel := by
  have named : ¬ bitAt sel 2 = true := by
    simp only [bitAt, beq_iff_eq]
    omega
  rw [Tile.cartFor, if_neg named, Nat.mod_eq_of_lt hi]

/-! ## The queue head -/

/-- A CART at the head that waits for no token goes exactly when some cart takes it (04 R85, 06 R145). -/
theorem Hw.headGoes_cart (h : Hw) (g s : Nat) {c : QCmd} {off sel : Nat} (hop : c.op = .cart off sel) (hw : syWen c.sync = false) :
    h.headGoes g s c = ((h.tile g).cartFor sel).isSome := by
  simp [Hw.headGoes, Hw.accepts, Tile.waitMet, hop, hw]

theorem commandDispatch_cart_waits (id : Ident) (g s : Nat) (h : Hw) {c : QCmd} {rest : List QCmd} {off sel : Nat}
    (hq : (h.stream g s).queue = c :: rest) (hop : c.op = .cart off sel) (hw : syWen c.sync = false)
    (none_idle : (h.tile g).cartFor sel = none) : commandDispatch id g s h = h := by
  simp [commandDispatch, Hw.tryDispatch, hq, Hw.headGoes_cart h g s hop hw, none_idle]

/-- A CART whose cart is not to be had waits with reason 0x04, where the control core itself waits for nothing (06 R145). -/
theorem Hw.waitOf_cart (h : Hw) (g s : Nat) {c : QCmd} {rest : List QCmd} {off sel : Nat}
    (hq : (h.stream g s).queue = c :: rest) (hop : c.op = .cart off sel) (none_idle : (h.tile g).cartFor sel = none)
    (running : (h.stream g s).st = .running) (started : (h.stream g s).startReq = false) (no_wait : (h.stream g s).twait = none)
    (room : (h.stream g s).full = false) (no_stall : (h.stream g s).stall = []) : h.waitOf g s = (4, 0) := by
  unfold Hw.stream at hq running started no_wait room no_stall
  have not_free : h.unitFree g s c = false := by simp [Hw.unitFree, hop, QOp.isVec, Hw.accepts, none_idle]
  simp [Hw.waitOf, running, started, no_wait, room, no_stall, Stream.waitsOn, hq, not_free, hop]

/-! ## Dispatch -/

theorem Hw.only_applyShadow {ps : List Piece} (h : Hw) (lo hi : Nat) (hr : Piece.regs ∈ ps) (hs : Piece.shadow ∈ ps) :
    Hw.onlyChanges ps h (h.applyShadow lo hi) := by
  refine Hw.only_foldl _ (fun h e => ?_) _ _
  have written (v : Nat) (sh : SMap (Option Word)) : Hw.onlyChanges ps h { h.setReg e.1 v with shadow := sh } := by
    refine Hw.onlyChanges_trans (Hw.only_setReg h e.1 v hr) ?_
    intro p hn
    cases p
    case shadow => exact absurd hs hn
    all_goals rfl
  split
  · refine Hw.only_ite ?_ (h.onlyChanges_refl ps)
    split
    · split
      · exact written _ _
      · exact h.onlyChanges_refl ps
    · exact h.onlyChanges_refl ps
  · exact h.onlyChanges_refl ps

@[simp] theorem Hw.applyShadow_tiles (h : Hw) (lo hi : Nat) : (h.applyShadow lo hi).tiles = h.tiles :=
  (Hw.only_applyShadow (ps := [.regs, .shadow]) h lo hi (by decide) (by decide) .tiles (by decide)).symm
@[simp] theorem Hw.applyShadow_memS (h : Hw) (lo hi : Nat) : (h.applyShadow lo hi).memS = h.memS :=
  (Hw.only_applyShadow (ps := [.regs, .shadow]) h lo hi (by decide) (by decide) .memS (by decide)).symm

/-- What a granary read leaves changes memory and counters alone: a narrower frame than `Hw.only_granFix`, which allows for contexts too. -/
theorem Hw.granFix_only {ps : List Piece} (h : Hw) (g off n : Nat) (hm : Piece.memS ∈ ps) (hr : Piece.regs ∈ ps) :
    Hw.onlyChanges ps h (h.granFix g off n) := by
  have mended : Hw.onlyChanges ps h (h.granMend g off n) :=
    Hw.only_ite (h.onlyChanges_refl ps) (Hw.onlyChanges_trans (Hw.onlyChanges_trans (Hw.only_modMem _ _ hm) (Hw.only_bump _ _ _ _ _ hr))
      (Hw.only_count _ _ _ _ _ hr))
  exact Hw.onlyChanges_trans mended (Hw.only_ite (Hw.onlyChanges_refl _ _) (Hw.only_countTile _ _ _ _ _ hr))

/-- The checks of a cart's far side look at dies, contexts, windows and residency alone (06 R147). -/
theorem Hw.cartBase_of_onlyChanges (id : Ident) {a b : Hw} (g : Nat) (d : List Byte)
    (same : Hw.onlyChanges [.tiles, .memS, .regs, .shadow, .chron] a b) : b.cartBase id g d = a.cartBase id g d := by
  have present : b.present id = a.present id := by
    funext u
    rw [Hw.present, Hw.present, Hw.dieUp, Hw.dieUp, same .dieSt (by decide)]
  have tileCtx : b.tileCtx g = a.tileCtx g := by rw [Hw.tileCtx, Hw.tileCtx, Hw.res, Hw.res, same .resid (by decide)]
  have win : b.win = a.win := by
    funext c w
    rw [Hw.win, Hw.win, same .wins (by decide)]
  have ctxActive : b.ctxActive = a.ctxActive := by
    funext c
    rw [Hw.ctxActive, Hw.ctxActive, Hw.ctx, Hw.ctx, same .ctxs (by decide)]
  simp only [Hw.cartBase, present, tileCtx, win, ctxActive]

/-- A cart holds the command of stream `s` with sequence number `seq` and descriptor `d`. -/
def Cart.Holds (x : Cart) (s seq : Nat) (d : List Byte) : Prop := x.busy = true ∧ x.stream = s ∧ x.seq = seq ∧ x.desc = d

/-- A cart that issues pieces holds its command on. -/
theorem Cart.Holds.issue {x : Cart} {s seq : Nat} {d : List Byte} (h : x.Holds s seq d) : x.issue.Holds s seq d := by
  unfold Cart.issue
  split <;> exact h

@[simp] theorem Tile.cart_modCart_self (t : Tile) (i : Nat) (f : Cart → Cart) : (t.modCart i f).cart i = f (t.cart i) := by
  simp [Tile.cart, Tile.modCart]

theorem Tile.cart_modCart_ne (t : Tile) {i j : Nat} (f : Cart → Cart) (hne : j ≠ i) : (t.modCart i f).cart j = t.cart j := by
  simp [Tile.cart, Tile.modCart, SMap.get_mod_ne _ _ _ hne]

@[simp] theorem Tile.stream_modCart (t : Tile) (i s : Nat) (f : Cart → Cart) : (t.modCart i f).stream s = t.stream s := rfl

/-- A CART whose descriptor reads and passes every check of R147 leaves its cart busy with it, and of the tile changes nothing else. -/
theorem Hw.startCart_runs (id : Ident) (h : Hw) (g s : Nat) (c : QCmd) (i off : Nat) {d : List Byte} {b : Nat}
    (read : h.granRead g off 32 = .ok d) (checked : cartDescOk d = true) (far : h.cartBase id g d = some b) :
    ∃ x : Cart, x.Holds s c.seq d ∧ (h.startCart id g s c i off).tile g = (h.tile g).modCart i (fun _ => x) := by
  have far' : (h.granFix g off 32).cartBase id g d = some b :=
    (Hw.cartBase_of_onlyChanges id g d (Hw.granFix_only h g off 32 (by decide) (by decide))).trans far
  unfold Hw.startCart
  simp only [read, checked, if_true, far']
  rw [Hw.tile_modTile_self, Hw.tile_of_tiles (Hw.granFix_tiles h g off 32)]
  exact ⟨_, Cart.Holds.issue ⟨rfl, rfl, rfl, rfl⟩, rfl⟩

/-- A stream whose queue head `c` has been dispatched (04 R85). -/
def Stream.passHead (x : Stream) (c : QCmd) : Stream := { x with queue := x.queue.drop 1, live := x.live ++ [c] }

/-- The head of stream `s`, which waits for no token, has left the queue for its unit (04 R79, R85). -/
def Hw.launched (h : Hw) (g s : Nat) (c : QCmd) : Hw :=
  let h := (h.modStream g s (fun x => x.passHead c)).applyShadow (tileReg g 0) (tileReg g 0x10000)
  h.event 0x03 (g / 10) (g % 10) (h.tileCtx g) (c.eventData s)

theorem Hw.only_launched (h : Hw) (g s : Nat) (c : QCmd) : Hw.onlyChanges [.tiles, .memS, .regs, .shadow, .chron] h (h.launched g s c) :=
  Hw.onlyChanges_trans (Hw.onlyChanges_trans (Hw.only_modStream h g s _ (by decide)) (Hw.only_applyShadow _ _ _ (by decide) (by decide)))
    (Hw.only_event _ _ _ _ _ _ (by decide))

theorem Hw.tile_launched (h : Hw) (g s : Nat) (c : QCmd) :
    (h.launched g s c).tile g = (h.tile g).modStream s (fun x => x.passHead c) := by
  rw [Hw.launched, Hw.tile_event, Hw.tile_of_tiles (Hw.applyShadow_tiles _ _ _), Hw.tile_modStream_self]

theorem Hw.granRead_launched (h : Hw) (g s : Nat) (c : QCmd) (u off n : Nat) : (h.launched g s c).granRead u off n = h.granRead u off n := by
  rw [Hw.granRead, Hw.granRead, Hw.launched, Hw.event_memS, Hw.applyShadow_memS, Hw.modStream_memS]

/-- A CART that waits for no token starts on the cart that takes it. -/
theorem Hw.dispatch_cart (id : Ident) (h : Hw) (g s : Nat) {c : QCmd} {off sel i : Nat} (hop : c.op = .cart off sel)
    (hw : syWen c.sync = false) (taken : (h.tile g).cartFor sel = some i) :
    h.dispatch id g s c = (h.launched g s c).startCart id g s c i off := by
  have taken' : ((h.launched g s c).tile g).cartFor sel = some i := by rw [Hw.tile_launched]; exact taken
  unfold Hw.dispatch
  simp only [hop, hw]
  change (match ((h.launched g s c).tile g).cartFor sel with
    | some i => (h.launched g s c).startCart id g s c i off
    | none => h.launched g s c) = _
  rw [taken']

/-- A CART at the head whose cart is to be had leaves the queue and is the one that cart holds; the other carts stand (06 R145). -/
theorem commandDispatch_cart_tile (id : Ident) (g s : Nat) (h : Hw) {c : QCmd} {rest : List QCmd} {off sel i : Nat} {d : List Byte} {b : Nat}
    (hq : (h.stream g s).queue = c :: rest) (hop : c.op = .cart off sel) (hw : syWen c.sync = false)
    (taken : (h.tile g).cartFor sel = some i) (read : h.granRead g off 32 = .ok d) (checked : cartDescOk d = true)
    (far : h.cartBase id g d = some b) :
    ∃ x : Cart, x.Holds s c.seq d ∧
      (commandDispatch id g s h).tile g = ((h.tile g).modStream s (fun y => y.passHead c)).modCart i (fun _ => x) := by
  have goes : commandDispatch id g s h = (h.launched g s c).startCart id g s c i off := by
    simp [commandDispatch, Hw.tryDispatch, hq, Hw.headGoes_cart h g s hop hw, taken, Hw.dispatch_cart id h g s hop hw taken]
  obtain ⟨x, holds, tile⟩ := Hw.startCart_runs id (h.launched g s c) g s c i off ((Hw.granRead_launched _ _ _ _ _ _ _).trans read) checked
    ((Hw.cartBase_of_onlyChanges id g d (Hw.only_launched h g s c)).trans far)
  exact ⟨x, holds, by rw [goes, tile, Hw.tile_launched]⟩

theorem exec_commandDispatch (g s : Nat) (st : State) :
    exec (.commandDispatch g s) st = .next { st with hw := commandDispatch st.ident g s st.hw.fresh } := rfl

theorem does_commandDispatch_cart (g s : Nat) (st : State) {c : QCmd} {rest : List QCmd} {off sel i : Nat} {d : List Byte} {b : Nat}
    (hq : (st.hw.stream g s).queue = c :: rest) (hop : c.op = .cart off sel) (hw : syWen c.sync = false)
    (taken : (st.hw.tile g).cartFor sel = some i) (read : st.hw.granRead g off 32 = .ok d) (checked : cartDescOk d = true)
    (far : st.hw.cartBase st.ident g d = some b) :
    Does (.commandDispatch g s) st fun h => (h.stream g s).queue = rest ∧ ((h.tile g).cart i).Holds s c.seq d ∧
      ∀ j, j ≠ i → (h.tile g).cart j = (st.hw.tile g).cart j := by
  obtain ⟨x, holds, tile⟩ := commandDispatch_cart_tile st.ident g s st.hw.fresh hq hop hw taken read checked far
  refine ⟨_, exec_commandDispatch g s st, ?_, ?_, fun j hj => ?_⟩
  · have passed : (st.hw.stream g s).queue.drop 1 = rest := by rw [hq, List.drop_one, List.tail_cons]
    rw [Hw.stream, tile, Tile.stream_modCart, Tile.stream_modStream_self]
    exact passed
  · rw [tile, Tile.cart_modCart_self]
    exact holds
  · rw [tile, Tile.cart_modCart_ne _ _ hj]
    rfl

/-- Settles O15: at issue by the reject of `queueCmd`, at the head by the cart that `Tile.cartFor` chooses and what its start leaves. -/
theorem cartIssueChecksAndCartChoice : Obligations.CartIssueChecksAndCartChoice := by
  unfold Obligations.CartIssueChecksAndCartChoice
  refine ⟨?_, fun t sel hi => ⟨fun lo i => t.cartFor_any lo hi i, t.cartFor_named⟩, ?_⟩
  · intro g s rs1 rs2 sy st _ may hf x a hsy bad
    have bad' : (a / 2 ^ 23 ≠ 0 ∨ a % 32 ≠ 0 ∨ 0x5FFFE0 < a) ∨ (x.getX rs2).toNat / 8 ≠ 0 := by omega
    refine faultsWith_of_streamFault ((exec_cart g s rs1 rs2 sy st).trans ?_) hf
    rw [cartIssue_rejected g s rs1 rs2 sy st.hw.fresh may hsy bad']
    rfl
  · intro g s c rest off sel st _ hq hop hw x
    refine ⟨fun none_idle => ⟨?_, fun running started no_wait room no_stall =>
      Hw.waitOf_cart st.hw g s hq hop none_idle running started no_wait room no_stall⟩, fun i d b taken read checked far => ?_⟩
    · exact (exec_commandDispatch g s st).trans (by rw [commandDispatch_cart_waits st.ident g s st.hw.fresh hq hop hw none_idle])
    · obtain ⟨h, ran, queue, ⟨busy, stream, seq, desc⟩, others⟩ := does_commandDispatch_cart g s st hq hop hw taken read checked far
      exact ⟨h, ran, queue, busy, stream, seq, desc, others⟩

end Sys2Proof.Machine
end
